-- ==== Sys2Proof/Word.lean ====
section
/-! DEFINITION. The words of the J24: bytes, receiver addresses, phases, and a value held once per phase. -/

namespace Sys2Proof

/-- One byte of the uplink (R143). -/
abbrev Byte := BitVec 8

/-- The 32-bit identity a receiver answers to on the line (R21). -/
abbrev Address := BitVec 32

/-- One of the three mains phases, and the lane, timing unit and monitor that serve it. -/
inductive Phase where
  | A
  | B
  | C
deriving DecidableEq, Repr

/-- A value held once for each phase. -/
structure PerPhase (α : Type) where
  a : α
  b : α
  c : α
deriving DecidableEq, Repr

end Sys2Proof
end

