-- ==== Sys2Proof/Syntax.lean ====
section
/-! DEFINITION. The commands of the J24: one constructor for each row of spec/opcode_table.json, with the
operands its rules give it. -/

namespace Sys2Proof

/-- Which of the reports formed at a half-cycle boundary have been taken by their owners before the lane
asks for its candidates at that boundary, and in which order (R74: "if the queue has already taken the end
report"; R114: "either may be taken first"). -/
inductive ReportOrder where
  | neither
  | queueOnly
  | tableOnly
  | queueThenTable
  | tableThenQueue
deriving DecidableEq, Repr

/-- The content of a SUBMIT request as it is carried (R173): every field at its width on the uplink. -/
structure SubmitFields where
  id : BitVec 32
  kind : Byte
  targetType : Byte
  target : BitVec 32
  priority : Byte
  options : Byte
  budget : Byte
  rounds : Byte
  windows : Byte
  release : BitVec 32
  deadline : BitVec 32
  payload : List Byte
deriving DecidableEq, Repr

/-- The content of a UNIT WRITE request as it is carried (R175); the two counts are the lists' lengths. -/
structure UnitWriteFields where
  index : BitVec 16
  state : Byte
  address : Address
  phase : Byte
  successor : BitVec 16
  route : List (BitVec 16)
  groups : List Byte
deriving DecidableEq, Repr

/-- The commands, in the order of the table. A request's first operand is the tag of its frame. -/
inductive Instr where
  /-- DEVICE_RESET (R19): the FSEL and BAUD straps as sampled at the release of RESETN. -/
  | deviceReset (fsel : Bool) (baud : BitVec 2)
  /-- CROSSING (R2): a rising edge of the phase's ZC input at the present tick. -/
  | crossing (ph : Phase)
  /-- MISS_TEST (R10). -/
  | missTest (ph : Phase)
  /-- HALF_CYCLE_BOUNDARY (R12): whether the monitor acts before the lane (R136), and which reports formed
  here are taken before the lane asks for candidates (R74, R114). -/
  | halfCycleBoundary (ph : Phase) (monitorFirst : Bool) (reports : ReportOrder)
  /-- SECOND_EVENT (R16). -/
  | secondEvent
  /-- NOT_BEFORE_TIME_PASSES (R59): the record's command identifier and the target's unit index. -/
  | notBeforeTimePasses (id : BitVec 32) (unit : Nat)
  /-- END_REPORT (R60): which of the end reports in transit is taken, 0 the oldest. -/
  | endReport (which : Nat)
  /-- LEARNING_REPORT (R119): which of the learning reports in transit is taken, 0 the oldest. -/
  | learningReport (which : Nat)
  /-- ABORT_REQUEST (R87): the lane that takes its oldest abort request. -/
  | abortRequest (lane : Phase)
  /-- RECEIVED_BYTE (R144, R146). -/
  | receivedByte (byte : Byte) (framingFault : Bool)
  /-- INTER_BYTE_TIMEOUT (R145). -/
  | interByteTimeout
  /-- TRANSMITTER_FREE (R151). -/
  | transmitterFree
  /-- WAITING_SLOT_TAKEN (R148). -/
  | waitingSlotTaken
  /-- SUBMIT (R43). -/
  | submit (tag : Byte) (fields : SubmitFields)
  /-- CANCEL (R63). -/
  | cancel (tag : Byte) (id : BitVec 32)
  /-- ADJUST (R62). -/
  | adjust (tag : Byte) (id : BitVec 32) (priority : Byte) (options : Byte)
  /-- COLLECT (R64). -/
  | collect (tag : Byte) (id : BitVec 32) (cls : Byte) (start : BitVec 16) (options : Byte)
  /-- RESTART (R65). -/
  | restart (tag : Byte)
  /-- UNIT_WRITE (R24). -/
  | unitWrite (tag : Byte) (fields : UnitWriteFields)
  /-- UNIT_READ_BY_INDEX (R34). -/
  | unitReadByIndex (tag : Byte) (start : BitVec 16) (count : Byte)
  /-- UNIT_READ_BY_ADDRESS (R35). -/
  | unitReadByAddress (tag : Byte) (address : Address)
  /-- DISCOVERY_READ (R127). -/
  | discoveryRead (tag : Byte) (option : Byte)
  /-- PROFILE_WRITE (R155): the presence mask and one byte per named setting. -/
  | profileWrite (tag : Byte) (mask : BitVec 16) (values : List Byte)
  /-- PROFILE_READ (R154). -/
  | profileRead (tag : Byte)
  /-- CLOCK_SET (R17). -/
  | clockSet (tag : Byte) (seconds : BitVec 32)
  /-- STOP (R83), over the lanes the mask names. -/
  | stop (tag : Byte) (mask : Byte)
  /-- PAUSE (R84). -/
  | pause (tag : Byte) (mask : Byte)
  /-- RESUME (R85). -/
  | resume (tag : Byte) (mask : Byte)
  /-- STATUS (R157). -/
  | status (tag : Byte) (option : Byte)
  /-- MASK_WRITE (R158). -/
  | maskWrite (tag : Byte) (mask : BitVec 16)
  /-- BAD_KIND (R149): a good frame whose kind is none of the fourteen. -/
  | badKind (kind : Byte) (tag : Byte) (content : List Byte)
  /-- WINDOW_BOUNDARY (R12). -/
  | windowBoundary (ph : Phase)
  /-- WINDOW_SAMPLE (R15): the levels of RXD, CD and LQ at the window's midpoint. -/
  | windowSample (ph : Phase) (rxd : Bool) (cd : Bool) (lq : Bool)
  /-- REFERENCE_TICK (R16). -/
  | referenceTick
deriving DecidableEq, Repr

end Sys2Proof
end

