-- ==== Sys2Proof/Decode.lean ====
section
/-! DEFINITION. The decoder of the opcode table: spec/opcode_table.json gives none of its rows any bits, so no
word spells a command (DEDUCED log 24). The encodings the spec does give, the uplink frames of chapter 11, are read in
Machine/Operands.lean and Machine/Uplink.lean. -/

namespace Sys2Proof

/-- The command a word spells by the table's bits: none, since no row has bits. -/
def decodeTableWord (_nbits _w : Nat) : Option Instr := none

end Sys2Proof
end

