-- ==== Sys2Proof/Machine/Bits.lean ====
section
/-! DEFINITION. Bit order, byte order and the one CRC of line frames, answer frames and the uplink (R93, R172). -/

namespace Sys2Proof.Machine

/-- The `width` low bits of a number, most significant bit first (R93: the order in which they are sent). -/
def bitsOf (width value : Nat) : List Bool :=
  (List.range width).map fun i => value.testBit (width - 1 - i)

/-- The number that a list of bits spells, most significant bit first. -/
def natOfBits (bits : List Bool) : Nat :=
  bits.foldl (fun n b => 2 * n + b.toNat) 0

/-- The bits of a list of bytes, each byte most significant bit first. -/
def bitsOfBytes (bytes : List Byte) : List Bool :=
  bytes.flatMap fun b => bitsOf 8 b.toNat

/-- One covered bit into the CRC remainder (R93). -/
def crcStep (r : BitVec 16) (bit : Bool) : BitVec 16 :=
  if (r.getLsbD 15 == bit) then r <<< 1 else (r <<< 1) ^^^ 0x1021

/-- The CRC of R93 over covered bits: generator x^16 + x^12 + x^5 + 1, from 0xFFFF, with no final inversion. -/
def crcOfBits (bits : List Bool) : BitVec 16 :=
  bits.foldl crcStep 0xFFFF

/-- The CRC over bytes in the order sent. -/
def crcOfBytes (bytes : List Byte) : BitVec 16 :=
  crcOfBits (bitsOfBytes bytes)

/-- A number as two bytes, the more significant first (R172). -/
def bytes2 (n : Nat) : List Byte :=
  [BitVec.ofNat 8 (n / 256), BitVec.ofNat 8 n]

/-- A number as four bytes, the most significant first (R172). -/
def bytes4 (n : Nat) : List Byte :=
  [BitVec.ofNat 8 (n / 16777216), BitVec.ofNat 8 (n / 65536), BitVec.ofNat 8 (n / 256), BitVec.ofNat 8 n]

/-- The number that bytes spell, the most significant first (R172). -/
def natOfBytes (bytes : List Byte) : Nat :=
  bytes.foldl (fun n b => 256 * n + b.toNat) 0

/-- Two bytes as a 16-bit value, the more significant first. -/
def word2 (a b : Byte) : BitVec 16 := a ++ b

/-- Four bytes as a 32-bit value, the most significant first. -/
def word4 (a b c d : Byte) : BitVec 32 := a ++ b ++ c ++ d

end Sys2Proof.Machine
end

