-- ==== Sys2Proof/Machine/State.lean ====
section
/-! DEFINITION. The state of the J24, block by block, as plain data, and the state after a device reset. -/

namespace Sys2Proof.Machine

/-! ### Phase timing unit (R1) -/

/-- The timing state of a phase (R1). -/
inductive TimingState where
  | locking
  | locked
  | coasting
  | lost
deriving DecidableEq, Repr

/-- A pending correction: the correction `c` in ticks and the proposed estimate P′ (R1, R8). -/
structure Correction where
  c : Int
  p : Nat
deriving DecidableEq, Repr

/-- The last crossing taken as a reference, and the cycle boundary it was accepted for (R1). -/
structure Anchor where
  time : Nat
  boundary : Option Nat
deriving DecidableEq, Repr

/-- The cycle in progress: its start B and length L (R1), the start of the cycle before it in the same run of
the grid (R8 step 3), and whether the miss test of B has been taken (R7, R10). -/
structure Cycle where
  start : Nat
  length : Nat
  previous : Option Nat
  missTested : Bool
deriving DecidableEq, Repr

/-- The levels sampled at a window's midpoint (R15). -/
structure Sample where
  rxd : Bool
  cd : Bool
  lq : Bool
deriving DecidableEq, Repr

/-- The symbol window in progress (R12, R14). -/
structure Window where
  index : Nat
  start : Nat
  length : Nat
deriving DecidableEq, Repr

/-- The half-cycle in progress (R1): which half, its start and length H, the latched W, the window-length
accumulator, the window in progress and the midpoint samples taken so far, window 0 first. -/
structure HalfCycle where
  positive : Bool
  start : Nat
  length : Nat
  w : Nat
  acc : Nat
  window : Option Window
  samples : List Sample
deriving DecidableEq, Repr

/-- One phase timing unit (R1). -/
structure Ptu where
  timing : TimingState
  p : Nat
  correction : Option Correction
  lockCount : Nat
  missCount : Nat
  anchor : Option Anchor
  cycle : Option Cycle
  half : Option HalfCycle
deriving DecidableEq, Repr

/-! ### Network clock (R16) and profile store (R154) -/

/-- The network clock (R16). -/
structure Clock where
  isSet : Bool
  seconds : Nat
  sub : Nat
deriving DecidableEq, Repr

/-- The nine settings of the profile store (R154). -/
structure Profile where
  w : Nat
  urgent : Nat
  coast : Nat
  silence : Nat
  retry : Nat
  deferral : Nat
  robustEnter : Nat
  robustLeave : Nat
  boost : Nat
deriving DecidableEq, Repr

/-! ### Unit table (R21) -/

/-- What a unit entry stands for (R22). -/
inductive UnitState where
  | empty
  | active
  | silent
  | redirected
deriving DecidableEq, Repr

/-- One entry of the unit table (R21); a phase of `none` is UNKNOWN. -/
structure Entry where
  state : UnitState
  address : Option Address
  phase : Option Phase
  route : List Nat
  groups : List Byte
  successor : Option Nat
  quality : Option Nat
  silence : Nat
  conflict : Nat
deriving DecidableEq, Repr

/-! ### Dispatch queue (R40 to R42) -/

/-- What a command delivers (R41). -/
inductive CommandKind where
  | tariff
  | rollcall
deriving DecidableEq, Repr

/-- A roll call's condition with its parameter (R38). -/
inductive Condition where
  | allActive
  | group (g : Byte)
  | phaseUnknown
  | silent
  | qualityBelow (q : Nat)
  | discover
deriving DecidableEq, Repr

/-- The target as the head-end wrote it (R41). -/
inductive TargetSpec where
  | unit (address : Address)
  | group (g : Byte)
  | all
  | cond (c : Condition)
deriving DecidableEq, Repr

/-- Why a target was not reached (R42). -/
inductive Cause where
  | budgetSpent
  | routeBroken
  | deadline
  | cancelled
  | noLane
deriving DecidableEq, Repr

/-- A target's result so far, with the cause of UNREACHED and the status of REFUSED (R42). -/
inductive TargetOutcome where
  | pending
  | confirmed
  | refused (status : Byte)
  | unreached (cause : Cause)
  | unconfirmed
deriving DecidableEq, Repr

/-- A not-before time (R42), and whether the event of its passing has been taken (R59, DEDUCED log 13). -/
structure NotBefore where
  time : Nat
  passed : Bool
deriving DecidableEq, Repr

/-- The state of one member of a record's target set (R42). -/
structure Target where
  unit : Nat
  outcome : TargetOutcome
  attempts : Nat
  notBefore : Option NotBefore
  inFlight : Bool
deriving DecidableEq, Repr

/-- Why a CLOSING record is closing (R41). -/
inductive ClosingCause where
  | cancel
  | expiry
deriving DecidableEq, Repr

/-- How a record ended (R41). -/
inductive FinalOutcome where
  | complete
  | expired
  | cancelled
deriving DecidableEq, Repr

/-- Where a record stands, with the closing cause in CLOSING and the final outcome in DONE (R41). -/
inductive RecordState where
  | waiting
  | ready
  | active
  | closing (cause : ClosingCause)
  | done (outcome : FinalOutcome)
deriving DecidableEq, Repr

/-- The stage of a record: BROADCAST round k, or FOLLOW-UP (R41). -/
inductive Stage where
  | broadcast (round : Nat)
  | followUp
deriving DecidableEq, Repr

/-- The standing of a round's part (R52). -/
inductive Standing where
  | offered
  | inFlight
  | ended
deriving DecidableEq, Repr

/-- One part of a round: the lane that carries it, or `none` for a joined part (R52). -/
structure Part where
  lane : Option Phase
  standing : Standing
deriving DecidableEq, Repr

/-- One dispatch record (R41). `serial` tells records apart for life (R57, DESIGN CHOICE log 18). -/
structure Record where
  serial : Nat
  id : BitVec 32
  tag : Nat
  kind : CommandKind
  target : TargetSpec
  targets : List Target
  priority : Nat
  enable : Bool
  budget : Nat
  rounds : Option Nat
  windows : Nat
  release : Nat
  deadline : Nat
  payload : List Byte
  state : RecordState
  stage : Stage
  parts : List Part
  roundsSent : Nat
  collided : Nat
  flights : Nat
  lanesSeen : PerPhase Bool
deriving DecidableEq, Repr

/-! ### Lanes and exchanges (R66, R90) -/

/-- A signalling mode (R129). -/
inductive Mode where
  | normal
  | robust
deriving DecidableEq, Repr

/-- The eight lane states (R67). -/
inductive LaneState where
  | idle
  | reserved
  | armed
  | sending
  | listening
  | paused
  | stopped
  | settling
deriving DecidableEq, Repr

/-- The work of an item: a unicast attempt to one unit, or the part of a broadcast round (R56). -/
inductive Work where
  | unicast (unit : Nat)
  | part (round : Nat)
deriving DecidableEq, Repr

/-- A work item as the queue offers it (R56): its record, its work, whether it is joined work, its priority. -/
structure WorkItem where
  serial : Nat
  work : Work
  joined : Bool
  priority : Nat
deriving DecidableEq, Repr

/-- The joined item a lane is held for, and whether the reservation was forced (R66). -/
structure Reservation where
  item : WorkItem
  forced : Bool
deriving DecidableEq, Repr

/-- Why an exchange ended other than ordinarily (03, 3.6). -/
inductive AbortCause where
  | preempted
  | stopped
  | lost
  | expiry
  | restart
deriving DecidableEq, Repr

/-- The two kinds of plan (R98, R99): a unicast over `hops` relays, or a broadcast with `windows` answer windows. -/
inductive PlanKind where
  | unicast (hops : Nat)
  | broadcast (windows : Nat)
deriving DecidableEq, Repr

/-- The plan of an exchange (R90): its kind, the half-cycles n of the frame and a of an answer, the length T,
and for a joined exchange the lanes of the set. -/
structure Plan where
  kind : PlanKind
  n : Nat
  a : Nat
  t : Nat
  lanes : List Phase
deriving DecidableEq, Repr

/-- A good answer as read (R90, R106). -/
structure Decode where
  address : Address
  status : Byte
  quality : Nat
deriving DecidableEq, Repr

/-- The exchange in flight on a lane (R90). `exch` numbers the exchange over all its lanes (DESIGN CHOICE log 18), `position`
is 0 while ARMED, `heard` holds the half-cycles of the answer window in progress (R103), and `wholeAbort` the
cause of an abort of the whole joined exchange (R112). -/
structure Exchange where
  exch : Nat
  serial : Nat
  lineTag : Nat
  work : Work
  joined : Bool
  frame : List Bool
  targets : List (Nat × Address)
  plan : Plan
  position : Nat
  mode : Mode
  boost : Bool
  priority : Nat
  forced : Bool
  abortDue : Option AbortCause
  wholeAbort : Option AbortCause
  heard : List (List Sample)
  decodes : List Decode
  collided : Nat
deriving DecidableEq, Repr

/-- One lane controller (R66), with the output pins it drives (11, 11.1). -/
structure Lane where
  state : LaneState
  winner : Option WorkItem
  deferral : Nat
  reserved : Option Reservation
  exchange : Option Exchange
  pauseDue : Bool
  stopDue : Bool
  settling : Nat
  txd : Bool
  txen : Bool
  drv : Bool
deriving DecidableEq, Repr

/-- An exchange's part that has ended on its lane: the cause of its end, absent for an ordinary one (R108 to R110). -/
structure EndedPart where
  lane : Phase
  exchange : Exchange
  cause : Option AbortCause
deriving DecidableEq, Repr

/-- The end report of an exchange in transit to the queue (R113). `lane` is absent for a joined exchange. -/
structure EndReport where
  serial : Nat
  work : Work
  lane : Option Phase
  units : List Nat
  answered : List (Nat × Byte)
  notAnswered : Option Nat
  collided : Nat
  endTime : Nat
  cause : Option AbortCause
  abortedWhole : Bool
deriving DecidableEq, Repr

/-- A kept answer in a learning report (R114). -/
structure KeptAnswer where
  address : Address
  lane : Phase
  hops : Nat
  quality : Nat
deriving DecidableEq, Repr

/-- The learning report of an exchange in transit to the unit table (R114, R119). -/
structure LearningReport where
  answers : List KeptAnswer
  silence : Option (Nat × Address)
deriving DecidableEq, Repr

/-- The queue's request to a lane to abort its exchange for a record, in transit (R87). -/
structure AbortRequest where
  lane : Phase
  serial : Nat
  cause : AbortCause
deriving DecidableEq, Repr

/-! ### Line condition monitor (R129) -/

/-- The judgement on an ended half-cycle (R132). -/
inductive Verdict where
  | none
  | clear
  | notClear
deriving DecidableEq, Repr

/-- The lane state reported at a half-cycle's start, and whether a LISTENING half-cycle is a gap (R129, R130). -/
structure StartState where
  state : LaneState
  gap : Bool
deriving DecidableEq, Repr

/-- One line condition monitor (R129). -/
structure Lcm where
  floor : Nat
  mode : Mode
  latch : Bool
  verdict : Verdict
  verdictAt : Option Nat
  start : Option StartState
deriving DecidableEq, Repr

/-! ### Uplink interface (R142) and event unit (R159) -/

/-- The receive state (R144). -/
inductive RxState where
  | hunting
  | length
  | body
  | crc
deriving DecidableEq, Repr

/-- The frame in reception (R142): the length byte, the body bytes and CRC bytes so far, and the arrival time of
the last byte. -/
structure PartialFrame where
  length : Option Byte
  body : List Byte
  crc : List Byte
  lastAt : Nat
deriving DecidableEq, Repr

/-- An uplink frame without its start byte, length byte and CRC: kind, tag and content (08, 8.2). -/
structure Frame where
  kind : Byte
  tag : Byte
  content : List Byte
deriving DecidableEq, Repr

/-- The transmitter: free, or sending the response at the head of the response queue, or a NOTICE (R142). `since` is
the tick at which the frame's first start bit began, which with the line rate says how far it has been sent. -/
inductive Transmitter where
  | free
  | response (f : Frame) (since : Nat)
  | notice (f : Frame) (since : Nat)
deriving DecidableEq, Repr

/-- The uplink interface (R142); `baud` holds the BAUD straps as sampled (R143). -/
structure Uli where
  rx : RxState
  partialFrame : Option PartialFrame
  slot : Option Frame
  responses : List Frame
  tx : Transmitter
  noticeDue : Bool
  baud : BitVec 2
deriving DecidableEq, Repr

/-- The event unit's flags and mask, bit k the k-th flag of R172's flag word (R159). -/
structure Events where
  flags : BitVec 12
  mask : BitVec 12
deriving DecidableEq, Repr

/-! ### The whole block -/

/-- The state of the J24. -/
structure State where
  now : Nat
  ptu : PerPhase Ptu
  clock : Clock
  profile : Profile
  units : List (Nat × Entry)
  discovery : List Address
  records : List Record
  tagCounter : Nat
  inFlight : List Nat
  nextSerial : Nat
  nextExchange : Nat
  lanes : PerPhase Lane
  endedParts : List EndedPart
  endReports : List EndReport
  learningReports : List LearningReport
  abortRequests : List AbortRequest
  lcm : PerPhase Lcm
  uli : Uli
  events : Events
  draws : Nat
  pending : List Instr
deriving DecidableEq, Repr

/-- The spec gives the block no fault: no command stops it. -/
inductive Fault where
deriving DecidableEq, Repr

/-- Why a command has no meaning. -/
inductive Refusal where
  /-- Raised by an arm of exec for a command that has no meaning yet; no arm raises it. Safe. -/
  | notModelled (mnemonic : String)
deriving DecidableEq, Repr

/-! ### Reset values -/

/-- A phase timing unit after a device reset (R1); FSEL high selects 60 Hz. -/
def resetPtu (fsel : Bool) : Ptu :=
  { timing := .locking, p := if fsel then 17067 else 20480, correction := none, lockCount := 0,
    missCount := 0, anchor := none, cycle := none, half := none }

/-- The clock after a device reset (R16). -/
def resetClock : Clock := { isSet := false, seconds := 0, sub := 0 }

/-- The profile store's defaults (R154). -/
def defaultProfile : Profile :=
  { w := 48, urgent := 56, coast := 8, silence := 8, retry := 2, deferral := 50, robustEnter := 96,
    robustLeave := 48, boost := 4 }

/-- An EMPTY entry: every field at its reset value (R21, R22). -/
def emptyEntry : Entry :=
  { state := .empty, address := none, phase := none, route := [], groups := [], successor := none,
    quality := none, silence := 0, conflict := 0 }

/-- A lane after a device reset (R66); TXD's level there is a DESIGN CHOICE, DESIGN CHOICE log 1. -/
def resetLane : Lane :=
  { state := .idle, winner := none, deferral := 0, reserved := none, exchange := none, pauseDue := false,
    stopDue := false, settling := 0, txd := false, txen := false, drv := false }

/-- A monitor after a device reset (R129). -/
def resetLcm : Lcm :=
  { floor := 0, mode := .normal, latch := false, verdict := .none, verdictAt := none, start := none }

/-- The uplink interface after a device reset (R142), with the straps sampled at its release (R143). -/
def resetUli (baud : BitVec 2) : Uli :=
  { rx := .hunting, partialFrame := none, slot := none, responses := [], tx := .free, noticeDue := true,
    baud := baud }

/-- The event unit after a device reset: STARTED alone set and unmasked (R159). -/
def resetEvents : Events := { flags := 1, mask := 1 }

/-- The part as a device reset leaves it, for the straps sampled at the release of RESETN (R1, R16, R21, R40,
R42, R66, R126, R129, R142, R154, R159). -/
def stateAfterReset (fsel : Bool) (baud : BitVec 2) : State :=
  { now := 0, ptu := ⟨resetPtu fsel, resetPtu fsel, resetPtu fsel⟩, clock := resetClock,
    profile := defaultProfile, units := [], discovery := [], records := [], tagCounter := 1, inFlight := [],
    nextSerial := 0, nextExchange := 0, lanes := ⟨resetLane, resetLane, resetLane⟩, endedParts := [],
    endReports := [], learningReports := [], abortRequests := [], lcm := ⟨resetLcm, resetLcm, resetLcm⟩,
    uli := resetUli baud, events := resetEvents, draws := 0, pending := [] }

/-- The machine right after reset, with FSEL low and the BAUD straps 0 (DESIGN CHOICE log 1). -/
def State.reset : State := stateAfterReset false 0

end Sys2Proof.Machine
end

