-- ==== Sys2Proof/Machine/Ops.lean ====
section
/-! DEFINITION. The named operations over the state: the parts held once per phase, the sparse unit table, and
the questions that one block asks another. -/

namespace Sys2Proof.Machine

/-- The three phases, A first. -/
def allPhases : List Phase := [.A, .B, .C]

/-- The value a phase holds. -/
def atPhase {α : Type} (x : PerPhase α) : Phase → α
  | .A => x.a
  | .B => x.b
  | .C => x.c

/-- The phases' values with one of them replaced. -/
def putPhase {α : Type} (x : PerPhase α) (ph : Phase) (v : α) : PerPhase α :=
  match ph with
  | .A => { x with a := v }
  | .B => { x with b := v }
  | .C => { x with c := v }

/-- One value for each phase. -/
def perPhase {α : Type} (f : Phase → α) : PerPhase α := ⟨f .A, f .B, f .C⟩

/-- The lane of a phase. -/
def laneOf (s : State) (ph : Phase) : Lane := atPhase s.lanes ph

/-- The timing unit of a phase. -/
def ptuOf (s : State) (ph : Phase) : Ptu := atPhase s.ptu ph

/-- The line condition monitor of a phase. -/
def lcmOf (s : State) (ph : Phase) : Lcm := atPhase s.lcm ph

/-- Replace one lane. -/
def setLane (s : State) (ph : Phase) (l : Lane) : State := { s with lanes := putPhase s.lanes ph l }

/-- Replace one timing unit. -/
def setPtu (s : State) (ph : Phase) (u : Ptu) : State := { s with ptu := putPhase s.ptu ph u }

/-- Replace one monitor. -/
def setLcm (s : State) (ph : Phase) (m : Lcm) : State := { s with lcm := putPhase s.lcm ph m }

/-- Replace the uplink interface. -/
def setUli (s : State) (u : Uli) : State := { s with uli := u }

/-! ### The unit table, held sparse (R21, DESIGN CHOICE log 30) -/

/-- The entry at an index: the EMPTY entry where the list has none. -/
def entryAt : List (Nat × Entry) → Nat → Entry
  | [], _ => emptyEntry
  | (j, e) :: rest, i => if i = j then e else entryAt rest i

/-- The table with one entry replaced, in canonical form: storing the EMPTY entry removes the index. -/
def putEntry : List (Nat × Entry) → Nat → Entry → List (Nat × Entry)
  | [], i, e => if e = emptyEntry then [] else [(i, e)]
  | (j, f) :: rest, i, e =>
    if i < j then (if e = emptyEntry then (j, f) :: rest else (i, e) :: (j, f) :: rest)
    else if i = j then (if e = emptyEntry then rest else (i, e) :: rest)
    else (j, f) :: putEntry rest i e

/-- The canonical form of the table: indices strictly rising below 1,024, no entry EMPTY. -/
def tableWf (units : List (Nat × Entry)) : Bool :=
  decide ((units.map Prod.fst).Pairwise (· < ·)) &&
    units.all fun x => decide (x.1 < 1024) && decide (x.2 ≠ emptyEntry)

/-- The entry at an index of the state's table. -/
def unitAt (s : State) (i : Nat) : Entry := entryAt s.units i

/-- A live unit: ACTIVE or SILENT (R22). -/
def isLive (e : Entry) : Bool := e.state == .active || e.state == .silent

/-- The index of the non-EMPTY entry that holds an address (R26, R35, R120). -/
def holderOf (units : List (Nat × Entry)) (address : Address) : Option Nat :=
  (units.find? fun x => x.2.state != .empty && x.2.address == some address).map Prod.fst

/-! ### What the lanes' questions are answered from -/

/-- The half-cycles remaining before second `deadline` on a phase (R18). -/
def halfCyclesRemaining (s : State) (ph : Phase) (deadline : Nat) : Nat :=
  if deadline = 0 then 65535
  else if s.clock.isSet = false then 0
  else
    let rt : Int := ((deadline : Int) - s.clock.seconds) * 1024000 - s.clock.sub
    if rt ≤ 0 then 0 else min 65535 ((2 * rt).toNat / (ptuOf s ph).p)

/-- The phase is trusted for a grant: LOCKED, or COASTING with no more misses than the coast limit (R68, R70). -/
def phaseTrusted (s : State) (ph : Phase) : Bool :=
  match (ptuOf s ph).timing with
  | .locked => true
  | .coasting => decide ((ptuOf s ph).missCount ≤ s.profile.coast)
  | .locking => false
  | .lost => false

/-- The lane states that may take part in joined work (R68). -/
def inService : LaneState → Bool
  | .idle | .reserved | .armed | .sending | .listening => true
  | .paused | .stopped | .settling => false

/-- The lane is usable (R68). -/
def usable (s : State) (ph : Phase) : Bool := inService (laneOf s ph).state && phaseTrusted s ph

/-- The lane is occupied: ARMED, SENDING or LISTENING (R67). -/
def isOccupied : LaneState → Bool
  | .armed | .sending | .listening => true
  | .idle | .reserved | .paused | .stopped | .settling => false

/-- The pending priority: the pending winner's, or 0 (R69). -/
def pendingPriority (l : Lane) : Nat := (l.winner.map WorkItem.priority).getD 0

/-- The current priority: the one latched by the exchange that occupies the lane, or 0 (R67). -/
def currentPriority (l : Lane) : Nat := (l.exchange.map Exchange.priority).getD 0

/-- The lane is STOPPED or its phase is LOST: it can carry no part and is not seen (R46, R50, R53). -/
def outOfReach (s : State) (ph : Phase) : Bool :=
  (laneOf s ph).state == .stopped || (ptuOf s ph).timing == .lost

end Sys2Proof.Machine
end

