-- ==== Sys2Proof/Machine/Flags.lean ====
section
/-! DEFINITION. The event unit: the twelve flags, their raising, and notice-due (R159 to R163, R172). -/

namespace Sys2Proof.Machine

/-- The twelve event flags, in the order of R159's table. -/
inductive Flag where
  | started
  | recordDone
  | phaseLocked
  | gridCoast
  | phaseLost
  | foreignCarrier
  | lineBusy
  | modeChange
  | phaseMoved
  | discovery
  | discoveryFull
  | uplinkError
deriving DecidableEq, Repr

/-- A flag's bit in the flag word (R172). -/
def flagBit : Flag → Nat
  | .started => 0
  | .recordDone => 1
  | .phaseLocked => 2
  | .gridCoast => 3
  | .phaseLost => 4
  | .foreignCarrier => 5
  | .lineBusy => 6
  | .modeChange => 7
  | .phaseMoved => 8
  | .discovery => 9
  | .discoveryFull => 10
  | .uplinkError => 11

/-- The flag word with one flag alone set. -/
def flagWord (f : Flag) : BitVec 12 := 1 <<< flagBit f

/-- The flag is set. -/
def flagSet (s : State) (f : Flag) : Bool := s.events.flags.getLsbD (flagBit f)

/-- The flag's mask position is set: the flag is unmasked. -/
def unmasked (s : State) (f : Flag) : Bool := s.events.mask.getLsbD (flagBit f)

/-- The flags that are both set and unmasked (R153, R163). -/
def reportable (s : State) : BitVec 12 := s.events.flags &&& s.events.mask

/-- Raise a flag (R160): a clear flag becomes set, and notice-due is set if the flag is unmasked; a set flag
changes nothing. -/
def raise (f : Flag) (s : State) : State :=
  if flagSet s f then s
  else
    { s with
      events := { s.events with flags := s.events.flags ||| flagWord f },
      uli := { s.uli with noticeDue := s.uli.noticeDue || unmasked s f } }

/-- Raise a flag when a condition holds. -/
def raiseIf (c : Bool) (f : Flag) (s : State) : State := if c then raise f s else s

end Sys2Proof.Machine
end

