-- ==== Sys2Proof/Machine/Monitor.lean ====
section
/-! DEFINITION. The line condition monitor (chapter 7): quiet half-cycles, the clear verdict, the noise floor, the
mode and the activity latch. -/

namespace Sys2Proof.Machine

/-- What the timing unit hands over with the boundary that ends a half-cycle (R12): its midpoint samples, window 0
first, the W latched for it, and the time of the boundary. -/
structure EndedHalf where
  samples : List Sample
  w : Nat
  time : Nat
deriving DecidableEq, Repr

/-- The data windows of a half-cycle: D = W − 2 (R13). -/
def dataWindows (w : Nat) : Nat := w - 2

/-- The samples of the data windows, indices 1 to D (R131). -/
def dataSamples (samples : List Sample) (w : Nat) : List Sample := (samples.drop 1).take (dataWindows w)

/-- How many data windows carried carrier at their midpoint (R131). -/
def busyCount (samples : List Sample) (w : Nat) : Nat := ((dataSamples samples w).filter Sample.cd).length

/-- A half-cycle is quiet, from the start state its lane reported (R130). -/
def isQuiet : Option StartState → Bool
  | none => false
  | some st =>
    match st.state with
    | .idle | .reserved | .paused | .stopped | .settling => true
    | .listening => st.gap
    | .sending | .armed => false

/-- The verdict on an ended half-cycle (R132). -/
def verdictOn (m : Lcm) (ended : EndedHalf) : Verdict :=
  if isQuiet m.start then
    (if busyCount ended.samples ended.w ≤ dataWindows ended.w / 8 then .clear else .notClear)
  else .none

/-- The noise score of a quiet half-cycle (R134). -/
def noiseScore (busy d : Nat) : Nat := min 255 (256 * busy / d)

/-- The noise floor moved a quarter of the way toward a score, rounded toward the floor (R134). -/
def floorStep (floor score : Nat) : Nat := ((floor : Int) + Int.tdiv ((score : Int) - floor) 4).toNat

/-- The mode after an update that leaves the floor at `floor` (R135). -/
def nextMode (p : Profile) (mode : Mode) (floor : Nat) : Mode :=
  match mode with
  | .normal => if p.robustEnter ≤ floor then .robust else .normal
  | .robust => if floor ≤ p.robustLeave then .normal else .robust

/-- The monitor's work at the boundary that ends a half-cycle: the verdict always, and after a quiet half-cycle
the floor, the mode and the latch (R131 to R137). -/
def measured (p : Profile) (ended : EndedHalf) (m : Lcm) : Lcm :=
  let v := verdictOn m ended
  if isQuiet m.start then
    let busy := busyCount ended.samples ended.w
    let floor := floorStep m.floor (noiseScore busy (dataWindows ended.w))
    { m with
      floor, mode := nextMode p m.mode floor,
      latch := m.latch || decide (dataWindows ended.w / 2 < busy),
      verdict := v, verdictAt := some ended.time }
  else { m with verdict := v, verdictAt := some ended.time }

/-- The monitor of a phase measures an ended half-cycle, raising MODE_CHANGE and FOREIGN_CARRIER (R135, R137). -/
def measure (ph : Phase) (ended : EndedHalf) (s : State) : State :=
  let m := lcmOf s ph
  let m' := measured s.profile ended m
  raiseIf (m.mode != m'.mode) .modeChange (raiseIf (!m.latch && m'.latch) .foreignCarrier (setLcm s ph m'))

/-- The monitor when its phase is lost (R139): no verdict and no start state; floor, mode and latch are kept. The boundary
held with the last verdict goes with the verdict (DESIGN CHOICE log 44). -/
def monitorLoss (ph : Phase) (s : State) : State :=
  setLcm s ph { lcmOf s ph with verdict := .none, verdictAt := none, start := none }

end Sys2Proof.Machine
end

