-- ==== Sys2Proof/Machine/Table.lean ====
section
/-! DEFINITION. The unit table (chapter 2) and its learning (chapter 6): the checks of a write, what a write
stores, target expansion, and what answers and silence teach. -/

namespace Sys2Proof.Machine

/-! ### Looking up and expanding -/

/-- Follow successors from an index, at most `steps` links, until a live unit is reached (R23, R36). -/
def followChain (units : List (Nat × Entry)) : Nat → Nat → Option Nat
  | 0, i => if isLive (entryAt units i) then some i else none
  | k + 1, i =>
    let e := entryAt units i
    if isLive e then some i
    else if e.state = .redirected then
      match e.successor with
      | some j => followChain units k j
      | none => none
    else none

/-- The live units that satisfy a condition, in ascending index (R37, R38). -/
def liveWhere (units : List (Nat × Entry)) (p : Entry → Bool) : List Nat :=
  (units.filter fun x => isLive x.2 && p x.2).map Prod.fst

/-- A unit meets a roll call's condition (R38). -/
def meetsCondition : Condition → Entry → Bool
  | .allActive, _ => true
  | .group g, e => e.groups.contains g
  | .phaseUnknown, e => e.phase == none
  | .silent, e => e.state == .silent
  | .qualityBelow q, e =>
    match e.quality with
    | none => true
    | some v => decide (v < q)
  | .discover, _ => false

/-- The expansion of a target spec into unit indices, ascending; `none` is the failure UNKNOWN_UNIT (R36 to R38). -/
def expandTarget (units : List (Nat × Entry)) : TargetSpec → Option (List Nat)
  | .unit address =>
    match holderOf units address with
    | none => none
    | some i => (followChain units 4 i).map fun j => [j]
  | .group g => some (liveWhere units fun e => e.groups.contains g)
  | .all => some (liveWhere units fun _ => true)
  | .cond c => some (liveWhere units (meetsCondition c))

/-! ### The in-use rule -/

/-- A record holds the unit as a PENDING target (R29). -/
def pendingTarget (r : Record) (i : Nat) : Bool :=
  r.targets.any fun t => t.unit == i && t.outcome == .pending

/-- The unit is a target of an exchange in flight: on a lane, or with its end report not yet taken (R29, R33,
R65, DEDUCED log 20). -/
def inExchange (s : State) (i : Nat) : Bool :=
  s.inFlight.contains i ||
    allPhases.any fun ph =>
      match (laneOf s ph).exchange with
      | none => false
      | some x => x.targets.any fun t => t.1 == i

/-- The entry is in use (R29). -/
def inUse (s : State) (i : Nat) : Bool :=
  s.records.any (fun r => pendingTarget r i) || inExchange s i

/-! ### Writing an entry -/

/-- The unit states by their codes (R172). -/
def unitStateOfCode : Byte → Option UnitState
  | 0 => some .empty
  | 1 => some .active
  | 2 => some .silent
  | 3 => some .redirected
  | _ => none

/-- The phases by their codes; the inner `none` is UNKNOWN (R172). -/
def phaseOfCode : Byte → Option (Option Phase)
  | 0 => some (some .A)
  | 1 => some (some .B)
  | 2 => some (some .C)
  | 3 => some none
  | _ => none

/-- The results of a UNIT WRITE that refuse it (R24). -/
inductive WriteRefusal where
  | badField
  | addressTaken (holder : Nat)
  | badRoute
  | badChain
  | entryInUse
deriving DecidableEq, Repr

/-- An address no receiver may have: 0 or 0xFFFFFFFF (R25, R120). -/
def reservedAddress (a : Address) : Bool := a == 0 || a == 0xFFFFFFFF

/-- The route and groups of a live write are in order (R25). -/
def liveFieldsOk (f : UnitWriteFields) : Bool :=
  (phaseOfCode f.phase).isSome &&
    f.route.all (fun r => decide (r.toNat ≤ 1023)) && decide f.route.Nodup && !f.route.contains f.index &&
    f.groups.all (fun g => g != 0) && decide f.groups.Nodup

/-- The first check, field ranges (R25): the state written, or `none` for BAD_FIELD. -/
def fieldsChecked (f : UnitWriteFields) : Option UnitState :=
  if f.index.toNat > 1023 ∨ f.route.length > 3 ∨ f.groups.length > 4 then none
  else
    match unitStateOfCode f.state with
    | none => none
    | some .empty => some .empty
    | some .redirected =>
      if reservedAddress f.address ∨ f.successor.toNat > 1023 then none else some .redirected
    | some .active => if reservedAddress f.address ∨ liveFieldsOk f = false then none else some .active
    | some .silent => if reservedAddress f.address ∨ liveFieldsOk f = false then none else some .silent

/-- The second check, address uniqueness (R26): another non-EMPTY entry that holds the address. -/
def otherHolder (units : List (Nat × Entry)) (i : Nat) (address : Address) : Option Nat :=
  (units.find? fun x => x.1 != i && x.2.state != .empty && x.2.address == some address).map Prod.fst

/-- A relay can serve a unit on a phase: ACTIVE or SILENT on that phase (R27, R39). -/
def relayServes (units : List (Nat × Entry)) (ph : Option Phase) (i : Nat) : Bool :=
  isLive (entryAt units i) && (entryAt units i).phase == ph

/-- The third check, routes (R27). -/
def routeOk (units : List (Nat × Entry)) (ph : Option Phase) (route : List Nat) : Bool :=
  route.isEmpty || (ph.isSome && route.all (relayServes units ph))

/-- The fourth check, redirection chains (R28): every REDIRECTED entry reaches a live unit within 4 steps. (A chain
that comes back to an entry it has passed never reaches a live unit, so the walk of 4 steps fails on it too.) -/
def chainsOk (units : List (Nat × Entry)) : Bool :=
  units.all fun x => x.2.state != .redirected || (followChain units 4 x.1).isSome

/-- The learned fields after a write of state `st` (R31), given what was stored before. -/
def settleLearned (old : Entry) (st : UnitState) (address : Address) (phase : Option Phase) : Option Nat × Nat × Nat :=
  let kept := decide (old.state ≠ .empty) && decide (old.address = some address)
  let quality := if kept then old.quality else none
  let silence := if kept && decide (st ≠ .active) then old.silence else 0
  let conflict := if kept && decide (old.phase = phase) then old.conflict else 0
  (quality, silence, conflict)

/-- The entry as a successful write stores it (R30, R31). -/
def writtenEntry (old : Entry) (st : UnitState) (f : UnitWriteFields) : Entry :=
  match st with
  | .empty => emptyEntry
  | .redirected =>
    let l := settleLearned old .redirected f.address none
    { state := .redirected, address := some f.address, phase := none, route := [], groups := [],
      successor := some f.successor.toNat, quality := l.1, silence := l.2.1, conflict := l.2.2 }
  | .active =>
    let ph := (phaseOfCode f.phase).getD none
    let l := settleLearned old .active f.address ph
    { state := .active, address := some f.address, phase := ph, route := f.route.map BitVec.toNat, groups := f.groups,
      successor := none, quality := l.1, silence := l.2.1, conflict := l.2.2 }
  | .silent =>
    let ph := (phaseOfCode f.phase).getD none
    let l := settleLearned old .silent f.address ph
    { state := .silent, address := some f.address, phase := ph, route := f.route.map BitVec.toNat, groups := f.groups,
      successor := none, quality := l.1, silence := l.2.1, conflict := l.2.2 }

/-- The write would move an entry that work depends on (R29). -/
def wouldMove (old : Entry) (st : UnitState) (address : Address) : Bool :=
  st == .empty || st == .redirected || old.address != some address

/-- The five checks in their order (R24): the state to store, or the refusal. -/
def checkWrite (s : State) (f : UnitWriteFields) : Except WriteRefusal UnitState :=
  let i := f.index.toNat
  match fieldsChecked f with
  | none => .error .badField
  | some st =>
    let taken := if st = .empty then none else otherHolder s.units i f.address
    match taken with
    | some h => .error (.addressTaken h)
    | none =>
      let live := st == .active || st == .silent
      let ph := (phaseOfCode f.phase).getD none
      if live && !routeOk s.units ph (f.route.map BitVec.toNat) then .error .badRoute
      else if !chainsOk (putEntry s.units i (writtenEntry (unitAt s i) st f)) then .error .badChain
      else if inUse s i && wouldMove (unitAt s i) st f.address then .error .entryInUse
      else .ok st

/-- A write that passed the checks: the entry stored, and the address taken off the discovery list for a state
other than EMPTY (R30 to R32). -/
def storeEntry (st : UnitState) (f : UnitWriteFields) (s : State) : State :=
  { s with
    units := putEntry s.units f.index.toNat (writtenEntry (unitAt s f.index.toNat) st f)
    discovery := if st = .empty then s.discovery else s.discovery.erase f.address }

/-! ### Learning (6.3 to 6.5) -/

/-- An address offered to the discovery list (R126). -/
def offerDiscovery (a : Address) (s : State) : State :=
  if s.discovery.contains a then s
  else if s.discovery.length < 32 then raise .discovery { s with discovery := s.discovery ++ [a] }
  else raise .discoveryFull s

/-- What a good answer teaches a live entry (R121, R122, R123), and whether it moves the entry's phase. -/
def learnedEntry (ans : KeptAnswer) (e : Entry) : Entry × Bool :=
  let heard := { e with silence := 0, state := .active }
  if ans.hops ≠ 0 then (heard, false)
  else
    let direct := { heard with quality := some ans.quality }
    match e.phase with
    | none => ({ direct with phase := some ans.lane, conflict := 0 }, false)
    | some ph =>
      if ph = ans.lane then ({ direct with conflict := 0 }, false)
      else if e.conflict + 1 = 3 then ({ direct with phase := some ans.lane, conflict := 0 }, true)
      else ({ direct with conflict := e.conflict + 1 }, false)

/-- One kept answer applied to the table (R120). -/
def applyAnswer (ans : KeptAnswer) (s : State) : State :=
  match holderOf s.units ans.address with
  | some i =>
    let e := unitAt s i
    if isLive e then
      let r := learnedEntry ans e
      raiseIf r.2 .phaseMoved { s with units := putEntry s.units i r.1 }
    else s
  | none => if reservedAddress ans.address then s else offerDiscovery ans.address s

/-- The silence item applied (R124). An ACTIVE entry whose count, raised by 1, reaches the threshold becomes SILENT, at
threshold 1 already by its first silence, though R33's last bullet says otherwise of an entry just written ACTIVE
(DESIGN CHOICE log 41). -/
def applySilence (i : Nat) (address : Address) (s : State) : State :=
  let e := unitAt s i
  if isLive e ∧ e.address = some address then
    let n := min 255 (e.silence + 1)
    let st := if e.state = .active ∧ s.profile.silence ≤ n then UnitState.silent else e.state
    { s with units := putEntry s.units i { e with silence := n, state := st } }
  else s

/-- A learning report applied whole, answer by answer and then the silence item (R119). -/
def applyLearning (rep : LearningReport) (s : State) : State :=
  let heard := rep.answers.foldl (fun st ans => applyAnswer ans st) s
  match rep.silence with
  | none => heard
  | some (i, address) => applySilence i address heard

/-- Some PENDING target's entry differs in state or phase between two states (R125). -/
def targetsMoved (before after : State) : Bool :=
  before.records.any fun r => r.targets.any fun t =>
    t.outcome == .pending &&
      ((unitAt before t.unit).state != (unitAt after t.unit).state ||
        (unitAt before t.unit).phase != (unitAt after t.unit).phase)

end Sys2Proof.Machine
end

