-- ==== Sys2Proof/Machine/Exchange.lean ====
section
/-! DEFINITION. The exchange on the line (chapter 5): the line frame, sizes and plans, the placing of bits, the
reading of answers, and the reports that close an exchange. -/

namespace Sys2Proof.Machine

/-! ### Frame -/

/-- The record is a DISCOVER roll call (R38, R117). -/
def isDiscover (r : Record) : Bool := r.target == .cond .discover

/-- The frame kind's code (R91, R177): TARIFF 0, POLL 1, DISCOVER 2. -/
def frameKind (r : Record) (w : Work) : Nat :=
  match r.kind, w with
  | .tariff, _ => 0
  | .rollcall, .unicast _ => 1
  | .rollcall, .part _ => if isDiscover r then 2 else 1

/-- The group number of a broadcast to a group, if it is one (R91). -/
def broadcastGroup (r : Record) : Option Byte :=
  match r.target with
  | .group g => some g
  | .cond (.group g) => some g
  | _ => none

/-- The target type's code: UNIT 0, GROUP 1, ALL 2 (R91, R177). -/
def frameTargetType (r : Record) : Work → Nat
  | .unicast _ => 0
  | .part _ => if (broadcastGroup r).isSome then 1 else 2

/-- The width of the target field (R91). -/
def frameTargetBits (r : Record) : Work → Nat
  | .unicast _ => 32
  | .part _ => if (broadcastGroup r).isSome then 8 else 0

/-- The control field (R92, R177). -/
def controlField (r : Record) (w : Work) (hops : Nat) (mode : Mode) : Nat :=
  let request := match w with
    | .unicast _ => true
    | .part _ => decide (1 ≤ r.windows)
  let count := match w with
    | .unicast _ => 0
    | .part _ => r.windows
  frameKind r w * 8192 + frameTargetType r w * 2048 + hops * 512 + request.toNat * 64 + count * 2 +
    (mode == .robust).toNat

/-- The target field's bits: the address for UNIT, the group for GROUP, none for ALL (R91, R177). -/
def targetField (r : Record) (w : Work) (address : Address) : List Bool :=
  match w with
  | .unicast _ => bitsOf 32 address.toNat
  | .part _ =>
    match broadcastGroup r with
    | some g => bitsOf 8 g.toNat
    | none => []

/-- The bits a line frame's CRC covers: control through payload (R92, R93). -/
def coveredBits (r : Record) (w : Work) (address : Address) (relays : List Address) (mode : Mode) : List Bool :=
  bitsOf 16 (controlField r w relays.length mode) ++ bitsOf 16 r.tag ++ targetField r w address ++
    relays.flatMap (fun a => bitsOf 32 a.toNat) ++ bitsOf 8 r.payload.length ++ bitsOfBytes r.payload

/-- The line frame, complete with sync and CRC, first bit first (R92, R177). -/
def lineFrame (r : Record) (w : Work) (address : Address) (relays : List Address) (mode : Mode) : List Bool :=
  let covered := coveredBits r w address relays mode
  bitsOf 16 0xE29B ++ covered ++ bitsOf 16 (crcOfBits covered).toNat

/-- The frame's length F in bits (R92). -/
def frameLength (r : Record) (w : Work) (hops : Nat) : Nat :=
  72 + frameTargetBits r w + 32 * hops + 8 * r.payload.length

/-! ### Sizes and plans -/

/-- The bits a half-cycle carries, Deff, with D data windows (R95). -/
def bitsPerHalf (d : Nat) : Mode → Nat
  | .normal => d
  | .robust => d / 2

/-- Half-cycles that `bits` bits occupy (R97): the quotient rounded up. -/
def halfCyclesFor (bits deff : Nat) : Nat := (bits + deff - 1) / deff

/-- The unicast plan's length (R98). -/
def unicastLength (hops n a : Nat) : Nat := (hops + 1) * (n + a + 2)

/-- The broadcast plan's length (R99). -/
def broadcastLength (n a windows : Nat) : Nat := if windows = 0 then n + 1 else n + 1 + windows * a + 1

/-- The plan of an item's exchange in a mode, over the route read from the table now (R97 to R99). A DISCOVER frame's n is
R97's too, where R117 says 2 without naming a mode (DESIGN CHOICE log 43). -/
def planFor (s : State) (r : Record) (w : Work) (mode : Mode) (lanes : List Phase) : Plan :=
  let deff := bitsPerHalf (dataWindows s.profile.w) mode
  let a := halfCyclesFor 88 deff
  match w with
  | .unicast i =>
    let hops := (unitAt s i).route.length
    let n := halfCyclesFor (frameLength r w hops) deff
    { kind := .unicast hops, n, a, t := unicastLength hops n a, lanes }
  | .part _ =>
    let n := halfCyclesFor (frameLength r w 0) deff
    { kind := .broadcast r.windows, n, a, t := broadcastLength n a r.windows, lanes }

/-- What a half-cycle of a plan is given to (R98, R99): the part's frame, a gap, another's transmission, or the
`half`-th half-cycle, from 0, of an answer window that the lane reads. -/
inductive Role where
  | send
  | gap
  | other
  | answer (half : Nat)
deriving DecidableEq, Repr

/-- The role of half-cycle `pos` of a plan, counted from 1 (R98, R99). -/
def roleAt (p : Plan) (pos : Nat) : Role :=
  let q := pos - 1
  match p.kind with
  | .unicast h =>
    if q < (h + 1) * (p.n + 1) then
      (if q % (p.n + 1) = p.n then .gap else if q / (p.n + 1) = 0 then .send else .other)
    else
      let q' := q - (h + 1) * (p.n + 1)
      if q' % (p.a + 1) = p.a then .gap
      else if q' / (p.a + 1) = h then .answer (q' % (p.a + 1)) else .other
  | .broadcast windows =>
    if q < p.n then .send
    else if q = p.n then .gap
    else
      let q' := q - (p.n + 1)
      if q' < windows * p.a then .answer (q' % p.a) else .gap

/-- The lane state of a half-cycle of a plan (R98, R99). -/
def stateForRole : Role → LaneState
  | .send => .sending
  | .gap => .listening
  | .other => .listening
  | .answer _ => .listening

/-- The index of the frame bit that data window `window` of half-cycle `half` of the frame, from 0, carries, if it
carries one (R95). -/
def bitIndexAt (mode : Mode) (d half window : Nat) : Option Nat :=
  if window = 0 ∨ d < window then none
  else
    match mode with
    | .normal => some (half * d + (window - 1))
    | .robust =>
      let m := (window - 1) / 2
      if m < d / 2 then some (half * (d / 2) + m) else none

/-- The bit the lane drives in a window, if the plan and the frame give it one (R95). -/
def drivenBit (l : Lane) (w index : Nat) : Option Bool :=
  if l.state = .sending then
    match l.exchange with
    | none => none
    | some x =>
      match roleAt x.plan x.position, bitIndexAt x.mode (dataWindows w) (x.position - 1) index with
      | .send, some j => x.frame[j]?
      | _, _ => none
  else none

/-! ### Reading answers -/

/-- A level taken from a sample that is not there; the grid hands over every window's sample (DEDUCED log 28). -/
def noSample : Sample := { rxd := false, cd := false, lq := false }

/-- One bit read from the midpoint samples, and whether the decision is weak (R96). -/
def decideBit (mode : Mode) (d : Nat) (halves : List (List Sample)) (j : Nat) : Bool × Bool :=
  match mode with
  | .normal =>
    let sm := (halves.getD (j / d) []).getD (1 + j % d) noSample
    (sm.rxd, sm.lq)
  | .robust =>
    let deff := d / 2
    let half := halves.getD (j / deff) []
    let m := j % deff
    let x := half.getD (1 + 2 * m) noSample
    let y := half.getD (2 + 2 * m) noSample
    if x.rxd = y.rxd then (x.rxd, x.lq && y.lq)
    else if x.lq && !y.lq then (y.rxd, true)
    else (x.rxd, true)

/-- The quality of a good answer with that many weak bits (R105). -/
def qualityOf (weak : Nat) : Nat := 15 - min 15 (16 * weak / 88)

/-- How an answer window is judged (R104). -/
inductive Judgement where
  | good (d : Decode)
  | collided
  | empty
deriving DecidableEq, Repr

/-- Whether more than floor(D/8) data windows of the window's half-cycles had carrier (R104). -/
def carrierHeavy (w : Nat) (halves : List (List Sample)) : Bool :=
  decide (dataWindows w / 8 < (halves.map fun h => busyCount h w).sum)

/-- A completed answer window judged (R94, R103, R104, R105). -/
def judgeAnswer (mode : Mode) (w lineTag : Nat) (halves : List (List Sample)) : Judgement :=
  let read := (List.range 88).map (decideBit mode (dataWindows w) halves)
  let bits := read.map Prod.fst
  let covered := (bits.drop 16).take 56
  let ok := natOfBits (bits.take 16) == 0x9B3C && natOfBits (bits.drop 72) == (crcOfBits covered).toNat
  if ok then
    (if natOfBits (covered.take 16) = lineTag then
      .good { address := BitVec.ofNat 32 (natOfBits ((covered.drop 16).take 32))
              status := BitVec.ofNat 8 (natOfBits (covered.drop 48))
              quality := qualityOf ((read.filter Prod.snd).length) }
    else .empty)
  else if carrierHeavy w halves then .collided
  else .empty

/-- A judgement added to the exchange (R104, R106): at most one decode per address, the earliest. -/
def addJudgement (j : Judgement) (x : Exchange) : Exchange :=
  match j with
  | .good d =>
    if x.decodes.any (fun e => e.address == d.address) then x else { x with decodes := x.decodes ++ [d] }
  | .collided => { x with collided := x.collided + 1 }
  | .empty => x

/-- The end of a half-cycle heard by the exchange: in an answer window its samples are kept, and at the window's
last half-cycle the window is read (R103). -/
def hearHalf (ended : EndedHalf) (x : Exchange) : Exchange :=
  match roleAt x.plan x.position with
  | .answer half =>
    let heard := x.heard ++ [ended.samples]
    if half + 1 = x.plan.a then
      { addJudgement (judgeAnswer x.mode ended.w x.lineTag heard) x with heard := [] }
    else { x with heard }
  | _ => x

/-! ### How an exchange ends -/

/-- A decode is the one kept for its address among the parts (R107): no better quality elsewhere, and on equal
quality the earliest lane. `parts` stand in lane order. -/
def isKept (parts : List EndedPart) (lane : Phase) (d : Decode) : Bool :=
  let rank : Phase → Nat := fun ph => match ph with
    | .A => 0
    | .B => 1
    | .C => 2
  parts.all fun p => p.exchange.decodes.all fun e =>
    e.address != d.address || decide (e.quality < d.quality) ||
      (e.quality == d.quality && decide (rank lane ≤ rank p.lane))

/-- The parts in lane order, A first (R119). -/
def partsInOrder (parts : List EndedPart) : List EndedPart :=
  allPhases.flatMap fun ph => parts.filter fun p => p.lane == ph

/-- The hop count of an exchange (R114). -/
def hopsOf (x : Exchange) : Nat :=
  match x.plan.kind with
  | .unicast h => h
  | .broadcast _ => 0

/-- The kept answers of an exchange, lane by lane in the order read (R107, R119). -/
def keptAnswers (parts : List EndedPart) : List (Phase × Decode) :=
  (partsInOrder parts).flatMap fun p =>
    (p.exchange.decodes.filter (isKept parts p.lane)).map fun d => (p.lane, d)

/-- The report's abort cause (R112); `parts` end with the part that ended last. -/
def reportCause (last : EndedPart) (parts : List EndedPart) : Option AbortCause :=
  if last.exchange.joined then
    match last.exchange.wholeAbort with
    | some c => some c
    | none => if parts.any (fun p => p.cause == none) then none else last.cause
  else last.cause

/-- The end report of an exchange (R113). -/
def endReportOf (last : EndedPart) (parts : List EndedPart) (time : Nat) : EndReport :=
  let x := last.exchange
  let kept := keptAnswers parts
  let answered := x.targets.filterMap fun t =>
    (kept.find? fun k => k.2.address == t.2).map fun k => (t.1, k.2.status)
  { serial := x.serial
    work := x.work
    lane := if x.joined then none else some last.lane
    units := x.targets.map Prod.fst
    answered
    notAnswered :=
      match x.work with
      | .unicast i => if answered.any (fun a => a.1 == i) then none else some i
      | .part _ => none
    collided := (parts.map fun p => p.exchange.collided).sum
    endTime := time
    cause := reportCause last parts
    abortedWhole := x.joined && x.wholeAbort.isSome }

/-- The learning report of an exchange (R114). -/
def learningReportOf (last : EndedPart) (parts : List EndedPart) (rep : EndReport) : LearningReport :=
  { answers := (keptAnswers parts).map fun k =>
      { address := k.2.address, lane := k.1, hops := hopsOf last.exchange, quality := k.2.quality }
    silence :=
      match rep.cause, rep.notAnswered with
      | none, some i => (last.exchange.targets.find? fun t => t.1 == i)
      | _, _ => none }

/-- The other lanes that still run a part of the same exchange (R111). -/
def otherPartRuns (s : State) (lane : Phase) (x : Exchange) : Bool :=
  allPhases.any fun ph => ph != lane &&
    match (laneOf s ph).exchange with
    | none => false
    | some y => y.exch == x.exch

/-- The exchange leaves its lane at `time` with a cause, absent for an ordinary end (R74, R108 to R111): TXEN and
DRV drop, and the part is kept for the report, or, when no other part runs, both reports are formed. TXD keeps its
level, also where a phase loss abandons the part within a window (DESIGN CHOICE log 46). -/
def endPart (lane : Phase) (cause : Option AbortCause) (time : Nat) (s : State) : State :=
  match (laneOf s lane).exchange with
  | none => s
  | some x =>
    let part : EndedPart := { lane, exchange := x, cause }
    let freed := setLane s lane { laneOf s lane with exchange := none, txen := false, drv := false }
    if otherPartRuns s lane x then { freed with endedParts := freed.endedParts ++ [part] }
    else
      let parts := freed.endedParts.filter (fun p => p.exchange.exch == x.exch) ++ [part]
      let rep := endReportOf part parts time
      { freed with
        endedParts := freed.endedParts.filter fun p => p.exchange.exch != x.exch
        endReports := freed.endReports ++ [rep]
        learningReports := freed.learningReports ++ [learningReportOf part parts rep] }

end Sys2Proof.Machine
end

