-- ==== Sys2Proof/Machine/Queue.lean ====
section
/-! DEFINITION. The dispatch queue (chapter 3): entering DONE, stages and rounds, the work offered, grants and
evaluations. Functions of one record read the other blocks from the state they are given; the record they change
goes back through `commitRecords`, which raises RECORD_DONE. -/

namespace Sys2Proof.Machine

/-! ### Records -/

/-- The record with a serial number, if it is in the queue. -/
def recordOf (s : State) (serial : Nat) : Option Record := s.records.find? fun r => r.serial == serial

/-- The record that carries a command identifier, if any. -/
def recordById (s : State) (id : BitVec 32) : Option Record := s.records.find? fun r => r.id == id

/-- The record is DONE (R41). -/
def isDone (r : Record) : Bool :=
  match r.state with
  | .done _ => true
  | .waiting | .ready | .active | .closing _ => false

/-- The records changed in place: RECORD_DONE is raised if one of them has entered DONE (R50). -/
def commitRecords (rs : List Record) (s : State) : State :=
  raiseIf (decide ((s.records.filter isDone).length < (rs.filter isDone).length)) .recordDone
    { s with records := rs }

/-- One record replaced, found by its serial number. -/
def putRecord (r : Record) (s : State) : State :=
  commitRecords (s.records.map fun q => if q.serial = r.serial then r else q) s

/-- Some target is PENDING. -/
def hasPending (r : Record) : Bool := r.targets.any fun t => t.outcome == .pending

/-- The cause a PENDING target takes at expiry (R50): NO_LANE if its lane was never seen, DEADLINE otherwise. -/
def expiryCause (s : State) (r : Record) (t : Target) : Cause :=
  match (unitAt s t.unit).phase with
  | some ph => if atPhase r.lanesSeen ph then .deadline else .noLane
  | none => if allPhases.any (atPhase r.lanesSeen) then .deadline else .noLane

/-- What a target becomes when its record enters DONE (R50). At COMPLETE no target is PENDING (R61). -/
def closeTarget (s : State) (r : Record) (o : FinalOutcome) (t : Target) : Target :=
  if t.outcome = .pending then
    match o with
    | .complete => t
    | .cancelled => { t with outcome := .unreached .cancelled }
    | .expired => { t with outcome := .unreached (expiryCause s r t) }
  else t

/-- A record enters DONE (R50): every PENDING target becomes UNREACHED. -/
def enterDone (s : State) (o : FinalOutcome) (r : Record) : Record :=
  { r with state := .done o, targets := r.targets.map (closeTarget s r o) }

/-- The completion test (R61): a READY record with nothing in flight and no work left enters DONE COMPLETE. -/
def completeIfFinished (s : State) (r : Record) : Record :=
  if r.state = .ready ∧ r.flights = 0 ∧
      ((r.stage = .followUp ∧ hasPending r = false) ∨
        (isDiscover r = true ∧ ∃ b ∈ r.rounds, b ≤ r.roundsSent)) then
    enterDone s .complete r
  else r

/-! ### Stages and rounds -/

/-- A target is direct: its unit's route is empty, as the table stands (R42). -/
def isDirect (s : State) (t : Target) : Bool := (unitAt s t.unit).route.isEmpty

/-- A PENDING direct target (R51, R52). -/
def pendingDirect (s : State) (t : Target) : Bool := t.outcome == .pending && isDirect s t

/-- The parts of a round laid out (R52). -/
def layoutParts (s : State) (r : Record) : List Part :=
  let direct := r.targets.filter (pendingDirect s)
  if isDiscover r || direct.any (fun t => (unitAt s t.unit).phase == none) then
    [{ lane := none, standing := .offered }]
  else
    (allPhases.filter fun ph => direct.any fun t => (unitAt s t.unit).phase == some ph).map fun ph =>
      { lane := some ph, standing := .offered }

/-- An OFFERED part that no lane can carry is skipped (R53). -/
def skipPart (s : State) (p : Part) : Part :=
  match p.standing with
  | .offered =>
    match p.lane with
    | some ph => if outOfReach s ph then { p with standing := .ended } else p
    | none => if allPhases.all (outOfReach s) then { p with standing := .ended } else p
  | .inFlight | .ended => p

/-- A broadcast stage ends (R54): with R = 0 the PENDING direct targets become UNCONFIRMED; then FOLLOW-UP. -/
def endBroadcast (s : State) (r : Record) : Record :=
  completeIfFinished s
    { r with
      stage := .followUp
      parts := []
      targets := if r.windows = 0 then
          r.targets.map fun t => if pendingDirect s t then { t with outcome := .unconfirmed } else t
        else r.targets }

/-- The record's rounds settled (R53, R54): OFFERED parts out of reach are skipped, and while the round's last part
is ENDED the next round, or what follows the broadcast stage, begins. `fuel` bounds the rounds begun here. -/
def settleRounds (s : State) : Nat → Record → Record
  | 0, r => r
  | fuel + 1, r =>
    if r.state = .ready ∨ r.state = .active then
      let parts := r.parts.map (skipPart s)
      let r1 := { r with parts }
      if parts ≠ [] ∧ parts.all (fun p => p.standing == .ended) = true then
        let r2 := { r1 with roundsSent := r.roundsSent + 1 }
        let more := decide (r2.roundsSent < r.rounds.getD 0)
        if isDiscover r then
          if more then
            settleRounds s fuel
              { r2 with stage := .broadcast (r2.roundsSent + 1), parts := layoutParts s r2 }
          else completeIfFinished s { r2 with parts := [] }
        else if more && r2.targets.any (pendingDirect s) then
          settleRounds s fuel
            { r2 with stage := .broadcast (r2.roundsSent + 1), parts := layoutParts s r2 }
        else endBroadcast s r2
      else r1
    else r

/-- A record has at most four rounds, so five passes settle it. -/
def roundFuel : Nat := 5

/-- A record that becomes READY begins its stage (R51): round 1 is laid out, or, with no PENDING direct target, the
broadcast stage ends without a round. -/
def beginStage (s : State) (r : Record) : Record :=
  match r.stage with
  | .followUp => completeIfFinished s r
  | .broadcast _ =>
    if isDiscover r || r.targets.any (pendingDirect s) then
      settleRounds s roundFuel { r with parts := layoutParts s r }
    else completeIfFinished s { r with stage := .followUp, parts := [] }

/-- Every record's rounds settled: a lane has entered STOPPED or its phase LOST (R53, R68). -/
def settleAllRounds (s : State) : State :=
  commitRecords (s.records.map (settleRounds s roundFuel)) s

/-- A lane has left STOPPED, or its phase LOST, and is now in reach: the lanes seen of every record not DONE gain
it (R50, R68). -/
def laneSeen (ph : Phase) (s : State) : State :=
  if outOfReach s ph then s
  else
    { s with records := s.records.map fun r =>
        if isDone r then r else { r with lanesSeen := putPhase r.lanesSeen ph true } }

/-! ### Work offered -/

/-- The record competes for the lanes (R47). -/
def competes (r : Record) : Bool :=
  (r.state == .ready || r.state == .active) && r.enable && decide (1 ≤ r.priority)

/-- The not-before time is absent or has passed (R55, DEDUCED log 13). -/
def backoffOver (s : State) (t : Target) : Bool :=
  match t.notBefore with
  | none => true
  | some nb => nb.passed || decide (nb.time < s.now)

/-- The target is eligible for a unicast work item (R55). -/
def eligible (s : State) (r : Record) (t : Target) : Bool :=
  t.outcome == .pending && !t.inFlight && !s.inFlight.contains t.unit && decide (t.attempts < r.budget) &&
    backoffOver s t && !((unitAt s t.unit).state == .silent && decide (1 ≤ t.attempts))

/-- The eligible target of lowest unit index on a phase, or of UNKNOWN phase (R56). -/
def firstEligible (s : State) (r : Record) (ph : Option Phase) : Option Nat :=
  (r.targets.find? fun t => eligible s r t && (unitAt s t.unit).phase == ph).map Target.unit

/-- The item a competing record offers as one lane's per-lane item, or as joined work for `none` (R56). -/
def offerFor (s : State) (r : Record) (ph : Option Phase) : List WorkItem :=
  let item (w : Work) : WorkItem := { serial := r.serial, work := w, joined := ph.isNone, priority := r.priority }
  match r.stage with
  | .broadcast k =>
    if r.parts.any (fun p => p.lane == ph && p.standing == .offered) then [item (.part k)] else []
  | .followUp =>
    match firstEligible s r ph with
    | some i => [item (.unicast i)]
    | none => []

/-- The queue's answer to a lane's request for candidates, oldest record first and the per-lane item before the
joined item; joined items only while the lane is usable (R56, R69). -/
def offersTo (s : State) (ph : Phase) : List WorkItem :=
  (s.records.filter competes).flatMap fun r =>
    offerFor s r (some ph) ++ (if usable s ph then offerFor s r none else [])

/-- An item put in its place in a list in arbitration order: after every item of its own or a higher priority (R69). -/
def insertItem (i : WorkItem) : List WorkItem → List WorkItem
  | [] => [i]
  | j :: rest => if j.priority < i.priority then i :: j :: rest else j :: insertItem i rest

/-- A lane's candidates in arbitration order: higher priority first, then queue order, then per-lane before joined
(R69). -/
def candidates (s : State) (ph : Phase) : List WorkItem :=
  (offersTo s ph).foldl (fun sorted i => insertItem i sorted) []

/-- Two offers of one piece of work, whatever its priority now. -/
def sameItem (i j : WorkItem) : Bool := i.serial == j.serial && i.work == j.work && i.joined == j.joined

/-! ### Evaluation -/

/-- At an evaluation the target ends as BUDGET_SPENT: PENDING, marker clear, an attempt consumed, and its unit now
SILENT (R55). -/
def silentSpent (s : State) (t : Target) : Bool :=
  t.outcome == .pending && !t.inFlight && decide (1 ≤ t.attempts) && (unitAt s t.unit).state == .silent

/-- An evaluation of the record would end some target (R55). -/
def evaluationEnds (s : State) (r : Record) : Bool :=
  (r.state == .ready || r.state == .active) && r.stage == .followUp && r.targets.any (silentSpent s)

/-- An evaluation of one record's work (R55, R61). -/
def evaluateRecord (s : State) (r : Record) : Record :=
  if evaluationEnds s r then
    completeIfFinished s
      { r with targets := r.targets.map fun t =>
          if silentSpent s t then { t with outcome := .unreached .budgetSpent } else t }
  else r

/-- Every record's work evaluated, as a lane asks for its candidates (R55, DEDUCED log 32). -/
def evaluateAll (s : State) : State := commitRecords (s.records.map (evaluateRecord s)) s

/-! ### Grants -/

/-- The units that a granted item's exchange has as targets, fixed at the grant (R57). -/
def grantTargets (s : State) (r : Record) (ph : Phase) (i : WorkItem) : List Nat :=
  match i.work with
  | .unicast u => [u]
  | .part _ =>
    (r.targets.filter fun t =>
      pendingDirect s t && !s.inFlight.contains t.unit &&
        (i.joined || (unitAt s t.unit).phase == some ph)).map Target.unit

/-- A grant applied by the queue (R57). `units` are the exchange's targets. -/
def applyGrant (ph : Phase) (i : WorkItem) (units : List Nat) (s : State) : State :=
  match recordOf s i.serial with
  | none => s
  | some r =>
    let partLane := if i.joined then none else some ph
    { putRecord
        { r with
          state := if r.state = .ready then .active else r.state
          flights := r.flights + 1
          targets := r.targets.map fun t => if units.contains t.unit then { t with inFlight := true } else t
          parts := match i.work with
            | .unicast _ => r.parts
            | .part _ => r.parts.map fun p =>
                if p.lane = partLane ∧ p.standing = .offered then { p with standing := .inFlight } else p } s with
      inFlight := s.inFlight ++ units.filter fun u => !s.inFlight.contains u }

/-- A broken route reported at a grant (R57): the target becomes UNREACHED with cause ROUTE_BROKEN, and the record
is tested for completion. -/
def reportBroken (serial unit : Nat) (s : State) : State :=
  match recordOf s serial with
  | none => s
  | some r =>
    putRecord
      (completeIfFinished s
        { r with targets := r.targets.map fun t =>
            if t.unit = unit ∧ t.outcome = .pending then { t with outcome := .unreached .routeBroken } else t }) s

/-! ### End reports -/

/-- An answered target (R58). -/
def applyAnswered (answered : List (Nat × Byte)) (t : Target) : Target :=
  match answered.find? fun a => a.1 == t.unit with
  | none => t
  | some a =>
    if t.outcome = .pending then
      { t with outcome := if a.2 = 0 then .confirmed else .refused a.2 }
    else t

/-- The no-answer rule (R59) for the target that did not answer an ordinarily ended unicast. -/
def applyNoAnswer (retry budget endTime : Nat) (t : Target) : Target :=
  if t.outcome = .pending then
    let k := t.attempts + 1
    if k = budget then { t with attempts := k, outcome := .unreached .budgetSpent }
    else
      { t with
        attempts := k
        notBefore := some { time := endTime + min 255 (retry * k) * 10240, passed := false } }
  else t

/-- The standing a part takes from its exchange's report (R53). -/
def standingAfter (r : Record) (rep : EndReport) : Standing :=
  match r.state with
  | .closing _ => .ended
  | _ =>
    match rep.cause with
    | some .preempted => .offered
    | some .stopped => if rep.abortedWhole then .offered else .ended
    | _ => .ended

/-- Steps 1 to 4 of R60 on the record itself: answers and collided windows, the no-answer rule, the markers, the
part's standing. -/
def reportedRecord (s : State) (rep : EndReport) (r : Record) : Record :=
  { r with
    collided := min 65535 (r.collided + rep.collided)
    targets := r.targets.map fun t =>
      let t1 := applyAnswered rep.answered t
      let t2 := if rep.cause = none ∧ rep.notAnswered = some t.unit then
          applyNoAnswer s.profile.retry r.budget rep.endTime t1 else t1
      if rep.units.contains t.unit then { t2 with inFlight := false } else t2
    parts := match rep.work with
      | .unicast _ => r.parts
      | .part _ => r.parts.map fun p =>
          if p.lane = rep.lane ∧ p.standing = .inFlight then { p with standing := standingAfter r rep } else p }

/-- Step 5 of R60 and what follows it: an exchange less in flight, and the record's state settled when none is left. -/
def settleFlight (s : State) (r : Record) : Record :=
  let r1 := { r with flights := r.flights - 1 }
  if r1.flights = 0 then
    match r1.state with
    | .active => completeIfFinished s { r1 with state := .ready }
    | .closing .cancel => enterDone s .cancelled r1
    | .closing .expiry => enterDone s .expired r1
    | .waiting | .ready | .done _ => r1
  else r1

/-- The units of a report leave the in-flight unit set (R42, R60). -/
def releaseUnits (units : List Nat) (s : State) : State :=
  { s with inFlight := s.inFlight.filter fun u => !units.contains u }

/-- An end report applied by the queue (R60), or dropped but for the in-flight unit set when its record has left
(3.6, R65). -/
def applyEndReport (rep : EndReport) (s : State) : State :=
  let s1 := releaseUnits rep.units s
  match recordOf s1 rep.serial with
  | none => s1
  | some r => putRecord (settleFlight s1 (settleRounds s1 roundFuel (reportedRecord s1 rep r))) s1

/-! ### Release and expiry -/

/-- The record's deadline has been reached (R49). -/
def deadlineReached (s : State) (r : Record) : Bool := r.deadline != 0 && decide (r.deadline ≤ s.clock.seconds)

/-- A second event or clock-set event for one record: expiry, else release (R48, R49). -/
def clockRecord (s : State) (r : Record) : Record :=
  if deadlineReached s r then
    match r.state with
    | .waiting => enterDone s .expired r
    | .ready => enterDone s .expired r
    | .active => { r with state := .closing .expiry }
    | .closing _ => r
    | .done _ => r
  else if r.state = .waiting ∧ r.release ≤ s.clock.seconds then beginStage s { r with state := .ready }
  else r

/-- The lanes that hold an exchange for a record. -/
def lanesHolding (s : State) (serial : Nat) : List Phase :=
  allPhases.filter fun ph =>
    match (laneOf s ph).exchange with
    | none => false
    | some x => x.serial == serial

/-- The queue asks every lane that holds an exchange for the record to abort it (R49, R87). -/
def askAbort (cause : AbortCause) (serial : Nat) (s : State) : State :=
  { s with abortRequests := s.abortRequests ++
      (lanesHolding s serial).map fun ph => { lane := ph, serial, cause } }

end Sys2Proof.Machine
end

