-- ==== Sys2Proof/Machine/Timing.lean ====
section
/-! DEFINITION. The phase timing unit (chapter 1): lock acquisition, the running grid, missed crossings, windows.
Pure functions of one timing unit; what a change of timing means for the other blocks is in Machine/Lanes.lean. -/

namespace Sys2Proof.Machine

/-- The tolerance J for an estimate (1.1): floor(P/64). -/
def toleranceOf (p : Nat) : Nat := p / 64

/-- An interval lies in the absolute window (R3). -/
def inWindow (m : Nat) : Bool := decide (15360 ≤ m) && decide (m ≤ 24576)

/-- The filter of R4 and R8: an estimate moved one eighth of the way toward an interval, rounded toward zero. -/
def filterStep (p m : Nat) : Nat := ((p : Int) + Int.tdiv ((m : Int) - p) 8).toNat

/-- The estimate and lock count after an in-window interval taken in LOCKING (R4). -/
def lockUpdate (p lockCount m : Nat) : Nat × Nat :=
  if lockCount = 0 then (m, 1)
  else if ((m : Int) - p).natAbs ≤ toleranceOf p then (filterStep p m, lockCount + 1)
  else (m, 0)

/-- A half-cycle at its start: the accumulator at 0, no window begun, no sample taken (R13, R14). -/
def newHalf (positive : Bool) (start length w : Nat) : HalfCycle :=
  { positive, start, length, w, acc := 0, window := none, samples := [] }

/-- The length of the cycle that starts now (R6). -/
def nextCycleLength (u : Ptu) : Nat :=
  match u.correction with
  | none => u.p
  | some k => ((u.p : Int) + k.c).toNat

/-- A cycle start at time `b` (R6): the length is taken from the estimate before the pending record is applied,
the record's estimate is put into force, the miss test is armed, and the positive half-cycle begins with the W
read at its start. -/
def startCycle (b : Nat) (previous : Option Nat) (w : Nat) (u : Ptu) : Ptu :=
  let length := nextCycleLength u
  { u with
    p := (u.correction.map Correction.p).getD u.p
    correction := none
    cycle := some { start := b, length, previous, missTested := false }
    half := some (newHalf true b (length / 2) w) }

/-- A crossing in LOCKING (R3, R4, R5). The second component says that the phase locks at it. -/
def crossLocking (t w : Nat) (u : Ptu) : Ptu × Bool :=
  match u.anchor with
  | none => ({ u with anchor := some { time := t, boundary := none } }, false)
  | some an =>
    let m := t - an.time
    if m < 15360 then (u, false)
    else if m ≤ 24576 then
      let r := lockUpdate u.p u.lockCount m
      if r.2 = 8 then
        (startCycle t none w
          { u with timing := .locked, p := r.1, lockCount := r.2, missCount := 0, correction := none,
                   anchor := some { time := t, boundary := some t } }, true)
      else ({ u with p := r.1, lockCount := r.2, anchor := some { time := t, boundary := none } }, false)
    else ({ u with lockCount := 0, anchor := some { time := t, boundary := none } }, false)

/-- The cycle boundary nearest to a time: the start of the cycle in progress, or of the next one (R7). -/
def nearestBoundary (cyc : Cycle) (t : Nat) : Nat :=
  if t - cyc.start ≤ cyc.start + cyc.length - t then cyc.start else cyc.start + cyc.length

/-- The cycle boundary immediately before a boundary of the cycle in progress (R8 step 3). -/
def boundaryBefore (cyc : Cycle) (b : Nat) : Option Nat :=
  if b = cyc.start then cyc.previous else some cyc.start

/-- A crossing at `t` is accepted for boundary `b` (R7). -/
def crossingAccepted (u : Ptu) (cyc : Cycle) (t b : Nat) : Bool :=
  decide (((t : Int) - b).natAbs ≤ toleranceOf u.p) &&
    decide (u.anchor.bind Anchor.boundary ≠ some b) &&
    !(decide (b = cyc.start) && cyc.missTested)

/-- The estimate that an accepted crossing proposes (R8 steps 2 and 3). -/
def proposedEstimate (u : Ptu) (cyc : Cycle) (t b : Nat) : Nat :=
  let base := (u.correction.map Correction.p).getD u.p
  match u.anchor, boundaryBefore cyc b with
  | some an, some before =>
    if an.boundary = some before ∧ inWindow (t - an.time) = true then filterStep base (t - an.time) else base
  | _, _ => base

/-- A crossing in LOCKED or COASTING (R7, R8): ignored as a glitch, or accepted with a pending correction. -/
def crossRunning (t : Nat) (u : Ptu) : Ptu :=
  match u.cycle with
  | none => u
  | some cyc =>
    let b := nearestBoundary cyc t
    if crossingAccepted u cyc t b then
      { u with
        timing := .locked
        correction := some { c := (t : Int) - b, p := proposedEstimate u cyc t b }
        anchor := some { time := t, boundary := some b }
        missCount := 0 }
    else u

/-- A crossing in LOST (R2): the loss ends and the crossing is the anchor. -/
def crossLost (t : Nat) (u : Ptu) : Ptu :=
  { u with
    timing := .locking, anchor := some { time := t, boundary := none }, lockCount := 0, missCount := 0,
    cycle := none, half := none, correction := none }

/-- The grid runs: LOCKED or COASTING (R12). -/
def gridRuns (u : Ptu) : Bool := u.timing == .locked || u.timing == .coasting

/-- The miss test of the cycle in progress is armed and its moment B + J has come (R10). -/
def missTestDue (now : Nat) (u : Ptu) : Bool :=
  match u.cycle with
  | none => false
  | some cyc => gridRuns u && !cyc.missTested && decide (cyc.start + toleranceOf u.p ≤ now)

/-- The moment of the miss test of the cycle in progress, B + J (R10). -/
def missTestTime (u : Ptu) : Nat :=
  match u.cycle with
  | none => 0
  | some cyc => cyc.start + toleranceOf u.p

/-- A crossing has been accepted for the boundary that starts the cycle in progress (R10). -/
def boundaryServed (u : Ptu) : Bool :=
  match u.cycle with
  | none => false
  | some cyc => u.anchor.bind Anchor.boundary == some cyc.start

/-- The miss test taken: no change to the counts if the boundary is served, else one more miss, and COASTING (R10). -/
def takeMissTest (u : Ptu) : Ptu :=
  let tested := { u with cycle := u.cycle.map fun cyc => { cyc with missTested := true } }
  if boundaryServed u then tested
  else { tested with timing := .coasting, missCount := u.missCount + 1 }

/-- The timing unit at the loss of its phase (R11): the grid stops; P, the miss count and the anchor stay. -/
def losePhase (u : Ptu) : Ptu :=
  { u with timing := .lost, cycle := none, half := none, correction := none }

/-- The half-cycle in progress has come to its end: its time is up, all its windows have been sampled, and the
miss test of its cycle has been taken (R10, R12, R15, DEDUCED log 28). -/
def boundaryDue (now : Nat) (u : Ptu) : Bool :=
  match u.half, u.cycle with
  | some h, some cyc =>
    gridRuns u && decide (h.start + h.length ≤ now) && decide (h.samples.length = h.w) && cyc.missTested
  | _, _ => false

/-- The time of the boundary that ends the half-cycle in progress (R6). -/
def boundaryTime (u : Ptu) : Nat :=
  match u.half with
  | none => 0
  | some h => h.start + h.length

/-- The next half-cycle begins at the end of the one in progress (R6, R13): the negative half of the same cycle,
or a cycle start. -/
def nextHalf (w : Nat) (u : Ptu) : Ptu :=
  match u.half, u.cycle with
  | some h, some cyc =>
    if h.positive then
      { u with half := some (newHalf false (cyc.start + h.length) (cyc.length - h.length) w) }
    else startCycle (cyc.start + cyc.length) (some cyc.start) w u
  | _, _ => u

/-- The index of the next window to begin in a half-cycle. -/
def nextWindowIndex (h : HalfCycle) : Nat :=
  match h.window with
  | none => 0
  | some v => v.index + 1

/-- The time at which the next window of a half-cycle begins: the half-cycle's own start, or the end of the window
in progress (R14). -/
def nextWindowStart (h : HalfCycle) : Nat :=
  match h.window with
  | none => h.start
  | some v => v.start + v.length

/-- A window boundary is due: there is a next window, its moment has come, and the window before has been sampled. -/
def windowDue (now : Nat) (u : Ptu) : Bool :=
  match u.half with
  | none => false
  | some h =>
    gridRuns u && decide (nextWindowIndex h < h.w) && decide (nextWindowStart h ≤ now) &&
      decide (h.samples.length = nextWindowIndex h)

/-- The next window begins (R14): the accumulator takes r, and the window is long when it passes W. -/
def beginWindow (h : HalfCycle) : HalfCycle :=
  let acc := h.acc + h.length % h.w
  let long := decide (h.w ≤ acc)
  { h with
    acc := if long then acc - h.w else acc
    window := some { index := nextWindowIndex h, start := nextWindowStart h,
                     length := if long then h.length / h.w + 1 else h.length / h.w } }

/-- The midpoint of the window in progress has come and its sample has not been taken (R15). -/
def sampleDue (now : Nat) (u : Ptu) : Bool :=
  match u.half with
  | none => false
  | some h =>
    match h.window with
    | none => false
    | some v =>
      gridRuns u && decide (v.start + v.length / 2 ≤ now) && decide (h.samples.length = v.index)

/-- A window's sample is taken (R15). -/
def takeSample (sm : Sample) (h : HalfCycle) : HalfCycle := { h with samples := h.samples ++ [sm] }

end Sys2Proof.Machine
end

