-- ==== Sys2Proof/Machine/Lanes.lean ====
section
/-! DEFINITION. The lane controllers (chapter 4): choosing, preemption and aborts, grants and reservations, the
boundary, lane control and phase loss. -/

namespace Sys2Proof.Machine

/-! ### Pricing -/

/-- The mode a joined exchange would latch if granted now: ROBUST if the monitor of any usable lane reports ROBUST
(R71, R78, R101, DEDUCED log 15). -/
def jointMode (s : State) : Mode :=
  if allPhases.any (fun ph => usable s ph && (lcmOf s ph).mode == .robust) then .robust else .normal

/-- The mode an item's exchange would latch if granted now on a lane (R71). -/
def priceMode (s : State) (ph : Phase) (i : WorkItem) : Mode := if i.joined then jointMode s else (lcmOf s ph).mode

/-- The length T of an item's exchange if granted now (R71, R97). -/
def priceOf (s : State) (ph : Phase) (r : Record) (i : WorkItem) : Nat :=
  (planFor s r i.work (priceMode s ph i) []).t

/-- An item's exchange, with `extra` half-cycles of wait, fits before its record's deadline on a lane (R71, R80). -/
def fits (s : State) (ph : Phase) (extra : Nat) (i : WorkItem) : Bool :=
  match recordOf s i.serial with
  | none => false
  | some r => decide (priceOf s ph r i + extra ≤ halfCyclesRemaining s ph r.deadline)

/-- The route of a unicast item's target is broken (R71, R100). -/
def routeBroken (s : State) (i : WorkItem) : Bool :=
  match i.work with
  | .part _ => false
  | .unicast u => !(unitAt s u).route.all (relayServes s.units (unitAt s u).phase)

/-! ### Where a lane goes when it is freed -/

/-- A lane becomes PAUSED (R84). -/
def pausedLane (l : Lane) : Lane :=
  { l with state := .paused, reserved := none, settling := 0, deferral := 0, pauseDue := false }

/-- A lane becomes STOPPED (R83). -/
def stoppedLane (l : Lane) : Lane :=
  { l with state := .stopped, reserved := none, settling := 0, deferral := 0, stopDue := false, pauseDue := false }

/-- A lane becomes STOPPED and reports it to the queue, which skips the parts it can no longer carry (R53, R68,
R83). -/
def enterStopped (ph : Phase) (s : State) : State := settleAllRounds (setLane s ph (stoppedLane (laneOf s ph)))

/-- The state an exchange's end leads to (R74, R86): STOPPED if stop due is set, else PAUSED if pause due is set,
else IDLE. -/
def landLane (ph : Phase) (s : State) : State :=
  let l := laneOf s ph
  if l.stopDue then enterStopped ph s
  else if l.pauseDue then setLane s ph (pausedLane l)
  else setLane s ph { l with state := .idle }

/-! ### Aborts -/

/-- An abort falls due on an occupied lane unless one is already due (R81, R83, R87). -/
def markAbort (ph : Phase) (cause : AbortCause) (s : State) : State :=
  let l := laneOf s ph
  setLane s ph { l with exchange := l.exchange.map fun x => { x with abortDue := some (x.abortDue.getD cause) } }

/-- An ARMED lane is released at once: its part ends with nothing sent or read (R79, R109). -/
def releaseArmed (ph : Phase) (cause : AbortCause) (s : State) : State := landLane ph (endPart ph (some cause) s.now s)

/-- An abort reaches one part of an exchange: an ARMED lane is released, any other ends with its half-cycle. -/
def abortPart (cause : AbortCause) (ph : Phase) (s : State) : State :=
  if (laneOf s ph).state = .armed then releaseArmed ph cause s else markAbort ph cause s

/-- The lane holds a part of the numbered exchange. -/
def holdsExchange (exch : Nat) (s : State) (ph : Phase) : Bool :=
  match (laneOf s ph).exchange with
  | none => false
  | some x => x.exch == exch

/-- Every running part of a joined exchange notes that the exchange is aborted whole; the first cause of a whole abort
stands (R81, R112), also over a STOP of its own that is due on each part (DEDUCED log 47). -/
def noteWholeAbort (exch : Nat) (cause : AbortCause) (s : State) : State :=
  { s with lanes := perPhase fun ph =>
      let l := laneOf s ph
      { l with exchange := l.exchange.map fun x =>
          if x.exch = exch ∧ x.joined = true then { x with wholeAbort := some (x.wholeAbort.getD cause) } else x } }

/-- The exchange on a lane is aborted: a joined one whole, on every lane that still runs a part (R81). -/
def abortExchange (cause : AbortCause) (x : Exchange) (ph : Phase) (s : State) : State :=
  if x.joined then
    (allPhases.filter (holdsExchange x.exch s)).foldl (fun st p => abortPart cause p st)
      (noteWholeAbort x.exch cause s)
  else abortPart cause ph s

/-! ### Choosing and preemption -/

/-- The lane's pending winner chosen again; a reservation whose item has vanished is cleared (R69, R77). -/
def choosePending (s : State) (ph : Phase) : State :=
  let l := laneOf s ph
  let cs := candidates s ph
  let chosen := { l with winner := cs.head? }
  match l.state, l.reserved with
  | .reserved, some v =>
    if cs.any (sameItem v.item) then setLane s ph chosen
    else setLane s ph { chosen with state := .idle, reserved := none }
  | _, _ => setLane s ph chosen

/-- The exchange is preemptible now (R80): on an ARMED lane; a direct unicast or a broadcast part always; a relayed
unicast during the first n half-cycles of its plan. -/
def preemptible (l : Lane) (x : Exchange) : Bool :=
  l.state == .armed ||
    match x.plan.kind with
    | .broadcast _ => true
    | .unicast h => decide (h = 0) || decide (x.position ≤ x.plan.n)

/-- The preemption test of an occupied lane passes (R80). -/
def preemptionPasses (s : State) (ph : Phase) (x : Exchange) : Bool :=
  (candidates s ph).any (fun i => decide (s.profile.urgent ≤ i.priority) && fits s ph 1 i) &&
    decide (x.priority < s.profile.urgent) && preemptible (laneOf s ph) x && x.abortDue.isNone

/-- The preemption test of a lane and what follows when it passes (R80, R81). -/
def preemptionTest (s : State) (ph : Phase) : State :=
  match (laneOf s ph).exchange with
  | none => s
  | some x => if preemptionPasses s ph x then abortExchange .preempted x ph s else s

/-- The lanes ask the queue for their candidates and choose again (R69): the queue evaluates its records as it is
asked (R55), and tells every lane if that ended a target. Each choosing lane takes a new pending winner, and an
occupied one takes the preemption test (R80). Lanes that a preemption made unusable choose once more. That all choose before
the first test, and both in the order A, B, C, is the model's (DESIGN CHOICE log 48). -/
def tell (asked : List Phase) (s : State) : State :=
  if asked.isEmpty then s
  else
    let choosing := if s.records.any (evaluationEnds s) then allPhases else asked
    let s1 := choosing.foldl choosePending (evaluateAll s)
    let s2 := choosing.foldl preemptionTest s1
    (allPhases.filter fun ph => usable s1 ph != usable s2 ph).foldl choosePending s2

/-- The lanes whose usability differs between two states (R68, R69). -/
def usabilityChanged (before after : State) : List Phase :=
  allPhases.filter fun ph => usable before ph != usable after ph

/-! ### Grants and reservations -/

/-- The relays of a unicast item's target by address, nearest first (R92, R100). -/
def relayAddresses (s : State) : Work → List Address
  | .part _ => []
  | .unicast u => (unitAt s u).route.map fun i => ((unitAt s i).address).getD 0

/-- The address of a unicast item's target (R91, R100). -/
def targetAddress (s : State) : Work → Address
  | .part _ => 0
  | .unicast u => ((unitAt s u).address).getD 0

/-- The drive of an exchange is boost (R102). -/
def boostFor (s : State) (r : Record) (w : Work) (mode : Mode) (forced : Bool) : Bool :=
  forced ||
    match w with
    | .part _ => mode == .robust
    | .unicast u =>
      (match (unitAt s u).quality with
        | none => true
        | some q => decide (q < s.profile.boost)) ||
        r.targets.any fun t => t.unit == u && decide (t.attempts + 1 = r.budget)

/-- The exchange that a grant records on a lane (R90), at `position` 1 where it starts now and 0 where ARMED. -/
def exchangeFor (s : State) (r : Record) (i : WorkItem) (units : List Nat) (lanes : List Phase) (mode : Mode)
    (forced : Bool) (position : Nat) : Exchange :=
  { exch := s.nextExchange, serial := r.serial, lineTag := r.tag, work := i.work, joined := i.joined,
    frame := lineFrame r i.work (targetAddress s i.work) (relayAddresses s i.work) mode
    targets := units.map fun u => (u, ((unitAt s u).address).getD 0)
    plan := planFor s r i.work mode lanes
    position, mode
    boost := boostFor s r i.work mode forced
    priority := r.priority, forced
    abortDue := none, wholeAbort := none, heard := [], decodes := [], collided := 0 }

/-- The lane takes a granted exchange (R73, R78). -/
def occupy (ph : Phase) (st : LaneState) (x : Exchange) (s : State) : State :=
  setLane s ph { laneOf s ph with state := st, reserved := none, exchange := some x }

/-- The lanes other than one. -/
def otherLanes (ph : Phase) : List Phase := allPhases.filter fun p => p != ph

/-- A per-lane grant, made whole (R73); no grant if the item has vanished (R73, R100). -/
def grantOnLane (ph : Phase) (i : WorkItem) (forced : Bool) (s : State) : State :=
  if (offersTo s ph).any (sameItem i) then
    match recordOf s i.serial with
    | none => s
    | some r =>
      let units := grantTargets s r ph i
      let x := exchangeFor s r i units [] (lcmOf s ph).mode forced 1
      tell (otherLanes ph)
        (applyGrant ph i units (occupy ph .sending x { s with nextExchange := s.nextExchange + 1 }))
  else s

/-- The lane is RESERVED for the item (R78). -/
def reservedFor (s : State) (i : WorkItem) (ph : Phase) : Bool :=
  (laneOf s ph).state == .reserved &&
    match (laneOf s ph).reserved with
    | none => false
    | some v => sameItem v.item i

/-- The lane's reservation carries the forced flag (R72). -/
def reservationForced (s : State) (ph : Phase) : Bool :=
  match (laneOf s ph).reserved with
  | none => false
  | some v => v.forced

/-- The reservation of a lane cleared to IDLE (R77). -/
def releaseReserved (s : State) (ph : Phase) : State :=
  let l := laneOf s ph
  if l.state = .reserved then setLane s ph { l with state := .idle, reserved := none } else s

/-- The joined grant tested at the boundary of a lane that holds or takes its reservation for an item (R78); no grant
if the item has vanished (R77, R100). The deferral counts of the set's lanes stay as they are (DEDUCED log 42). -/
def joinedGrant (ph : Phase) (i : WorkItem) (s : State) : State :=
  let set := allPhases.filter (usable s)
  if set.all (reservedFor s i) && set.contains ph && (offersTo s ph).any (sameItem i) then
    match recordOf s i.serial with
    | none => s
    | some r =>
      let mode := jointMode s
      let t := (planFor s r i.work mode set).t
      let failing := set.filter fun p =>
        decide (halfCyclesRemaining s p r.deadline < if p = ph then t else t + 1)
      if failing ≠ [] then failing.foldl releaseReserved s
      else
        let units := grantTargets s r ph i
        let s1 := set.foldl
          (fun st p =>
            if p = ph then occupy p .sending (exchangeFor s r i units set mode (reservationForced s p) 1) st
            else occupy p .armed (exchangeFor s r i units set mode (reservationForced s p) 0) st)
          { s with nextExchange := s.nextExchange + 1 }
        tell (otherLanes ph) (applyGrant ph i units s1)
  else s

/-- A reservation taken or moved, and the joined grant tested at once (R75); none if the item has vanished. -/
def reserveLane (ph : Phase) (i : WorkItem) (forced : Bool) (s : State) : State :=
  if (offersTo s ph).any (sameItem i) then
    joinedGrant ph i
      (setLane s ph { laneOf s ph with state := .reserved, reserved := some { item := i, forced } })
  else s

/-- The lane acts on a choice that has passed the carrier test (R72). -/
def actOn (ph : Phase) (i : WorkItem) (forced : Bool) (s : State) : State :=
  let s1 := setLane s ph { laneOf s ph with deferral := 0 }
  if i.joined then reserveLane ph i forced s1 else grantOnLane ph i forced s1

/-- The carrier test of a choice that needs the line (R72), at the first opportunity after a lock too, where R168 has the
half-cycle judged clear (DEDUCED log 50). -/
def carrierTest (ph : Phase) (v : Verdict) (i : WorkItem) (s : State) : State :=
  match v with
  | .clear => actOn ph i false s
  | .notClear =>
    let l := laneOf s ph
    if l.deferral + 1 < s.profile.deferral then setLane s ph { l with deferral := l.deferral + 1 }
    else actOn ph i true (raise .lineBusy s)
  | .none => s

/-- The walk over the candidates at a grant opportunity (R71): broken routes are reported on the way, and the walk
stops at the first item that passes. The last component says whether a route was reported broken. -/
def walkCandidates (ph : Phase) : List WorkItem → State → State × Option WorkItem × Bool
  | [], s => (s, none, false)
  | i :: rest, s =>
    match i.work with
    | .unicast u =>
      if routeBroken s i then
        let r := walkCandidates ph rest (reportBroken i.serial u s)
        (r.1, r.2.1, true)
      else if fits s ph 0 i then (s, some i, false)
      else walkCandidates ph rest s
    | .part _ => if fits s ph 0 i then (s, some i, false) else walkCandidates ph rest s

/-- The lane is free for a grant at this boundary and the boundary is a grant opportunity (R70). -/
def isOpportunity (s : State) (ph : Phase) (v : Verdict) : Bool :=
  ((laneOf s ph).state == .idle || (laneOf s ph).state == .reserved) && phaseTrusted s ph && v != .none

/-- A grant opportunity (R71, R72, R76). -/
def opportunity (ph : Phase) (v : Verdict) (s : State) : State :=
  let w := walkCandidates ph (candidates s ph) s
  let s1 := if w.2.2 then tell allPhases w.1 else w.1
  match w.2.1 with
  | none => releaseReserved s1 ph
  | some i => if reservedFor s1 i ph then joinedGrant ph i s1 else carrierTest ph v i s1

/-! ### The boundary -/

/-- The queue takes whole the end report that stands after the `earlier` first ones in transit, and tells the lanes
that an exchange has ended (R60, R69). -/
def takeQueueReport (earlier : Nat) (s : State) : State :=
  match s.endReports.drop earlier with
  | [] => s
  | rep :: rest =>
    tell allPhases (applyEndReport rep { s with endReports := s.endReports.take earlier ++ rest })

/-- The unit table takes whole the learning report that stands after the `earlier` first ones in transit, and tells
the queue of the PENDING targets it moved (R119, R125). -/
def takeTableReport (earlier : Nat) (s : State) : State :=
  match s.learningReports.drop earlier with
  | [] => s
  | rep :: rest =>
    let s0 := { s with learningReports := s.learningReports.take earlier ++ rest }
    let s1 := applyLearning rep s0
    if targetsMoved s0 s1 then tell allPhases s1 else s1

/-- The owners take the reports formed at this boundary, in the operand's order. -/
def takeReports (o : ReportOrder) (ends learns : Nat) (s : State) : State :=
  match o with
  | .neither => s
  | .queueOnly => takeQueueReport ends s
  | .tableOnly => takeTableReport learns s
  | .queueThenTable => takeTableReport learns (takeQueueReport ends s)
  | .tableThenQueue => takeQueueReport ends (takeTableReport learns s)

/-- The exchange ends on its lane at a boundary (R74, R108, R109), and the reports it forms there are taken as the
operand says. -/
def endAtBoundary (ph : Phase) (cause : Option AbortCause) (time : Nat) (o : ReportOrder) (s : State) : State :=
  takeReports o s.endReports.length s.learningReports.length (landLane ph (endPart ph cause time s))

/-- An occupied lane at its boundary: the half-cycle just ended is heard, then the exchange ends or goes on by one
half-cycle of its plan (R74, R103, R108, R109). -/
def advanceExchange (ph : Phase) (ended : EndedHalf) (o : ReportOrder) (s : State) : State :=
  match (laneOf s ph).exchange with
  | none => s
  | some x0 =>
    let x := hearHalf ended x0
    let s1 := setLane s ph { laneOf s ph with exchange := some x }
    match x.abortDue with
    | some c => endAtBoundary ph (some c) ended.time o s1
    | none =>
      if x.plan.t ≤ x.position then endAtBoundary ph none ended.time o s1
      else
        setLane s1 ph
          { laneOf s1 ph with
            state := stateForRole (roleAt x.plan (x.position + 1))
            exchange := some { x with position := x.position + 1 } }

/-- An ARMED lane starts its part at its own boundary (R79). -/
def startArmed (ph : Phase) (s : State) : State :=
  let l := laneOf s ph
  setLane s ph { l with state := .sending, exchange := l.exchange.map fun x => { x with position := 1 } }

/-- A SETTLING lane at a boundary of its phase (R85). -/
def settleLane (ph : Phase) (s : State) : State :=
  let l := laneOf s ph
  if (ptuOf s ph).timing = .locked then
    (if l.settling + 1 = 4 then setLane s ph { l with state := .idle, settling := 0 }
    else setLane s ph { l with settling := l.settling + 1 })
  else s

/-- What the lane's state calls for at a boundary that ends a half-cycle, before it chooses. -/
def laneAdvance (ph : Phase) (ended : EndedHalf) (o : ReportOrder) (s : State) : State :=
  match (laneOf s ph).state with
  | .sending | .listening => advanceExchange ph ended o s
  | .armed => startArmed ph s
  | .settling => settleLane ph s
  | .idle | .reserved | .paused | .stopped => s

/-- The lane tells its monitor the state in which it begins the new half-cycle (R67, R130). -/
def reportStart (ph : Phase) (s : State) : State :=
  let l := laneOf s ph
  let gap := match l.state, l.exchange with
    | .listening, some x => roleAt x.plan x.position == .gap
    | _, _ => false
  setLcm s ph { lcmOf s ph with start := some { state := l.state, gap } }

/-- The lane's work at a boundary that ends a half-cycle with verdict `v` (R69, R70, R74, R79, R85): it advances,
chooses, and meets its grant opportunity. A lane that lands in STOPPED there has every lane told, since parts may
have been skipped. -/
def laneBoundary (ph : Phase) (ended : EndedHalf) (v : Verdict) (o : ReportOrder) (s : State) : State :=
  let before := (laneOf s ph).state
  let s1 := laneAdvance ph ended o s
  let asked := if (laneOf s1 ph).state = .stopped ∧ before ≠ .stopped then allPhases else [ph]
  let s2 := tell asked s1
  if isOpportunity s2 ph v then opportunity ph v s2 else s2

/-- The lane's work at the first boundary after its phase locks, which ends no half-cycle (R5, R70, R85, DEDUCED log 17). -/
def laneFirstBoundary (ph : Phase) (s : State) : State :=
  let s1 := if (laneOf s ph).state = .settling then settleLane ph s else s
  reportStart ph (tell [ph] s1)

/-! ### Phase loss -/

/-- The lane when its phase enters LOST (R86, R110): its part is abandoned at `time`, its reservation and deferrals
are cleared, and the loss is reported to the queue (R53, R68). -/
def laneLoss (ph : Phase) (time : Nat) (s : State) : State :=
  let l := laneOf s ph
  let s1 :=
    if isOccupied l.state then landLane ph (endPart ph (some .lost) time s)
    else if l.state = .settling then setLane s ph { l with settling := 0 }
    else releaseReserved s ph
  settleAllRounds (setLane s1 ph { laneOf s1 ph with deferral := 0 })

/-! ### Lane control -/

/-- STOP taken by a lane (R83). -/
def stopLane (s : State) (ph : Phase) : State :=
  let l := laneOf s ph
  match l.state with
  | .idle | .reserved | .paused | .settling => enterStopped ph s
  | .armed =>
    match l.exchange with
    | none => enterStopped ph s
    | some x => abortExchange .stopped x ph (setLane s ph { l with stopDue := true })
  | .sending | .listening => markAbort ph .stopped (setLane s ph { l with stopDue := true })
  | .stopped => s

/-- PAUSE taken by a lane (R84). -/
def pauseLane (s : State) (ph : Phase) : State :=
  let l := laneOf s ph
  match l.state with
  | .idle | .reserved | .settling => setLane s ph (pausedLane l)
  | .armed | .sending | .listening => setLane s ph { l with pauseDue := true }
  | .paused | .stopped => s

/-- RESUME taken by a lane (R85); leaving STOPPED is reported to the queue (R68). -/
def resumeLane (s : State) (ph : Phase) : State :=
  let l := laneOf s ph
  match l.state with
  | .paused => setLane s ph { l with state := .settling, settling := 0 }
  | .stopped => laneSeen ph (setLane s ph { l with state := .settling, settling := 0 })
  | .idle | .reserved | .armed | .sending | .listening | .settling => s

/-- The lanes that a mask names, lane A first (R172). -/
def maskLanes (mask : Byte) : List Phase :=
  allPhases.filter fun ph => match ph with
    | .A => mask.getLsbD 0
    | .B => mask.getLsbD 1
    | .C => mask.getLsbD 2

/-- The queue's abort request taken by a lane (R87). A lane that holds no exchange for the record ignores it. A joined
exchange is noted as aborted whole with the first request taken (DEDUCED log 33), even where every part that runs has its
own STOP due (DEDUCED log 47). -/
def takeAbortRequest (q : AbortRequest) (s : State) : State :=
  match (laneOf s q.lane).exchange with
  | none => s
  | some x =>
    if x.serial = q.serial then abortPart q.cause q.lane (noteWholeAbort x.exch q.cause s) else s

end Sys2Proof.Machine
end

