-- ==== Sys2Proof/Config.lean ====
section
/-! DEFINITION. What the spec leaves open: the free values. Each is an opaque constant, applied to the counter
State.draws, which the step reads and advances; nothing can be proved of what it answers. -/

namespace Sys2Proof.Config

/-- Whether the NOTICE is taken before the response when both become ready in one step while the transmitter is
free (R151, R166: "whichever is taken first is sent first"). Free value, DESIGN CHOICE log 10. -/
opaque noticeFirst : Nat → Bool

/-- The level of TXD in a window that the lane does not drive; the rules state TXEN and DRV there and no level
of TXD (R67, R95). Free value, DESIGN CHOICE log 11. -/
opaque undrivenTxd : Nat → Bool

end Sys2Proof.Config
end

