-- ==== Sys2Proof/WellFormed.lean ====
section
/-! DEFINITION. Which commands can be spelled on the uplink at all: the length byte of a frame counts the kind,
the tag and at most 238 content bytes (R144), and a command that names its own row carries what the row carries. -/

namespace Sys2Proof

/-- The fourteen kinds of R149. -/
def knownKinds : List Byte :=
  [0x01, 0x02, 0x03, 0x04, 0x05, 0x10, 0x11, 0x12, 0x20, 0x21, 0x30, 0x31, 0x32, 0x33]

/-- How many of the mask's bits 0 to 8 are set: the settings a PROFILE WRITE names (R173). -/
def namedSettings (mask : BitVec 16) : Nat :=
  ((List.range 9).filter mask.getLsbD).length

/-- A SUBMIT fits a frame: 24 bytes and the payload, of at most 238 (R144, R173). -/
def SubmitFields.fits (f : SubmitFields) : Bool := f.payload.length ≤ 214

/-- A UNIT WRITE fits a frame: 12 bytes, 2 a route place and 1 a group, of at most 238 (R144, R175). -/
def UnitWriteFields.fits (f : UnitWriteFields) : Bool :=
  12 + 2 * f.route.length + f.groups.length ≤ 238

/-- A command that the uplink can spell. Commands with no list among their operands always can be. -/
def Instr.wellFormed : Instr → Bool
  | .submit _ f => f.fits
  | .unitWrite _ f => f.fits
  | .profileWrite _ mask values => values.length == namedSettings mask
  | .badKind kind _ content => !knownKinds.contains kind && decide (content.length ≤ 238)
  | .deviceReset _ _ => true
  | .crossing _ => true
  | .missTest _ => true
  | .halfCycleBoundary _ _ _ => true
  | .secondEvent => true
  | .notBeforeTimePasses _ _ => true
  | .endReport _ => true
  | .learningReport _ => true
  | .abortRequest _ => true
  | .receivedByte _ _ => true
  | .interByteTimeout => true
  | .transmitterFree => true
  | .waitingSlotTaken => true
  | .cancel _ _ => true
  | .adjust _ _ _ _ => true
  | .collect _ _ _ _ _ => true
  | .restart _ => true
  | .unitReadByIndex _ _ _ => true
  | .unitReadByAddress _ _ => true
  | .discoveryRead _ _ => true
  | .profileRead _ => true
  | .clockSet _ _ => true
  | .stop _ _ => true
  | .pause _ _ => true
  | .resume _ _ => true
  | .status _ _ => true
  | .maskWrite _ _ => true
  | .windowBoundary _ => true
  | .windowSample _ _ _ _ => true
  | .referenceTick => true

end Sys2Proof
end

