-- ==== Sys2Proof/Machine/Operands.lean ====
section
/-! DEFINITION. The uplink's operands: the requests, their frames' content and its reading (R149, R173, R175), the
codes of R172, and the records of bytes that responses carry (R174 to R176). -/

namespace Sys2Proof.Machine

/-! ### Requests and their content -/

/-- A request as its frame carries it (R173): every field at its width, nothing checked but the length. -/
inductive Request where
  | submit (f : SubmitFields)
  | cancel (id : BitVec 32)
  | adjust (id : BitVec 32) (priority options : Byte)
  | collect (id : BitVec 32) (cls : Byte) (start : BitVec 16) (options : Byte)
  | restart
  | unitWrite (f : UnitWriteFields)
  | unitRead (form : Byte) (start : BitVec 16) (count : Byte) (address : Address)
  | discoveryRead (option : Byte)
  | profileWrite (mask : BitVec 16) (values : List Byte)
  | profileRead
  | clockSet (seconds : BitVec 32)
  | laneControl (mask action : Byte)
  | status (option : Byte)
  | maskWrite (mask : BitVec 16)
deriving DecidableEq, Repr

/-- A 16-bit field as two bytes, the more significant first (R172). -/
def field2 (x : BitVec 16) : List Byte := [x.extractLsb' 8 8, x.extractLsb' 0 8]

/-- A 32-bit field as four bytes, the most significant first (R172). -/
def field4 (x : BitVec 32) : List Byte :=
  [x.extractLsb' 24 8, x.extractLsb' 16 8, x.extractLsb' 8 8, x.extractLsb' 0 8]

/-- A request's kind byte (R149). -/
def requestKind : Request → Byte
  | .submit _ => 0x01
  | .cancel _ => 0x02
  | .adjust _ _ _ => 0x03
  | .collect _ _ _ _ => 0x04
  | .restart => 0x05
  | .unitWrite _ => 0x10
  | .unitRead _ _ _ _ => 0x11
  | .discoveryRead _ => 0x12
  | .profileWrite _ _ => 0x20
  | .profileRead => 0x21
  | .clockSet _ => 0x30
  | .laneControl _ _ => 0x31
  | .status _ => 0x32
  | .maskWrite _ => 0x33

/-- A request's content, byte by byte (R173, R175). -/
def requestContent : Request → List Byte
  | .submit f =>
    field4 f.id ++ [f.kind, f.targetType] ++ field4 f.target ++
      [f.priority, f.options, f.budget, f.rounds, f.windows] ++ field4 f.release ++ field4 f.deadline ++
      [BitVec.ofNat 8 f.payload.length] ++ f.payload
  | .cancel id => field4 id
  | .adjust id priority options => field4 id ++ [priority, options]
  | .collect id cls start options => field4 id ++ [cls] ++ field2 start ++ [options]
  | .restart => []
  | .unitWrite f =>
    field2 f.index ++ [f.state] ++ field4 f.address ++ [f.phase] ++ field2 f.successor ++
      [BitVec.ofNat 8 f.route.length, BitVec.ofNat 8 f.groups.length] ++ f.route.flatMap field2 ++ f.groups
  | .unitRead form start count address => [form] ++ field2 start ++ [count] ++ field4 address
  | .discoveryRead option => [option]
  | .profileWrite mask values => field2 mask ++ values
  | .profileRead => []
  | .clockSet seconds => field4 seconds
  | .laneControl mask action => [mask, action]
  | .status option => [option]
  | .maskWrite mask => field2 mask

/-- The frame that carries a request (R150, R173). -/
def requestFrame (tag : Byte) (rq : Request) : Frame := { kind := requestKind rq, tag, content := requestContent rq }

/-! ### Reading a frame -/

/-- What the ULI makes of a good frame's kind and content length (R149). -/
inductive Parsed where
  | request (rq : Request)
  | badKind
  | badLength
deriving DecidableEq, Repr

/-- A content of the right length, or BAD_LENGTH. -/
def orBadLength : Option Request → Parsed
  | some rq => .request rq
  | none => .badLength

/-- Bytes taken two by two as 16-bit values, the more significant first. -/
def pairs16 : List Byte → List (BitVec 16)
  | a :: b :: rest => word2 a b :: pairs16 rest
  | _ => []

/-- SUBMIT content (R173): 24 bytes and the payload that its length byte counts. -/
def readSubmit : List Byte → Option Request
  | i0 :: i1 :: i2 :: i3 :: kind :: targetType :: t0 :: t1 :: t2 :: t3 :: priority :: options :: budget :: rounds ::
      windows :: r0 :: r1 :: r2 :: r3 :: d0 :: d1 :: d2 :: d3 :: len :: payload =>
    if payload.length = len.toNat then
      some (.submit
        { id := word4 i0 i1 i2 i3, kind, targetType, target := word4 t0 t1 t2 t3, priority, options, budget, rounds,
          windows, release := word4 r0 r1 r2 r3, deadline := word4 d0 d1 d2 d3, payload })
    else none
  | _ => none

/-- UNIT WRITE content (R173, R175): 12 bytes, 2 for each route place and 1 for each group its counts count. -/
def readUnitWrite : List Byte → Option Request
  | x0 :: x1 :: state :: a0 :: a1 :: a2 :: a3 :: phase :: s0 :: s1 :: routes :: groups :: rest =>
    if rest.length = 2 * routes.toNat + groups.toNat then
      some (.unitWrite
        { index := word2 x0 x1, state, address := word4 a0 a1 a2 a3, phase, successor := word2 s0 s1
          route := pairs16 (rest.take (2 * routes.toNat)), groups := rest.drop (2 * routes.toNat) })
    else none
  | _ => none

/-- PROFILE WRITE content (R173): the mask and one byte for each of its bits 0 to 8 that is set. -/
def readProfileWrite : List Byte → Option Request
  | m0 :: m1 :: values =>
    if values.length = namedSettings (word2 m0 m1) then some (.profileWrite (word2 m0 m1) values) else none
  | _ => none

/-- CANCEL content (R173). -/
def readCancel : List Byte → Option Request
  | [a, b, c, d] => some (.cancel (word4 a b c d))
  | _ => none

/-- ADJUST content (R173). -/
def readAdjust : List Byte → Option Request
  | [a, b, c, d, priority, options] => some (.adjust (word4 a b c d) priority options)
  | _ => none

/-- COLLECT content (R173). -/
def readCollect : List Byte → Option Request
  | [a, b, c, d, cls, p0, p1, options] => some (.collect (word4 a b c d) cls (word2 p0 p1) options)
  | _ => none

/-- UNIT READ content (R173). -/
def readUnitRead : List Byte → Option Request
  | [form, p0, p1, count, a, b, c, d] => some (.unitRead form (word2 p0 p1) count (word4 a b c d))
  | _ => none

/-- CLOCK SET content (R173). -/
def readClockSet : List Byte → Option Request
  | [a, b, c, d] => some (.clockSet (word4 a b c d))
  | _ => none

/-- A content of no bytes (R173). -/
def readNothing (rq : Request) : List Byte → Option Request
  | [] => some rq
  | _ => none

/-- A content of one byte (R173). -/
def readByte (rq : Byte → Request) : List Byte → Option Request
  | [a] => some (rq a)
  | _ => none

/-- A content of two bytes (R173). -/
def readTwo (rq : Byte → Byte → Request) : List Byte → Option Request
  | [a, b] => some (rq a b)
  | _ => none

/-- A good frame's kind checked, then the length of its content (R149, steps 1 and 2). -/
def parseFrame (f : Frame) : Parsed :=
  if f.kind = 0x01 then orBadLength (readSubmit f.content)
  else if f.kind = 0x02 then orBadLength (readCancel f.content)
  else if f.kind = 0x03 then orBadLength (readAdjust f.content)
  else if f.kind = 0x04 then orBadLength (readCollect f.content)
  else if f.kind = 0x05 then orBadLength (readNothing .restart f.content)
  else if f.kind = 0x10 then orBadLength (readUnitWrite f.content)
  else if f.kind = 0x11 then orBadLength (readUnitRead f.content)
  else if f.kind = 0x12 then orBadLength (readByte .discoveryRead f.content)
  else if f.kind = 0x20 then orBadLength (readProfileWrite f.content)
  else if f.kind = 0x21 then orBadLength (readNothing .profileRead f.content)
  else if f.kind = 0x30 then orBadLength (readClockSet f.content)
  else if f.kind = 0x31 then orBadLength (readTwo .laneControl f.content)
  else if f.kind = 0x32 then orBadLength (readByte .status f.content)
  else if f.kind = 0x33 then orBadLength (readTwo (fun a b => .maskWrite (word2 a b)) f.content)
  else .badKind

/-! ### The commands that are requests -/

/-- The tag and request of a command that is one of the uplink's requests. -/
def requestOf : Instr → Option (Byte × Request)
  | .submit tag f => some (tag, .submit f)
  | .cancel tag id => some (tag, .cancel id)
  | .adjust tag id priority options => some (tag, .adjust id priority options)
  | .collect tag id cls start options => some (tag, .collect id cls start options)
  | .restart tag => some (tag, .restart)
  | .unitWrite tag f => some (tag, .unitWrite f)
  | .unitReadByIndex tag start count => some (tag, .unitRead 0 start count 0)
  | .unitReadByAddress tag address => some (tag, .unitRead 1 0 0 address)
  | .discoveryRead tag option => some (tag, .discoveryRead option)
  | .profileWrite tag mask values => some (tag, .profileWrite mask values)
  | .profileRead tag => some (tag, .profileRead)
  | .clockSet tag seconds => some (tag, .clockSet seconds)
  | .stop tag mask => some (tag, .laneControl mask 1)
  | .pause tag mask => some (tag, .laneControl mask 2)
  | .resume tag mask => some (tag, .laneControl mask 3)
  | .status tag option => some (tag, .status option)
  | .maskWrite tag mask => some (tag, .maskWrite mask)
  | .deviceReset _ _ => none
  | .crossing _ => none
  | .missTest _ => none
  | .halfCycleBoundary _ _ _ => none
  | .secondEvent => none
  | .notBeforeTimePasses _ _ => none
  | .endReport _ => none
  | .learningReport _ => none
  | .abortRequest _ => none
  | .receivedByte _ _ => none
  | .interByteTimeout => none
  | .transmitterFree => none
  | .waitingSlotTaken => none
  | .badKind _ _ _ => none
  | .windowBoundary _ => none
  | .windowSample _ _ _ _ => none
  | .referenceTick => none

/-! ### Codes (R172) -/

/-- The result codes (R150). -/
inductive ResultCode where
  | ok
  | badKind
  | badLength
  | badField
  | queueFull
  | duplicateId
  | unknownId
  | unknownUnit
  | emptyTarget
  | tooLate
  | badWindow
  | noClock
  | entryInUse
  | badChain
  | badRoute
  | addressTaken
  | wrongState
deriving DecidableEq, Repr

/-- A result code's value (R172). -/
def resultByte : ResultCode → Byte
  | .ok => 0x00
  | .badKind => 0x01
  | .badLength => 0x02
  | .badField => 0x03
  | .queueFull => 0x10
  | .duplicateId => 0x11
  | .unknownId => 0x12
  | .unknownUnit => 0x13
  | .emptyTarget => 0x14
  | .tooLate => 0x20
  | .badWindow => 0x21
  | .noClock => 0x22
  | .entryInUse => 0x30
  | .badChain => 0x31
  | .badRoute => 0x32
  | .addressTaken => 0x33
  | .wrongState => 0x40

/-- A phase's code, UNKNOWN included (R172). -/
def phaseByte : Option Phase → Byte
  | some .A => 0
  | some .B => 1
  | some .C => 2
  | none => 3

/-- A unit state's code (R172). -/
def unitStateByte : UnitState → Byte
  | .empty => 0
  | .active => 1
  | .silent => 2
  | .redirected => 3

/-- A lane state's code (R172). -/
def laneStateByte : LaneState → Byte
  | .idle => 0
  | .reserved => 1
  | .armed => 2
  | .sending => 3
  | .listening => 4
  | .paused => 5
  | .stopped => 6
  | .settling => 7

/-- A timing state's code (R172). -/
def timingByte : TimingState → Byte
  | .locking => 0
  | .locked => 1
  | .coasting => 2
  | .lost => 3

/-- A mode's code (R172). -/
def modeByte : Mode → Byte
  | .normal => 0
  | .robust => 1

/-- A record state's code (R172). -/
def recordStateByte : RecordState → Byte
  | .waiting => 0
  | .ready => 1
  | .active => 2
  | .closing _ => 3
  | .done _ => 4

/-- A cause's code (R172). -/
def causeByte : Cause → Byte
  | .budgetSpent => 1
  | .routeBroken => 2
  | .deadline => 3
  | .cancelled => 4
  | .noLane => 5

/-- A yes or no as a byte. -/
def boolByte (b : Bool) : Byte := if b then 1 else 0

/-- A small count as a byte. -/
def byteOf (n : Nat) : Byte := BitVec.ofNat 8 n

/-- A flag word as two bytes, bits 12 to 15 sent as 0 (R172). -/
def flagBytes (w : BitVec 12) : List Byte := bytes2 w.toNat

/-! ### Records of bytes in responses -/

/-- `n` places filled from a list, and with `d` beyond it. -/
def padded {α : Type} (n : Nat) (d : α) (xs : List α) : List α := (List.range n).map fun i => xs.getD i d

/-- A unit entry as 26 bytes, absent values as R172 gives them (R175). -/
def entryBytes (s : State) (i : Nat) : List Byte :=
  let e := unitAt s i
  bytes2 i ++ [unitStateByte e.state] ++ bytes4 ((e.address.map BitVec.toNat).getD 0) ++ [phaseByte e.phase] ++
    bytes2 (e.successor.getD 0xFFFF) ++ [byteOf e.route.length] ++ (padded 3 0xFFFF e.route).flatMap bytes2 ++
    [byteOf e.groups.length] ++ padded 4 0 e.groups ++ [byteOf (e.quality.getD 0xFF)] ++
    [byteOf e.silence, byteOf e.conflict, boolByte (inUse s i)]

/-- One lane's block of a STATUS response, 11 bytes (R174). -/
def laneBlock (s : State) (ph : Phase) : List Byte :=
  let l := laneOf s ph
  let u := ptuOf s ph
  let m := lcmOf s ph
  [laneStateByte l.state, timingByte u.timing] ++ bytes2 u.p ++
    [byteOf u.missCount, byteOf (pendingPriority l), byteOf (currentPriority l), modeByte m.mode, byteOf m.floor,
      boolByte m.latch, byteOf l.deferral]

/-- The snapshot of a STATUS response after its result code, 47 bytes (R157, R174). -/
def statusBytes (s : State) : List Byte :=
  allPhases.flatMap (laneBlock s) ++ [byteOf s.records.length, boolByte s.clock.isSet] ++ bytes4 s.clock.seconds ++
    bytes4 s.clock.sub ++ flagBytes s.events.flags ++ flagBytes s.events.mask

/-- The nine stored settings, in presence-mask order (R174). -/
def profileBytes (p : Profile) : List Byte :=
  [p.w, p.urgent, p.coast, p.silence, p.retry, p.deferral, p.robustEnter, p.robustLeave, p.boost].map byteOf

/-- A record's state and final outcome as COLLECT packs them (R176). -/
def collectState : RecordState → Nat
  | .waiting => 0
  | .ready => 1
  | .active => 2
  | .closing _ => 3
  | .done .complete => 4
  | .done .expired => 5
  | .done .cancelled => 6

/-- The five outcomes without their causes and statuses (R64). -/
inductive OutcomeClass where
  | pending
  | confirmed
  | refused
  | unreached
  | unconfirmed
deriving DecidableEq, Repr

/-- A target's outcome class. -/
def classOf : TargetOutcome → OutcomeClass
  | .pending => .pending
  | .confirmed => .confirmed
  | .refused _ => .refused
  | .unreached _ => .unreached
  | .unconfirmed => .unconfirmed

/-- How many targets of a record stand in a class (R64). -/
def countClass (r : Record) (c : OutcomeClass) : Nat := (r.targets.filter fun t => classOf t.outcome == c).length

/-- The first 72 bits of a COLLECT summary (R176). -/
def summaryBits (r : Record) : List Bool :=
  bitsOf 3 (collectState r.state) ++ bitsOf 3 r.roundsSent ++ bitsOf 11 r.targets.length ++
    bitsOf 11 (countClass r .pending) ++ bitsOf 11 (countClass r .confirmed) ++ bitsOf 11 (countClass r .refused) ++
    bitsOf 11 (countClass r .unreached) ++ bitsOf 11 (countClass r .unconfirmed)

/-- The 11-byte summary of a COLLECT response (R176). -/
def summaryBytes (r : Record) : List Byte :=
  (List.range 9).map (fun i => byteOf (natOfBits (summaryBits r) / 256 ^ (8 - i))) ++ bytes2 r.collided

/-- An entry's detail byte (R176). -/
def detailByte : TargetOutcome → Byte
  | .refused status => status
  | .unreached cause => causeByte cause
  | .pending | .confirmed | .unconfirmed => 0

/-- One entry of a COLLECT response, 7 bytes (R176). -/
def collectEntry (s : State) (t : Target) : List Byte :=
  bytes2 t.unit ++ bytes4 (((unitAt s t.unit).address.map BitVec.toNat).getD 0) ++ [detailByte t.outcome]

/-- The entries and the continuation position of a COLLECT of a class from a start position (R64, R176): at most 32
entries, and the index after the last one if further targets of the class lie beyond it. -/
def collectTail (s : State) (r : Record) (c : OutcomeClass) (start : Nat) : List Byte :=
  let all := r.targets.filter fun t => classOf t.outcome == c && decide (start ≤ t.unit)
  let given := all.take 32
  let cont := if all.length ≤ 32 then 0xFFFF else ((given.getLast?.map Target.unit).getD 0) + 1
  given.flatMap (collectEntry s) ++ bytes2 cont

end Sys2Proof.Machine
end

