-- ==== Sys2Proof/Machine/Transmit.lean ====
section
/-! DEFINITION. The uplink's transmitter (8.4): what a free transmitter starts, and responses entering and leaving
the response queue. -/

namespace Sys2Proof.Machine

/-! ### The frame on the wire (R143, 8.2, 11.2) -/

/-- The bytes of a frame on the wire: start byte, length byte, kind, tag, content, CRC (8.2, 11.2, R147). -/
def wireBytes (f : Frame) : List Byte :=
  let covered := byteOf (f.content.length + 2) :: f.kind :: f.tag :: f.content
  0x5A :: covered ++ field2 (crcOfBytes covered)

/-- The bits of one byte on the wire: a start bit, eight data bits with the least significant first, and a stop bit
(R143). -/
def wireBits (b : Byte) : List Bool := false :: (List.range 8).map b.getLsbD ++ [true]

/-- The line rate that the BAUD straps select, in baud (R143). -/
def lineRate (straps : BitVec 2) : Nat :=
  match straps.toNat with
  | 0 => 19200
  | 1 => 57600
  | 2 => 115200
  | _ => 460800

/-- The bits of a whole frame on the wire: its bytes back to back, with no idle time between them (R143). -/
def frameBits (f : Frame) : List Bool := (wireBytes f).flatMap wireBits

/-- The whole bit times that have passed at a line rate from tick `since` to tick `now`: a second is 1,024,000 ticks
(R16, R143). -/
def bitTimes (rate since now : Nat) : Nat := (now - since) * rate / 1024000

/-- The frame in progress and the tick at which it began. -/
def frameInProgress : Transmitter → Option (Frame × Nat)
  | .free => none
  | .response f since => some (f, since)
  | .notice f since => some (f, since)

/-- The level of UTXD now (R143): the bit of the frame in progress that has been reached, high when idle (11.1). -/
def utxdLevel (s : State) : Bool :=
  match frameInProgress s.uli.tx with
  | none => true
  | some (f, since) => (frameBits f).getD (bitTimes (lineRate s.uli.baud) since s.now) true

/-- The last stop bit of the frame in progress has been sent (R143, R151). -/
def frameDone (s : State) : Bool :=
  match frameInProgress s.uli.tx with
  | none => false
  | some (f, since) => decide ((frameBits f).length ≤ bitTimes (lineRate s.uli.baud) since s.now)

/-! ### What the transmitter starts -/

/-- The NOTICE that would start now: kind 0xC0, tag 0, the flags set and unmasked (R153). -/
def noticeFrame (s : State) : Frame := { kind := 0xC0, tag := 0, content := flagBytes (reportable s) }

/-- A NOTICE starts, and notice-due becomes clear (R153). -/
def startNotice (s : State) : State :=
  { s with uli := { s.uli with tx := .notice (noticeFrame s) s.now, noticeDue := false } }

/-- A response starts (R151). -/
def startResponse (f : Frame) (s : State) : State := { s with uli := { s.uli with tx := .response f s.now } }

/-- A free transmitter starts the oldest response, or else a NOTICE that is due, or stays free (R151). -/
def transmit (s : State) : State :=
  match s.uli.tx with
  | .free =>
    match s.uli.responses with
    | f :: _ => startResponse f s
    | [] => if s.uli.noticeDue then startNotice s else s
  | .response _ _ => s
  | .notice _ _ => s

/-- A response enters the newest end of the response queue (R150). Where notice-due has become set in the same step
with the transmitter free, which of the two it starts first is free (R151, R166, DESIGN CHOICE log 10). -/
def respond (f : Frame) (s : State) : State :=
  let s1 := { s with uli := { s.uli with responses := s.uli.responses ++ [f] } }
  match s.uli.tx with
  | .free =>
    if s.uli.noticeDue && s.uli.responses.isEmpty then
      (if Config.noticeFirst s.draws then startNotice { s1 with draws := s.draws + 1 }
      else transmit { s1 with draws := s.draws + 1 })
    else transmit s1
  | .response _ _ => s1
  | .notice _ _ => s1

end Sys2Proof.Machine
end

