-- ==== Sys2Proof/Machine/Requests.lean ====
section
/-! DEFINITION. The requests as their owners take them (R149 step 3): each answers the state after it and the
response's content, the result code first. -/

namespace Sys2Proof.Machine

/-- The state and response content of a refusal that carries its result code alone (R150). -/
def refuse (c : ResultCode) (s : State) : State × List Byte := (s, [resultByte c])

/-! ### SUBMIT (R43 to R46) -/

/-- The command kinds by their codes (R172). -/
def commandKindOfCode : Byte → Option CommandKind
  | 0 => some .tariff
  | 1 => some .rollcall
  | _ => none

/-- A condition by its code and parameter; `none` is BAD_FIELD (R43 check 1, R173). -/
def conditionOf (code param : Nat) : Option Condition :=
  match code with
  | 1 => some .allActive
  | 2 => if param = 0 then none else some (.group (byteOf param))
  | 3 => some .phaseUnknown
  | 4 => some .silent
  | 5 => if 15 < param then none else some (.qualityBelow param)
  | 6 => some .discover
  | _ => none

/-- A SUBMIT's target by its type and field; `none` is BAD_FIELD (R43 check 1, R173). -/
def targetOf (kind : CommandKind) (type : Byte) (target : BitVec 32) : Option TargetSpec :=
  match type.toNat with
  | 0 => some (.unit target)
  | 1 => if target.extractLsb' 0 8 = 0 then none else some (.group (target.extractLsb' 0 8))
  | 2 => some .all
  | 3 =>
    match kind with
    | .tariff => none
    | .rollcall => (conditionOf (target.extractLsb' 24 8).toNat (target.extractLsb' 0 8).toNat).map .cond
  | _ => none

/-- The payload length suits the kind (R43 check 1). -/
def payloadOk (kind : CommandKind) (payload : List Byte) : Bool :=
  match kind with
  | .tariff => decide (1 ≤ payload.length) && decide (payload.length ≤ 16)
  | .rollcall => payload.isEmpty

/-- The form of a SUBMIT, `none` for BAD_FIELD (R43 checks 1 and 2). -/
def submitForm (f : SubmitFields) : Option (CommandKind × TargetSpec) :=
  match commandKindOfCode f.kind with
  | none => none
  | some kind =>
    match targetOf kind f.targetType f.target with
    | none => none
    | some spec => if payloadOk kind f.payload && f.id != 0 then some (kind, spec) else none

/-- The checks of a SUBMIT in their order (R43): the kind, target spec and target set, or the refusal. -/
def checkSubmit (s : State) (f : SubmitFields) : Except ResultCode (CommandKind × TargetSpec × List Nat) :=
  match submitForm f with
  | none => .error .badField
  | some (kind, spec) =>
    if (recordById s f.id).isSome then .error .duplicateId
    else if 64 ≤ s.records.length then .error .queueFull
    else if (f.release ≠ 0 ∨ f.deadline ≠ 0) ∧ s.clock.isSet = false then .error .noClock
    else if f.deadline ≠ 0 ∧ f.deadline.toNat ≤ s.clock.seconds then .error .tooLate
    else if f.release ≠ 0 ∧ f.deadline ≠ 0 ∧ f.deadline.toNat ≤ f.release.toNat then .error .badWindow
    else
      match expandTarget s.units spec with
      | none => .error .unknownUnit
      | some set =>
        if set.isEmpty && spec != .cond .discover then .error .emptyTarget else .ok (kind, spec, set)

/-- The line tag after a tag, with 65,535 followed by 1 (R45). -/
def nextTag (t : Nat) : Nat := if t = 65535 then 1 else t + 1

/-- The first tag from a candidate on that is not used (R45); at most 64 are, so 65 steps find one. -/
def freeTag (used : List Nat) : Nat → Nat → Nat
  | 0, t => t
  | k + 1, t => if used.contains t then freeTag used k (nextTag t) else t

/-- A target at admission (R42). -/
def newTarget (i : Nat) : Target :=
  { unit := i, outcome := .pending, attempts := 0, notBefore := none, inFlight := false }

/-- The first stage of a record (R51). -/
def firstStage : TargetSpec → Stage
  | .unit _ => .followUp
  | .group _ => .broadcast 1
  | .all => .broadcast 1
  | .cond .allActive => .broadcast 1
  | .cond (.group _) => .broadcast 1
  | .cond .phaseUnknown => .followUp
  | .cond .silent => .followUp
  | .cond (.qualityBelow _) => .followUp
  | .cond .discover => .broadcast 1

/-- A value clamped into a range. -/
def clamp (low high n : Nat) : Nat := max low (min high n)

/-- The record that an accepted SUBMIT makes, with its clamps (R42, R44, R46). -/
def newRecord (s : State) (f : SubmitFields) (kind : CommandKind) (spec : TargetSpec) (set : List Nat) : Record :=
  { serial := s.nextSerial
    id := f.id
    tag := freeTag (s.records.map Record.tag) 65 s.tagCounter
    kind, target := spec
    targets := set.map newTarget
    priority := min 63 f.priority.toNat
    enable := !f.options.getLsbD 0
    budget := clamp 1 15 f.budget.toNat
    rounds := if firstStage spec = .followUp then none else some (clamp 1 4 f.rounds.toNat)
    windows := min 31 f.windows.toNat
    release := f.release.toNat
    deadline := f.deadline.toNat
    payload := f.payload
    state := if f.release = 0 ∨ f.release.toNat ≤ s.clock.seconds then .ready else .waiting
    stage := firstStage spec
    parts := [], roundsSent := 0, collided := 0, flights := 0
    lanesSeen := perPhase fun ph => !outOfReach s ph }

/-- The record as it stands once admitted: one admitted READY begins its stage at once (R46, R51). -/
def admittedRecord (s : State) (r : Record) : Record := if r.state = .ready then beginStage s r else r

/-- A record admitted at the newest end (R40, R45, R46); a READY one has the lanes told. -/
def admitNew (r : Record) (s : State) : State :=
  let s1 := commitRecords (s.records ++ [admittedRecord s r]) s
  let s2 := { s1 with tagCounter := nextTag r.tag, nextSerial := s.nextSerial + 1 }
  if r.state = .ready then tell allPhases s2 else s2

/-- SUBMIT (R43 to R46). -/
def serveSubmit (f : SubmitFields) (s : State) : State × List Byte :=
  match checkSubmit s f with
  | .error c => refuse c s
  | .ok (kind, spec, set) =>
    let r := newRecord s f kind spec set
    (admitNew r s, resultByte .ok :: bytes2 r.tag ++ bytes2 set.length)

/-! ### CANCEL, ADJUST, COLLECT, RESTART (R62 to R65) -/

/-- CANCEL (R63). -/
def serveCancel (id : BitVec 32) (s : State) : State × List Byte :=
  match recordById s id with
  | none => refuse .unknownId s
  | some r =>
    match r.state with
    | .waiting | .ready => (tell allPhases (putRecord (enterDone s .cancelled r) s), [resultByte .ok, 4])
    | .active => (tell allPhases (putRecord { r with state := .closing .cancel } s), [resultByte .ok, 3])
    | .closing _ => (s, [resultByte .ok, 3])
    | .done _ => (s, [resultByte .wrongState, 4])

/-- The record as an ADJUST leaves it (R62). -/
def adjusted (priority options : Byte) (r : Record) : Record :=
  { r with
    priority := if priority = 255 then r.priority else min 63 priority.toNat
    enable :=
      if options.getLsbD 0 && !options.getLsbD 1 then false
      else if options.getLsbD 1 && !options.getLsbD 0 then true
      else r.enable }

/-- ADJUST (R62); the lanes are told when the priority or the enable changes (R47). -/
def serveAdjust (id : BitVec 32) (priority options : Byte) (s : State) : State × List Byte :=
  match recordById s id with
  | none => refuse .unknownId s
  | some r =>
    if isDone r then refuse .wrongState s
    else
      let r' := adjusted priority options r
      let s1 := putRecord r' s
      (if r'.priority ≠ r.priority ∨ r'.enable ≠ r.enable then tell allPhases s1 else s1,
        [resultByte .ok, byteOf r'.priority, boolByte r'.enable])

/-- The outcome classes by their codes (R172): `some none` is NONE. -/
def classOfCode : Byte → Option (Option OutcomeClass)
  | 0 => some none
  | 1 => some (some .confirmed)
  | 2 => some (some .refused)
  | 3 => some (some .unreached)
  | 4 => some (some .unconfirmed)
  | _ => none

/-- COLLECT (R64). -/
def serveCollect (id : BitVec 32) (cls : Byte) (start : BitVec 16) (options : Byte) (s : State) : State × List Byte :=
  match recordById s id with
  | none => refuse .unknownId s
  | some r =>
    match classOfCode cls with
    | none => refuse .badField s
    | some c =>
      if 1023 < start.toNat then refuse .badField s
      else if options.getLsbD 0 && !isDone r then refuse .wrongState s
      else
        let tail := match c with
          | none => []
          | some c => collectTail s r c start.toNat
        (if options.getLsbD 0 then { s with records := s.records.filter fun q => q.serial != r.serial } else s,
          resultByte .ok :: summaryBytes r ++ tail)

/-- RESTART (R65, R88, R126): the queue and the discovery list are emptied, the lanes that hold exchanges are asked
to abort them, every lane's deferral count becomes 0, and the lanes choose again among no candidates. -/
def serveRestart (s : State) : State × List Byte :=
  let asks := allPhases.flatMap fun ph =>
    match (laneOf s ph).exchange with
    | none => []
    | some x => [({ lane := ph, serial := x.serial, cause := .restart } : AbortRequest)]
  let s1 :=
    { s with
      records := []
      discovery := []
      abortRequests := s.abortRequests ++ asks
      lanes := perPhase fun ph => { laneOf s ph with deferral := 0 } }
  (tell allPhases s1, [resultByte .ok])

/-! ### Unit table requests (R24, R34, R35, R127) -/

/-- UNIT WRITE (R24 to R32). -/
def serveUnitWrite (f : UnitWriteFields) (s : State) : State × List Byte :=
  match checkWrite s f with
  | .error .badField => refuse .badField s
  | .error (.addressTaken h) => (s, resultByte .addressTaken :: bytes2 h)
  | .error .badRoute => refuse .badRoute s
  | .error .badChain => refuse .badChain s
  | .error .entryInUse => refuse .entryInUse s
  | .ok st =>
    let s1 := storeEntry st f s
    (s1, resultByte .ok :: entryBytes s1 f.index.toNat)

/-- UNIT READ in its two forms (R34, R35, R173). -/
def serveUnitRead (form : Byte) (start : BitVec 16) (count : Byte) (address : Address) (s : State) :
    State × List Byte :=
  if form = 0 then
    (if 1023 < start.toNat then refuse .badField s
    else
      let k := min (clamp 1 8 count.toNat) (1024 - start.toNat)
      (s, resultByte .ok :: byteOf k :: (List.range k).flatMap fun j => entryBytes s (start.toNat + j)))
  else if form = 1 then
    match holderOf s.units address with
    | none => refuse .unknownUnit s
    | some i => (s, resultByte .ok :: 1 :: entryBytes s i)
  else refuse .badField s

/-- DISCOVERY READ (R127). -/
def serveDiscoveryRead (option : Byte) (s : State) : State × List Byte :=
  if 1 < option.toNat then refuse .badField s
  else
    (if option = 1 then { s with discovery := [] } else s,
      resultByte .ok :: byteOf s.discovery.length :: s.discovery.flatMap field4)

/-! ### Profile store (R154 to R156) -/

/-- One setting stored, clamped into its range (R155 step 1); `k` is its place in the presence mask (R173). -/
def putSetting (p : Profile) (k v : Nat) : Profile :=
  match k with
  | 0 => { p with w := clamp 24 96 v }
  | 1 => { p with urgent := clamp 1 64 v }
  | 2 => { p with coast := min 16 v }
  | 3 => { p with silence := clamp 1 255 v }
  | 4 => { p with retry := clamp 1 63 v }
  | 5 => { p with deferral := clamp 1 255 v }
  | 6 => { p with robustEnter := clamp 1 255 v }
  | 7 => { p with robustLeave := min 254 v }
  | 8 => { p with boost := min 15 v }
  | _ => p

/-- The settings that a presence mask names, in mask order (R173). -/
def namedPlaces (mask : BitVec 16) : List Nat := (List.range 9).filter mask.getLsbD

/-- Robust leave kept below robust enter (R155 step 4). -/
def leaveBelowEnter (p : Profile) : Profile :=
  if p.robustEnter ≤ p.robustLeave then { p with robustLeave := p.robustEnter - 1 } else p

/-- The profile that a write stores (R155 steps 1, 3 and 4). -/
def writtenProfile (p : Profile) (mask : BitVec 16) (values : List Byte) : Profile :=
  leaveBelowEnter (((namedPlaces mask).zip values).foldl (fun q kv => putSetting q kv.1 kv.2.toNat) p)

/-- Some lane is RESERVED, ARMED, SENDING or LISTENING (R156). -/
def anyLaneEngaged (s : State) : Bool :=
  allPhases.any fun ph => (laneOf s ph).state == .reserved || isOccupied (laneOf s ph).state

/-- PROFILE WRITE (R155, R156); a lane whose usability changes chooses again (R68), and what the queue's evaluation then ends
may raise RECORD_DONE, where R155 says that no event flag is raised (DEDUCED log 49). -/
def serveProfileWrite (mask : BitVec 16) (values : List Byte) (s : State) : State × List Byte :=
  if mask.extractLsb' 9 7 ≠ 0 then refuse .badField s
  else
    let p := writtenProfile s.profile mask values
    if p.w ≠ s.profile.w ∧ anyLaneEngaged s = true then refuse .wrongState s
    else
      let s1 := { s with profile := p }
      (tell (usabilityChanged s s1) s1, resultByte .ok :: profileBytes p)

/-- PROFILE READ (R154). -/
def serveProfileRead (s : State) : State × List Byte := (s, resultByte .ok :: profileBytes s.profile)

/-! ### Clock (R16, R17, R48, R49) -/

/-- A second event or clock-set event as the queue takes it: records expire and are released, lanes are asked to
abort what has expired in flight, and the lanes are told if any record changed (R48, R49). -/
def clockEvent (s : State) : State :=
  let rs := s.records.map (clockRecord s)
  let expiring := s.records.filter fun r => r.state == .active && deadlineReached s r
  let s1 := expiring.foldl (fun st r => askAbort .expiry r.serial st) (commitRecords rs s)
  if rs = s.records then s1 else tell allPhases s1

/-- CLOCK SET (R17). -/
def serveClockSet (seconds : BitVec 32) (s : State) : State × List Byte :=
  if seconds = 0 then refuse .badField s
  else
    (clockEvent { s with clock := { isSet := true, seconds := seconds.toNat, sub := 0 } }, [resultByte .ok])

/-! ### Lane control (R82 to R85) -/

/-- The lanes that must choose again after lane control: all when a lane has entered STOPPED, since parts may have
been skipped, else those whose usability changed (R53, R68, R69). -/
def askedAfterControl (before after : State) : List Phase :=
  if allPhases.any (fun ph => (laneOf before ph).state != .stopped && (laneOf after ph).state == .stopped)
  then allPhases else usabilityChanged before after

/-- LANE CONTROL (R82 to R85, R173). -/
def serveLaneControl (mask action : Byte) (s : State) : State × List Byte :=
  if mask.extractLsb' 3 5 ≠ 0 ∨ maskLanes mask = [] then refuse .badField s
  else
    let done (act : State → Phase → State) : State × List Byte :=
      let s1 := (maskLanes mask).foldl act s
      let s2 := tell (askedAfterControl s s1) s1
      (s2, resultByte .ok :: allPhases.map fun ph => laneStateByte (laneOf s2 ph).state)
    if action = 1 then done stopLane
    else if action = 2 then done pauseLane
    else if action = 3 then done resumeLane
    else refuse .badField s

/-! ### STATUS and MASK WRITE (R157, R158) -/

/-- The flags and, with the option, the activity latches cleared at the instant of the snapshot (R138, R157). -/
def clearAfterStatus (latches : Bool) (s : State) : State :=
  { s with
    events := { s.events with flags := 0 }
    uli := { s.uli with noticeDue := false }
    lcm := if latches then perPhase (fun ph => { lcmOf s ph with latch := false }) else s.lcm }

/-- STATUS (R157). -/
def serveStatus (option : Byte) (s : State) : State × List Byte :=
  if 1 < option.toNat then refuse .badField s
  else (clearAfterStatus (option == 1) s, resultByte .ok :: statusBytes s)

/-- The mask replaced, and notice-due settled under it (R158, R162): a NOTICE is owed if the new mask has a set position
for a set flag, whether or not the old mask had it too (DEDUCED log 45), and otherwise none is. -/
def replaceMask (mask : BitVec 12) (s : State) : State :=
  { s with
    events := { s.events with mask }
    uli := { s.uli with noticeDue := s.events.flags &&& mask != 0 } }

/-- MASK WRITE (R158, R172). -/
def serveMaskWrite (mask : BitVec 16) (s : State) : State × List Byte :=
  if mask.extractLsb' 12 4 ≠ 0 then refuse .badField s
  else
    let s1 := replaceMask (mask.extractLsb' 0 12) s
    (s1, resultByte .ok :: flagBytes s1.events.mask)

/-! ### Handing over -/

/-- A request taken whole by its owner (R149 step 3): the state after it and the response's content. -/
def serve : Request → State → State × List Byte
  | .submit f, s => serveSubmit f s
  | .cancel id, s => serveCancel id s
  | .adjust id priority options, s => serveAdjust id priority options s
  | .collect id cls start options, s => serveCollect id cls start options s
  | .restart, s => serveRestart s
  | .unitWrite f, s => serveUnitWrite f s
  | .unitRead form start count address, s => serveUnitRead form start count address s
  | .discoveryRead option, s => serveDiscoveryRead option s
  | .profileWrite mask values, s => serveProfileWrite mask values s
  | .profileRead, s => serveProfileRead s
  | .clockSet seconds, s => serveClockSet seconds s
  | .laneControl mask action, s => serveLaneControl mask action s
  | .status option, s => serveStatus option s
  | .maskWrite mask, s => serveMaskWrite mask s

end Sys2Proof.Machine
end

