-- ==== Sys2Proof/Machine/Uplink.lean ====
section
/-! DEFINITION. The uplink's receiver and intake (8.2, 8.3): frames found in the byte stream, good frames taken, kept
in the waiting slot or lost, and the frame that has been fully sent. -/

namespace Sys2Proof.Machine

/-! ### Taking (R149, R150) -/

/-- A request taken: its owner takes it whole and its response enters the queue (R149 step 3, R150). -/
def perform (tag : Byte) (rq : Request) (s : State) : State :=
  let r := serve rq (transmit s)
  respond { kind := requestKind rq + 0x80, tag, content := r.2 } r.1

/-- A good frame taken: kind, then length, then its owner (R149). -/
def takeFrame (f : Frame) (s : State) : State :=
  match parseFrame f with
  | .request rq => perform f.tag rq s
  | .badLength =>
    respond { kind := f.kind + 0x80, tag := f.tag, content := [resultByte .badLength] } (transmit s)
  | .badKind =>
    respond { kind := 0xFF, tag := f.tag, content := [resultByte .badKind, f.kind] } (transmit s)

/-! ### Intake (R148) -/

/-- The response queue has room for one more response (R148). -/
def hasRoom (s : State) : Bool := decide (s.uli.responses.length < 4)

/-- A good frame that finds the response queue full: into the waiting slot, or discarded with UPLINK_ERROR (R148). -/
def holdFrame (f : Frame) (s : State) : State :=
  match s.uli.slot with
  | none => { s with uli := { s.uli with slot := some f } }
  | some _ => transmit (raise .uplinkError s)

/-- Intake of a good frame (R148). -/
def intakeFrame (f : Frame) (s : State) : State := if hasRoom s then takeFrame f s else holdFrame f s

/-- Intake of a request whose good frame arrives whole (R148, DEDUCED log 6). -/
def intakeRequest (tag : Byte) (rq : Request) (s : State) : State :=
  if hasRoom s then perform tag rq s else holdFrame (requestFrame tag rq) s

/-- The waiting slot's frame is taken if the response queue has room (R148). -/
def takeSlot (s : State) : State :=
  match s.uli.slot with
  | none => s
  | some f => if hasRoom s then takeFrame f { s with uli := { s.uli with slot := none } } else s

/-! ### The receiver (R144 to R147) -/

/-- The receiver back in HUNTING with no frame in reception. -/
def huntAgain (s : State) : State := { s with uli := { s.uli with rx := .hunting, partialFrame := none } }

/-- The frame in reception discarded with UPLINK_ERROR and no response (R147). -/
def discardFrame (s : State) : State := transmit (raise .uplinkError (huntAgain s))

/-- The receiver goes on with a frame in reception. -/
def receiving (st : RxState) (p : PartialFrame) (s : State) : State :=
  { s with uli := { s.uli with rx := st, partialFrame := some p } }

/-- The frame of a body and the two CRC bytes (R147): checked, and handed to intake if good. -/
def checkFrame (length : Byte) (body : List Byte) (crc1 crc2 : Byte) (s : State) : State :=
  if crcOfBytes (length :: body) = word2 crc1 crc2 then
    intakeFrame { kind := body.getD 0 0, tag := body.getD 1 0, content := body.drop 2 } (huntAgain s)
  else discardFrame s

/-- A byte without a framing fault (R144). -/
def takeByte (b : Byte) (s : State) : State :=
  match s.uli.rx, s.uli.partialFrame with
  | .hunting, _ =>
    if b = 0x5A then receiving .length { length := none, body := [], crc := [], lastAt := s.now } s else s
  | .length, some p =>
    if 2 ≤ b.toNat ∧ b.toNat ≤ 240 then receiving .body { p with length := some b, lastAt := s.now } s
    else discardFrame s
  | .body, some p =>
    let p' := { p with body := p.body ++ [b], lastAt := s.now }
    if p'.body.length = (p.length.getD 0).toNat then receiving .crc p' s else receiving .body p' s
  | .crc, some p =>
    match p.crc with
    | [] => receiving .crc { p with crc := [b], lastAt := s.now } s
    | c :: _ => checkFrame (p.length.getD 0) p.body c b s
  | .length, none => huntAgain s
  | .body, none => huntAgain s
  | .crc, none => huntAgain s

/-- A byte with a framing fault (R146). -/
def takeFault (s : State) : State :=
  match s.uli.rx with
  | .hunting => s
  | .length | .body | .crc => discardFrame s

/-- The inter-byte timer has expired: 2,048 ticks have passed after the last byte and the next begins (R145, DEDUCED log 14). -/
def timeoutDue (s : State) : Bool :=
  match s.uli.rx, s.uli.partialFrame with
  | .hunting, _ => false
  | _, none => false
  | _, some p => decide (p.lastAt + 2049 ≤ s.now)

/-! ### The transmitter becomes free (R151, R152) -/

/-- The frame in progress leaves the transmitter: a response leaves the response queue, which makes room for the
waiting slot's frame, and the transmitter chooses again (R148, R151, R152). -/
def frameSent (s : State) : State :=
  match s.uli.tx with
  | .free => s
  | .notice _ _ => transmit { s with uli := { s.uli with tx := .free } }
  | .response _ _ =>
    transmit (takeSlot { s with uli := { s.uli with tx := .free, responses := s.uli.responses.tail } })

end Sys2Proof.Machine
end

