-- ==== Sys2Proof/Machine/DeliveryEvents.lean ====
section
/-! DEFINITION. The meanings of the commands by which the queue, the unit table and the lanes take what has become due
between them: NOT_BEFORE_TIME_PASSES, END_REPORT, LEARNING_REPORT, ABORT_REQUEST. -/

namespace Sys2Proof.Machine

/-- A record's target of a unit waits for a not-before time that has been reached (R59): only a PENDING target waits for
one (R55, DEDUCED log 13). -/
def backoffEnds (s : State) (unit : Nat) (t : Target) : Bool :=
  t.unit == unit && t.outcome == .pending &&
    match t.notBefore with
    | none => false
    | some nb => !nb.passed && decide (nb.time ≤ s.now)

/-- The passing of a target's not-before time taken (R59): the target is free to be offered again, and the queue
tells the lanes, evaluating its records as they ask (R55). -/
def passNotBefore (r : Record) (unit : Nat) (s : State) : State :=
  tell allPhases
    (putRecord
      { r with targets := r.targets.map fun t =>
          if backoffEnds s unit t then
            { t with notBefore := t.notBefore.map fun nb => { nb with passed := true } } else t } s)

/-- NOT_BEFORE_TIME_PASSES (R59): no event where no such time has been reached (DESIGN CHOICE log 3), and a DONE record
ignores it (R50). -/
def execNotBeforeTimePasses (id : BitVec 32) (unit : Nat) (s : State) : Host.Outcome State Fault Refusal :=
  .next (transmit
    (match recordById s id with
    | none => s
    | some r => if !isDone r && r.targets.any (backoffEnds s unit) then passNotBefore r unit s else s))

/-- END_REPORT (R60): the queue applies one of the end reports in transit whole; no event where there is none. -/
def execEndReport (which : Nat) (s : State) : Host.Outcome State Fault Refusal :=
  .next (transmit (takeQueueReport which s))

/-- LEARNING_REPORT (R119): the unit table applies one of the learning reports in transit whole; no event where there
is none. -/
def execLearningReport (which : Nat) (s : State) : Host.Outcome State Fault Refusal :=
  .next (transmit (takeTableReport which s))

/-- The lane takes one abort request; lanes whose usability changes, or that a STOP due leaves STOPPED, have their
candidates chosen again. -/
def abortRequestTaken (q : AbortRequest) (s : State) : State :=
  let s1 := takeAbortRequest q { s with abortRequests := s.abortRequests.erase q }
  tell (askedAfterControl s s1) s1

/-- ABORT_REQUEST (R87): the lane takes the oldest of its abort requests in transit; no event where there is none. -/
def execAbortRequest (lane : Phase) (s : State) : Host.Outcome State Fault Refusal :=
  .next (transmit
    (match s.abortRequests.find? fun q => q.lane == lane with
    | none => s
    | some q => abortRequestTaken q s))

end Sys2Proof.Machine
end

