-- ==== Sys2Proof/Machine/MainsEvents.lean ====
section
/-! DEFINITION. The meanings of the commands that come from the mains, the grid and the clock: DEVICE_RESET, CROSSING,
MISS_TEST, HALF_CYCLE_BOUNDARY, WINDOW_BOUNDARY, WINDOW_SAMPLE, REFERENCE_TICK, SECOND_EVENT. -/

namespace Sys2Proof.Machine

/-- DEVICE_RESET (R1, R16, R19, R66, R142, R159, R165): every block at its reset values with the straps sampled; the
commands that wait and the counter of free values are the model's own and stay. -/
def execDeviceReset (fsel : Bool) (baud : BitVec 2) (s : State) : Host.Outcome State Fault Refusal :=
  .next { stateAfterReset fsel baud with draws := s.draws, pending := s.pending }

/-- A crossing in LOCKING (R3 to R5): when it locks the phase, PHASE_LOCKED is raised and the lane meets the first
boundary, which ends no half-cycle. -/
def crossingLocking (ph : Phase) (s : State) : State :=
  let r := crossLocking s.now s.profile.w (ptuOf s ph)
  let s1 := setPtu s ph r.1
  if r.2 then laneFirstBoundary ph (raise .phaseLocked s1) else s1

/-- A crossing in LOCKED or COASTING (R7, R8); a lane whose usability it restores chooses again (R68). -/
def crossingRunning (ph : Phase) (s : State) : State :=
  let s1 := setPtu s ph (crossRunning s.now (ptuOf s ph))
  tell (usabilityChanged s s1) s1

/-- A crossing in LOST (R2); the phase's departure from LOST is reported to the queue (R50, R68). -/
def crossingLost (ph : Phase) (s : State) : State := laneSeen ph (setPtu s ph (crossLost s.now (ptuOf s ph)))

/-- CROSSING (R2). -/
def execCrossing (ph : Phase) (s : State) : Host.Outcome State Fault Refusal :=
  .next (transmit
    (match (ptuOf s ph).timing with
    | .locking => crossingLocking ph s
    | .locked => crossingRunning ph s
    | .coasting => crossingRunning ph s
    | .lost => crossingLost ph s))

/-- The phase is lost at `time` (R11): PHASE_LOST, the grid stops, and the lane, the monitor and the queue act in the
same event (R53, R86, R139). -/
def phaseLost (ph : Phase) (time : Nat) (s : State) : State :=
  let s1 := raise .phaseLost (setPtu s ph (losePhase (ptuOf s ph)))
  tell allPhases (laneLoss ph time (monitorLoss ph s1))

/-- The miss test of a phase taken (R10): a miss raises GRID_COAST from LOCKED, and the fiftieth loses the phase. -/
def takeMiss (ph : Phase) (s : State) : State :=
  let u := ptuOf s ph
  let u' := takeMissTest u
  let s1 := setPtu s ph u'
  if boundaryServed u then s1
  else
    let s2 := raiseIf (u.timing == .locked) .gridCoast s1
    if 50 ≤ u'.missCount then phaseLost ph (missTestTime u) s2
    else tell (usabilityChanged s s2) s2

/-- MISS_TEST (R10): no event while none is armed or its moment B + J has not come (DESIGN CHOICE log 3). -/
def execMissTest (ph : Phase) (s : State) : Host.Outcome State Fault Refusal :=
  .next (transmit (if missTestDue s.now (ptuOf s ph) then takeMiss ph s else s))

/-- What the timing unit hands over with the boundary that ends its half-cycle (R12). -/
def endedHalf (u : Ptu) : EndedHalf :=
  match u.half with
  | none => { samples := [], w := 0, time := 0 }
  | some h => { samples := h.samples, w := h.w, time := h.start + h.length }

/-- A half-cycle boundary taken (R12): the timing unit starts the next half-cycle; the monitor judges the ended one
and the lane does its work, in the operand's order (R132, R136); the lane reports its start state (R130). -/
def takeBoundary (ph : Phase) (monitorFirst : Bool) (reports : ReportOrder) (s : State) : State :=
  let u := ptuOf s ph
  let ended := endedHalf u
  let v := verdictOn (lcmOf s ph) ended
  let s1 := setPtu s ph (nextHalf s.profile.w u)
  let s2 :=
    if monitorFirst then laneBoundary ph ended v reports (measure ph ended s1)
    else measure ph ended (laneBoundary ph ended v reports s1)
  reportStart ph s2

/-- HALF_CYCLE_BOUNDARY (R12): no event while the half-cycle in progress has not come to its end (DESIGN CHOICE log 3, DEDUCED log 28). -/
def execHalfCycleBoundary (ph : Phase) (monitorFirst : Bool) (reports : ReportOrder) (s : State) :
    Host.Outcome State Fault Refusal :=
  .next (transmit (if boundaryDue s.now (ptuOf s ph) then takeBoundary ph monitorFirst reports s else s))

/-- The lane's pins for a window that begins (R67, R95): the frame's bit with TXEN, and DRV for boost drive; else
TXEN and DRV low, with TXD at a free level (DESIGN CHOICE log 11). -/
def driveWindow (ph : Phase) (w index : Nat) (s : State) : State :=
  let l := laneOf s ph
  match drivenBit l w index with
  | some b =>
    setLane s ph { l with txd := b, txen := true, drv := (l.exchange.map Exchange.boost).getD false }
  | none =>
    setLane { s with draws := s.draws + 1 } ph
      { l with txd := Config.undrivenTxd s.draws, txen := false, drv := false }

/-- A window boundary taken (R12, R14). -/
def takeWindow (ph : Phase) (s : State) : State :=
  let u := ptuOf s ph
  match u.half with
  | none => s
  | some h => driveWindow ph h.w (nextWindowIndex h) (setPtu s ph { u with half := some (beginWindow h) })

/-- WINDOW_BOUNDARY (R12): no event while no window is due (DESIGN CHOICE log 3). -/
def execWindowBoundary (ph : Phase) (s : State) : Host.Outcome State Fault Refusal :=
  .next (transmit (if windowDue s.now (ptuOf s ph) then takeWindow ph s else s))

/-- A window's midpoint sample taken (R15). -/
def takeWindowSample (ph : Phase) (sm : Sample) (s : State) : State :=
  let u := ptuOf s ph
  setPtu s ph { u with half := u.half.map (takeSample sm) }

/-- WINDOW_SAMPLE (R15): no event while no midpoint is due (DESIGN CHOICE log 3). -/
def execWindowSample (ph : Phase) (rxd cd lq : Bool) (s : State) : Host.Outcome State Fault Refusal :=
  .next (transmit (if sampleDue s.now (ptuOf s ph) then takeWindowSample ph { rxd, cd, lq } s else s))

/-- The next tick of the set clock rolls its sub-second count over (R16). -/
def rollsOver (c : Clock) : Bool := c.isSet && decide (1023999 ≤ c.sub)

/-- The rollover: the sub-second count returns to 0 and seconds advance, holding at their limit (R16). -/
def rolledClock (c : Clock) : Clock := { c with seconds := min 4294967295 (c.seconds + 1), sub := 0 }

/-- The tick at which the clock rolls over, the second event reported to the queue (R16, R48, R49). -/
def secondTick (s : State) : State := clockEvent { s with now := s.now + 1, clock := rolledClock s.clock }

/-- REFERENCE_TICK (R16): time goes on by one tick, and the set clock counts it (DESIGN CHOICE log 2, DEDUCED log 4). -/
def execReferenceTick (s : State) : Host.Outcome State Fault Refusal :=
  .next (transmit
    (if rollsOver s.clock then secondTick s
    else
      { s with
        now := s.now + 1
        clock := if s.clock.isSet then { s.clock with sub := s.clock.sub + 1 } else s.clock }))

/-- SECOND_EVENT (R16): the reference tick at which the sub-second count rolls over; no event at any other (DEDUCED log 4). -/
def execSecondEvent (s : State) : Host.Outcome State Fault Refusal :=
  .next (transmit (if rollsOver s.clock then secondTick s else s))

end Sys2Proof.Machine
end

