-- ==== Sys2Proof/Machine/RequestCommands.lean ====
section
/-! DEFINITION. The meanings of the commands that are requests: each is its request's good frame at intake (R148,
DEDUCED log 6), taken at once where the response queue has room. -/

namespace Sys2Proof.Machine

/-- SUBMIT (R43 to R46). -/
def execSubmit (tag : Byte) (fields : SubmitFields) (s : State) : Host.Outcome State Fault Refusal :=
  .next (transmit (intakeRequest tag (.submit fields) s))

/-- CANCEL (R63). -/
def execCancel (tag : Byte) (id : BitVec 32) (s : State) : Host.Outcome State Fault Refusal :=
  .next (transmit (intakeRequest tag (.cancel id) s))

/-- ADJUST (R62). -/
def execAdjust (tag : Byte) (id : BitVec 32) (priority options : Byte) (s : State) : Host.Outcome State Fault Refusal :=
  .next (transmit (intakeRequest tag (.adjust id priority options) s))

/-- COLLECT (R64). -/
def execCollect (tag : Byte) (id : BitVec 32) (cls : Byte) (start : BitVec 16) (options : Byte) (s : State) : Host.Outcome State Fault Refusal :=
  .next (transmit (intakeRequest tag (.collect id cls start options) s))

/-- RESTART (R65, R88). -/
def execRestart (tag : Byte) (s : State) : Host.Outcome State Fault Refusal :=
  .next (transmit (intakeRequest tag (.restart) s))

/-- UNIT_WRITE (R24 to R32). -/
def execUnitWrite (tag : Byte) (fields : UnitWriteFields) (s : State) : Host.Outcome State Fault Refusal :=
  .next (transmit (intakeRequest tag (.unitWrite fields) s))

/-- UNIT_READ_BY_INDEX (R34): the index form, whose address bytes are ignored and 0 here. -/
def execUnitReadByIndex (tag : Byte) (start : BitVec 16) (count : Byte) (s : State) : Host.Outcome State Fault Refusal :=
  .next (transmit (intakeRequest tag (.unitRead 0 start count 0) s))

/-- UNIT_READ_BY_ADDRESS (R35): the address form, whose other bytes are ignored and 0 here. -/
def execUnitReadByAddress (tag : Byte) (address : Address) (s : State) : Host.Outcome State Fault Refusal :=
  .next (transmit (intakeRequest tag (.unitRead 1 0 0 address) s))

/-- DISCOVERY_READ (R127). -/
def execDiscoveryRead (tag option : Byte) (s : State) : Host.Outcome State Fault Refusal :=
  .next (transmit (intakeRequest tag (.discoveryRead option) s))

/-- PROFILE_WRITE (R155, R156). -/
def execProfileWrite (tag : Byte) (mask : BitVec 16) (values : List Byte) (s : State) : Host.Outcome State Fault Refusal :=
  .next (transmit (intakeRequest tag (.profileWrite mask values) s))

/-- PROFILE_READ (R154). -/
def execProfileRead (tag : Byte) (s : State) : Host.Outcome State Fault Refusal :=
  .next (transmit (intakeRequest tag (.profileRead) s))

/-- CLOCK_SET (R17). -/
def execClockSet (tag : Byte) (seconds : BitVec 32) (s : State) : Host.Outcome State Fault Refusal :=
  .next (transmit (intakeRequest tag (.clockSet seconds) s))

/-- STOP (R82, R83): LANE CONTROL with action STOP. -/
def execStop (tag mask : Byte) (s : State) : Host.Outcome State Fault Refusal :=
  .next (transmit (intakeRequest tag (.laneControl mask 1) s))

/-- PAUSE (R82, R84): LANE CONTROL with action PAUSE. -/
def execPause (tag mask : Byte) (s : State) : Host.Outcome State Fault Refusal :=
  .next (transmit (intakeRequest tag (.laneControl mask 2) s))

/-- RESUME (R82, R85): LANE CONTROL with action RESUME. -/
def execResume (tag mask : Byte) (s : State) : Host.Outcome State Fault Refusal :=
  .next (transmit (intakeRequest tag (.laneControl mask 3) s))

/-- STATUS (R157). -/
def execStatus (tag option : Byte) (s : State) : Host.Outcome State Fault Refusal :=
  .next (transmit (intakeRequest tag (.status option) s))

/-- MASK_WRITE (R158). -/
def execMaskWrite (tag : Byte) (mask : BitVec 16) (s : State) : Host.Outcome State Fault Refusal :=
  .next (transmit (intakeRequest tag (.maskWrite mask) s))

end Sys2Proof.Machine
end

