-- ==== Sys2Proof/Machine/UplinkEvents.lean ====
section
/-! DEFINITION. The meanings of the commands on the uplink's wires: RECEIVED_BYTE, INTER_BYTE_TIMEOUT,
TRANSMITTER_FREE, WAITING_SLOT_TAKEN, BAD_KIND. -/

namespace Sys2Proof.Machine

/-- RECEIVED_BYTE (R144, R146). -/
def execReceivedByte (byte : Byte) (framingFault : Bool) (s : State) : Host.Outcome State Fault Refusal :=
  .next (transmit (if framingFault then takeFault s else takeByte byte s))

/-- INTER_BYTE_TIMEOUT (R145): no event while no timer has expired (DESIGN CHOICE log 3). -/
def execInterByteTimeout (s : State) : Host.Outcome State Fault Refusal :=
  .next (transmit (if timeoutDue s then discardFrame s else s))

/-- TRANSMITTER_FREE (R151, R152): the last stop bit of the frame in progress has been sent; no event while bits of it
are still to come, or while no frame is in progress (DESIGN CHOICE log 3, DEDUCED log 23). -/
def execTransmitterFree (s : State) : Host.Outcome State Fault Refusal :=
  .next (transmit (if frameDone s then frameSent s else s))

/-- WAITING_SLOT_TAKEN (R148): the frame in the waiting slot is taken once the queue has room (DEDUCED log 7). -/
def execWaitingSlotTaken (s : State) : Host.Outcome State Fault Refusal :=
  .next (transmit (takeSlot s))

/-- BAD_KIND (R149): a good frame of an unknown kind arrives at intake. -/
def execBadKind (kind tag : Byte) (content : List Byte) (s : State) : Host.Outcome State Fault Refusal :=
  .next (transmit (intakeFrame { kind, tag, content } s))

end Sys2Proof.Machine
end

