-- ==== Sys2Proof/Machine/Dispatch.lean ====
section
/-! DEFINITION. exec: one arm for each command, each a direct call of its meaning. -/

namespace Sys2Proof.Machine

def exec (i : Instr) (s : State) : Host.Outcome State Fault Refusal :=
  match i with
  | .deviceReset fsel baud => Sys2Proof.Machine.execDeviceReset fsel baud s
  | .crossing ph => Sys2Proof.Machine.execCrossing ph s
  | .missTest ph => Sys2Proof.Machine.execMissTest ph s
  | .halfCycleBoundary ph mf reports => Sys2Proof.Machine.execHalfCycleBoundary ph mf reports s
  | .secondEvent => Sys2Proof.Machine.execSecondEvent s
  | .notBeforeTimePasses id unit => Sys2Proof.Machine.execNotBeforeTimePasses id unit s
  | .endReport which => Sys2Proof.Machine.execEndReport which s
  | .learningReport which => Sys2Proof.Machine.execLearningReport which s
  | .abortRequest lane => Sys2Proof.Machine.execAbortRequest lane s
  | .receivedByte byte fault => Sys2Proof.Machine.execReceivedByte byte fault s
  | .interByteTimeout => Sys2Proof.Machine.execInterByteTimeout s
  | .transmitterFree => Sys2Proof.Machine.execTransmitterFree s
  | .waitingSlotTaken => Sys2Proof.Machine.execWaitingSlotTaken s
  | .submit tag fields => Sys2Proof.Machine.execSubmit tag fields s
  | .cancel tag id => Sys2Proof.Machine.execCancel tag id s
  | .adjust tag id priority options => Sys2Proof.Machine.execAdjust tag id priority options s
  | .collect tag id cls start options => Sys2Proof.Machine.execCollect tag id cls start options s
  | .restart tag => Sys2Proof.Machine.execRestart tag s
  | .unitWrite tag fields => Sys2Proof.Machine.execUnitWrite tag fields s
  | .unitReadByIndex tag start count => Sys2Proof.Machine.execUnitReadByIndex tag start count s
  | .unitReadByAddress tag address => Sys2Proof.Machine.execUnitReadByAddress tag address s
  | .discoveryRead tag option => Sys2Proof.Machine.execDiscoveryRead tag option s
  | .profileWrite tag mask values => Sys2Proof.Machine.execProfileWrite tag mask values s
  | .profileRead tag => Sys2Proof.Machine.execProfileRead tag s
  | .clockSet tag seconds => Sys2Proof.Machine.execClockSet tag seconds s
  | .stop tag mask => Sys2Proof.Machine.execStop tag mask s
  | .pause tag mask => Sys2Proof.Machine.execPause tag mask s
  | .resume tag mask => Sys2Proof.Machine.execResume tag mask s
  | .status tag option => Sys2Proof.Machine.execStatus tag option s
  | .maskWrite tag mask => Sys2Proof.Machine.execMaskWrite tag mask s
  | .badKind kind tag content => Sys2Proof.Machine.execBadKind kind tag content s
  | .windowBoundary ph => Sys2Proof.Machine.execWindowBoundary ph s
  | .windowSample ph rxd cd lq => Sys2Proof.Machine.execWindowSample ph rxd cd lq s
  | .referenceTick => Sys2Proof.Machine.execReferenceTick s

end Sys2Proof.Machine
end

