-- ==== Sys2Proof/Safety.lean ====
section
/-! DEFINITION. What a sound state of the J24 is, in the terms the claims use: the ranges and properties the rules say
hold at all times, and what a record keeps for life. -/

namespace Sys2Proof.Machine

/-! ### Timing units, clock, profile, monitors -/

/-- The estimate, and the estimate proposed by a pending correction, lie in the absolute window (R9). -/
def periodOk (u : Ptu) : Prop :=
  15360 ≤ u.p ∧ u.p ≤ 24576 ∧ ∀ k, u.correction = some k → 15360 ≤ k.p ∧ k.p ≤ 24576

/-- The miss count is at most 50, and below 50 while the grid runs (R1, R10, R11). -/
def missesOk (u : Ptu) : Prop := u.missCount ≤ 50 ∧ (gridRuns u = true → u.missCount < 50)

/-- Every timing unit's estimate and miss count are in range. -/
def State.timingOk (s : State) : Prop := ∀ ph, periodOk (ptuOf s ph) ∧ missesOk (ptuOf s ph)

/-- The clock's counts are in range, and an unset clock does not count (R16). -/
def clockOk (c : Clock) : Prop :=
  c.seconds ≤ 4294967295 ∧ c.sub ≤ 1023999 ∧ (c.isSet = false → c.seconds = 0 ∧ c.sub = 0)

/-- Every setting lies in its range, and robust leave is below robust enter (R154). -/
def profileOk (p : Profile) : Prop :=
  (24 ≤ p.w ∧ p.w ≤ 96) ∧ (1 ≤ p.urgent ∧ p.urgent ≤ 64) ∧ p.coast ≤ 16 ∧ (1 ≤ p.silence ∧ p.silence ≤ 255) ∧
    (1 ≤ p.retry ∧ p.retry ≤ 63) ∧ (1 ≤ p.deferral ∧ p.deferral ≤ 255) ∧ (1 ≤ p.robustEnter ∧ p.robustEnter ≤ 255) ∧
    p.robustLeave < p.robustEnter ∧ p.boost ≤ 15

/-- No noise floor stands above 252 (R134). -/
def State.floorsOk (s : State) : Prop := ∀ ph, (lcmOf s ph).floor ≤ 252

/-! ### Unit table and discovery list -/

/-- No two entries hold one address (R23). -/
def addressesDistinct (units : List (Nat × Entry)) : Prop :=
  ∀ i j a, (entryAt units i).address = some a → (entryAt units j).address = some a → i = j

/-- Every REDIRECTED entry reaches a live unit in at most 4 steps (R23). -/
def chainsReach (units : List (Nat × Entry)) : Prop :=
  ∀ i, (entryAt units i).state = .redirected → (followChain units 4 i).isSome = true

/-- Every route has at most 3 hops and never names its own entry (R23). -/
def routesShort (units : List (Nat × Entry)) : Prop :=
  ∀ i, (entryAt units i).route.length ≤ 3 ∧ i ∉ (entryAt units i).route

/-- An EMPTY entry has every field at its reset value, and any other entry holds an address (R21, R22). -/
def emptiesClean (units : List (Nat × Entry)) : Prop :=
  ∀ i, ((entryAt units i).state = .empty → entryAt units i = emptyEntry) ∧
    ((entryAt units i).state ≠ .empty → (entryAt units i).address ≠ none)

/-- The discovery list holds at most 32 addresses, none twice and none of a non-EMPTY entry (R126). -/
def discoveryOk (s : State) : Prop :=
  s.discovery.length ≤ 32 ∧ s.discovery.Nodup ∧ ∀ a ∈ s.discovery, ∀ i, (entryAt s.units i).address ≠ some a

/-- The unit table and the discovery list are as R21 to R23 and R126 say they are at all times. -/
def State.tableOk (s : State) : Prop :=
  tableWf s.units = true ∧ addressesDistinct s.units ∧ chainsReach s.units ∧ routesShort s.units ∧
    emptiesClean s.units ∧ discoveryOk s

/-! ### Dispatch queue -/

/-- At most 64 records, no two with one identifier or one line tag; tags and the counter in range; serial numbers
apart and used up in order (R40, R45, DESIGN CHOICE log 18). -/
def State.queueOk (s : State) : Prop :=
  s.records.length ≤ 64 ∧ (s.records.map Record.id).Nodup ∧ (s.records.map Record.tag).Nodup ∧
    (s.records.map Record.serial).Nodup ∧ (∀ r ∈ s.records, r.serial < s.nextSerial) ∧
    (∀ r ∈ s.records, 1 ≤ r.tag ∧ r.tag ≤ 65535) ∧ 1 ≤ s.tagCounter ∧ s.tagCounter ≤ 65535

/-- The attempts of a target stay within the budget, and below it while the target is PENDING (R59). -/
def targetWithin (budget : Nat) (t : Target) : Prop :=
  t.attempts ≤ budget ∧ (t.outcome = .pending → t.attempts < budget)

/-- Every target of the record stays within its budget (R59). -/
def withinBudget (r : Record) : Prop := ∀ t ∈ r.targets, targetWithin r.budget t

/-- A DISCOVER record has no targets (R38); only an ACTIVE or CLOSING record has exchanges in flight, and a DONE
record has no PENDING target (R50, R57, R60). -/
def settled (r : Record) : Prop :=
  (isDiscover r = true → r.targets = []) ∧
    (r.state = .waiting ∨ r.state = .ready → r.flights = 0) ∧
    (isDone r = true → r.flights = 0 ∧ ∀ t ∈ r.targets, t.outcome ≠ .pending)

/-- What does not change of a target while its record is in the queue: its unit, and its outcome once that has left
PENDING (R41, R42). -/
def targetContinues (t t' : Target) : Prop := t'.unit = t.unit ∧ (t.outcome ≠ .pending → t'.outcome = t.outcome)

/-- What does not change of a record while it is in the queue (R41, R42). -/
def recordContinues (r r' : Record) : Prop :=
  r'.serial = r.serial ∧ r'.id = r.id ∧ r'.tag = r.tag ∧ r'.kind = r.kind ∧ r'.target = r.target ∧
    r'.budget = r.budget ∧ r'.rounds = r.rounds ∧ r'.windows = r.windows ∧ r'.release = r.release ∧
    r'.deadline = r.deadline ∧ r'.payload = r.payload ∧ List.Forall₂ targetContinues r.targets r'.targets

/-! ### Lanes -/

/-- A lane holds an exchange just while ARMED, SENDING or LISTENING, a reservation just while RESERVED, and stands before
the first half-cycle of its plan just while ARMED (R67, R90); a STOP waits only on a SENDING or LISTENING lane, and a PAUSE
only on an occupied one (R66, R83, R84). -/
def laneOk (l : Lane) : Prop :=
  (isOccupied l.state = true ↔ l.exchange ≠ none) ∧ (l.state = .reserved ↔ l.reserved ≠ none) ∧
    (∀ x, l.exchange = some x → (l.state = .armed ↔ x.position = 0)) ∧
    (l.stopDue = true → l.state = .sending ∨ l.state = .listening) ∧ (l.pauseDue = true → isOccupied l.state = true)

/-- Every lane's state agrees with what it holds, and the numbers of the exchanges in flight have been used up
(DESIGN CHOICE log 18). -/
def State.lanesOk (s : State) : Prop :=
  ∀ ph, laneOk (laneOf s ph) ∧ ∀ x, (laneOf s ph).exchange = some x → x.exch < s.nextExchange

/-! ### Uplink and events -/

/-- A response being sent is the oldest of the queue (R142, R152). -/
def sendingOldest (u : Uli) : Prop := ∀ f n, u.tx = .response f n → u.responses.head? = some f

/-- At most four responses, the waiting slot used only while the queue is full, and a NOTICE owed only while some flag
is set and unmasked (R142, R148, R162). -/
def State.uplinkOk (s : State) : Prop :=
  s.uli.responses.length ≤ 4 ∧ (s.uli.slot ≠ none → s.uli.responses.length = 4) ∧ sendingOldest s.uli ∧
    (s.uli.noticeDue = true → reportable s ≠ 0)

/-- Every flag set before is set after. -/
def flagsKept (before after : Events) : Prop := before.flags &&& after.flags = before.flags

end Sys2Proof.Machine
end

