-- ==== Sys2Proof/Certificates/Slice0/Obligations.lean ====
section
/-! DEFINITION. The statements for the provers, with the few notions they share: what a command leaves alone of the
uplink, what a response adds to it, and the fields of SUBMIT and UNIT WRITE as the rules read them. -/

open Sys2Proof Sys2Proof.Machine

namespace Sys2Proof.Claims

/-! ### What a command leaves alone -/

/-- Of the uplink only the transmitter's choice has been made (R151): a frame may have started, and a NOTICE that starts
is owed no more. A busy transmitter keeps everything as it was. -/
def uplinkKept (u u' : Uli) : Prop :=
  u' = { u with tx := u'.tx, noticeDue := u'.noticeDue } ∧ (u'.noticeDue = true → u.noticeDue = true) ∧
    (u.tx ≠ .free → u' = u)

/-- The same where flags may have been raised (R160): a busy transmitter keeps its frame, and notice-due may be set. -/
def uplinkFlagged (u u' : Uli) : Prop :=
  u' = { u with tx := u'.tx, noticeDue := u'.noticeDue } ∧ (u.tx ≠ .free → u'.tx = u.tx)

/-- A response has entered the newest end of the response queue (R150), and beside it only the transmitter and notice-due
can have changed. -/
def responseQueued (u u' : Uli) (f : Frame) : Prop :=
  u' = { u with responses := u.responses ++ [f], tx := u'.tx, noticeDue := u'.noticeDue } ∧
    (u.tx ≠ .free → u'.tx = u.tx)

/-- A command that changes the rest of the state from `s` to `r`, and of the uplink at most what the transmitter starts. -/
def becomes (c : Instr) (s r : State) : Prop :=
  ∃ u, exec c s = .next { r with uli := u } ∧ uplinkKept s.uli u

/-- A request that changes the rest of the state from `s` to `r` and is answered with a kind, its tag and a content. -/
def answers (c : Instr) (s : State) (kind tag : Byte) (content : List Byte) (r : State) : Prop :=
  ∃ u d, exec c s = .next { r with uli := u, draws := d } ∧ responseQueued s.uli u { kind, tag, content }

/-- What the lanes' choosing again, their preemption tests and the queue's evaluations leave alone (R55, R69, R80): the
grids, the clock, the settings, the table, the monitors, the mask, what is in flight and what the queue counts. -/
def outsideKept (s t : State) : Prop :=
  t.now = s.now ∧ t.ptu = s.ptu ∧ t.clock = s.clock ∧ t.profile = s.profile ∧ t.units = s.units ∧
    t.discovery = s.discovery ∧ t.tagCounter = s.tagCounter ∧ t.inFlight = s.inFlight ∧
    t.nextExchange = s.nextExchange ∧ t.abortRequests = s.abortRequests ∧ t.lcm = s.lcm ∧
    t.events.mask = s.events.mask ∧ flagsKept s.events t.events ∧ t.pending = s.pending

/-- The record of an identifier is changed as `p` says, and every other record keeps what it keeps for life (R41). -/
def recordChanges (id : BitVec 32) (p : Record → Record → Prop) (s t : State) : Prop :=
  List.Forall₂ (fun r r' => (r.id = id → p r r') ∧ (r.id ≠ id → recordContinues r r')) s.records t.records

/-! ### Grids -/

/-- The grid of a phase runs (R12). -/
def running (u : Ptu) : Prop := u.timing = .locked ∨ u.timing = .coasting

/-- A half-cycle boundary of a phase has come: the half-cycle in progress is over, all its windows have been sampled and
the miss test of its cycle has been taken. The command may come later than the boundary's tick, which is the model's own
form (log 3). -/
def boundaryReady (s : State) (ph : Phase) (h : HalfCycle) (cyc : Cycle) : Prop :=
  running (ptuOf s ph) ∧ (ptuOf s ph).half = some h ∧ (ptuOf s ph).cycle = some cyc ∧ cyc.missTested = true ∧
    h.samples.length = h.w ∧ h.start + h.length ≤ s.now

/-- The data windows of a half-cycle, indices 1 to D, that had carrier at their midpoint (R131). -/
def busy (h : HalfCycle) : Nat := (((h.samples.drop 1).take (h.w - 2)).filter Sample.cd).length

/-- An estimate moved one eighth of the way toward an interval, rounded toward zero (R4, R8). -/
def filtered (p m : Nat) : Nat := ((p : Int) + Int.tdiv ((m : Int) - p) 8).toNat

/-! ### SUBMIT (R43, R172, R173) -/

/-- The fields of a SUBMIT that checks 1 and 2 of R43 refuse. -/
def submitBad (f : SubmitFields) : Prop :=
  let code := (f.target.extractLsb' 24 8).toNat
  let param := (f.target.extractLsb' 0 8).toNat
  1 < f.kind.toNat ∨ 3 < f.targetType.toNat ∨ (f.targetType.toNat = 1 ∧ param = 0) ∨
    (f.targetType.toNat = 3 ∧ f.kind.toNat = 0) ∨
    (f.targetType.toNat = 3 ∧ (code = 0 ∨ 6 < code ∨ (code = 2 ∧ param = 0) ∨ (code = 5 ∧ 15 < param))) ∨
    (f.kind.toNat = 0 ∧ (f.payload.length = 0 ∨ 16 < f.payload.length)) ∨
    (f.kind.toNat = 1 ∧ f.payload.length ≠ 0) ∨ f.id = 0

/-- The target spec that a SUBMIT's type and target field give. -/
def submitTarget (f : SubmitFields) : TargetSpec :=
  let code := (f.target.extractLsb' 24 8).toNat
  let param := f.target.extractLsb' 0 8
  if f.targetType.toNat = 0 then .unit f.target
  else if f.targetType.toNat = 1 then .group param
  else if f.targetType.toNat = 2 then .all
  else if code = 1 then .cond .allActive
  else if code = 2 then .cond (.group param)
  else if code = 3 then .cond .phaseUnknown
  else if code = 4 then .cond .silent
  else if code = 5 then .cond (.qualityBelow param.toNat)
  else .cond .discover

/-- The line tag after a tag, with 65,535 followed by 1 (R45). -/
def tagAfter (t : Nat) : Nat := if t = 65535 then 1 else t + 1

/-! ### UNIT WRITE (R25 to R31, R172) -/

/-- The phase of a phase code; 3 is UNKNOWN (R172). -/
def codedPhase (code : Byte) : Option Phase :=
  if code = 0 then some .A else if code = 1 then some .B else if code = 2 then some .C else none

/-- The state written is ACTIVE or SILENT. -/
def writesLive (f : UnitWriteFields) : Prop := f.state = 1 ∨ f.state = 2

/-- The field ranges of R25 hold. -/
def writeFieldsGood (f : UnitWriteFields) : Prop :=
  f.index.toNat ≤ 1023 ∧ f.route.length ≤ 3 ∧ f.groups.length ≤ 4 ∧ f.state.toNat ≤ 3 ∧
    (f.state ≠ 0 → f.address ≠ 0 ∧ f.address ≠ 0xFFFFFFFF) ∧
    (writesLive f → f.phase.toNat ≤ 3 ∧ (∀ r ∈ f.route, r.toNat ≤ 1023) ∧ f.route.Nodup ∧ f.index ∉ f.route ∧
      (∀ g ∈ f.groups, g ≠ 0) ∧ f.groups.Nodup) ∧
    (f.state = 3 → f.successor.toNat ≤ 1023)

/-- No other entry holds the address written (R26). -/
def writeAddressFree (s : State) (f : UnitWriteFields) : Prop :=
  f.state = 0 ∨ ∀ i, i ≠ f.index.toNat → (unitAt s i).address ≠ some f.address

/-- The route written can be served (R27). -/
def writeRouteGood (s : State) (f : UnitWriteFields) : Prop :=
  writesLive f → f.route ≠ [] → codedPhase f.phase ≠ none ∧
    ∀ r ∈ f.route, isLive (unitAt s r.toNat) = true ∧ (unitAt s r.toNat).phase = codedPhase f.phase

/-- The entry as a write stores it over an old one (R30, R31). -/
def entryWritten (old : Entry) (f : UnitWriteFields) : Entry :=
  let kept := decide (old.state ≠ .empty ∧ old.address = some f.address)
  if f.state = 0 then emptyEntry
  else if f.state = 3 then
    { state := .redirected, address := some f.address, phase := none, route := [], groups := []
      successor := some f.successor.toNat
      quality := if kept then old.quality else none
      silence := if kept then old.silence else 0
      conflict := if kept && decide (old.phase = none) then old.conflict else 0 }
  else
    { state := if f.state = 1 then .active else .silent
      address := some f.address, phase := codedPhase f.phase, route := f.route.map BitVec.toNat, groups := f.groups
      successor := none
      quality := if kept then old.quality else none
      silence := if kept && decide (f.state = 2) then old.silence else 0
      conflict := if kept && decide (old.phase = codedPhase f.phase) then old.conflict else 0 }

/-- The entry is a PENDING target of a record, or a target of an exchange in flight (R29). -/
def entryUsed (s : State) (i : Nat) : Prop :=
  (∃ r ∈ s.records, ∃ t ∈ r.targets, t.unit = i ∧ t.outcome = .pending) ∨ i ∈ s.inFlight ∨
    ∃ ph x, (laneOf s ph).exchange = some x ∧ ∃ t ∈ x.targets, t.1 = i

/-- The write keeps an entry in use where it is (R29). -/
def writeKeeps (s : State) (f : UnitWriteFields) : Prop :=
  entryUsed s f.index.toNat → writesLive f ∧ (unitAt s f.index.toNat).address = some f.address

/-- Every redirection chain of the table as the write would leave it reaches a live unit in at most 4 steps (R28). -/
def writeChainsGood (s : State) (f : UnitWriteFields) : Prop :=
  chainsReach (putEntry s.units f.index.toNat (entryWritten (unitAt s f.index.toNat) f))

/-! ### Profile (R154, R173) -/

/-- The setting at a place of the presence mask. -/
def settingAt (p : Profile) (k : Nat) : Nat :=
  [p.w, p.urgent, p.coast, p.silence, p.retry, p.deferral, p.robustEnter, p.robustLeave, p.boost].getD k 0

/-- The range of the setting at a place of the presence mask. -/
def settingRange (k : Nat) : Nat × Nat :=
  [(24, 96), (1, 64), (0, 16), (1, 255), (1, 63), (1, 255), (1, 255), (0, 254), (0, 15)].getD k (0, 0)

/-- The value that a PROFILE WRITE gives the setting at place `k`, if its mask names it: the values follow the set bits of
the mask in order. -/
def valueNamed (mask : BitVec 16) (values : List Byte) (k : Nat) : Option Nat :=
  if mask.getLsbD k then (values[((List.range k).filter mask.getLsbD).length]?).map BitVec.toNat else none

/-- A setting as a write leaves it but for R155 step 4: the value named, clamped into its range, or the one stored. -/
def settingWritten (p : Profile) (mask : BitVec 16) (values : List Byte) (k : Nat) : Nat :=
  match valueNamed mask values k with
  | some v => max (settingRange k).1 (min (settingRange k).2 v)
  | none => settingAt p k

/-! ### Bytes on the uplink -/

/-- Bytes received one after the other, none with a framing fault. -/
def receive : List Byte → State → Host.Outcome State Fault Refusal
  | [], s => .next s
  | b :: bs, s =>
    match exec (.receivedByte b false) s with
    | .next t => receive bs t
    | .fault f => .fault f
    | .refused r => .refused r

/-! ### Release and expiry (R48 to R50) -/

/-- The record's deadline has been reached at second `now` (R49). -/
def late (now : Nat) (r : Record) : Prop := r.deadline ≠ 0 ∧ r.deadline ≤ now

/-- The cause that a PENDING target takes at its record's expiry (R50): NO_LANE where the lane of its phase, or for an
UNKNOWN phase every lane, is absent from the lanes seen, and DEADLINE otherwise. -/
def causeAtExpiry (s : State) (r : Record) (g : Target) : Cause :=
  match (unitAt s g.unit).phase with
  | some ph => if atPhase r.lanesSeen ph = true then .deadline else .noLane
  | none => if r.lanesSeen = ⟨false, false, false⟩ then .noLane else .deadline

/-- A clock's second taken by the queue for one record (R48 to R50), at `now` seconds. -/
def clockTaken (s : State) (now : Nat) (r r' : Record) : Prop :=
  (late now r →
    (r.state = .waiting ∨ r.state = .ready → r'.state = .done .expired ∧
      List.Forall₂ (fun g g' => g'.outcome = if g.outcome = .pending then .unreached (causeAtExpiry s r g) else g.outcome)
        r.targets r'.targets) ∧
    (r.state = .active → r'.state = .closing .expiry)) ∧
  (¬late now r →
    (r.state = .waiting → r.release ≤ now → r'.state = .ready ∨ r'.state = .done .complete) ∧
    (r.state = .waiting → now < r.release → r'.state = .waiting)) ∧
  (∀ c, r.state = .closing c → r'.state = .closing c) ∧ (∀ o, r.state = .done o → r'.state = .done o) ∧
  recordContinues r r'

/-- The aborts that the queue asks of the lanes for the records it closes at second `now` (R49), oldest record and lane A
first: that order, and the standing of the requests in transit, are the model's own (log 8). -/
def expiryAborts (s : State) (now : Nat) : List AbortRequest :=
  (s.records.filter fun r => r.state == .active && r.deadline != 0 && decide (r.deadline ≤ now)).flatMap fun r =>
    allPhases.filterMap fun ph =>
      match (laneOf s ph).exchange with
      | some x => if x.serial = r.serial then some { lane := ph, serial := r.serial, cause := .expiry } else none
      | none => none

/-- All that the queue does at second `now` (R48 to R50): its records released and expired, RECORD_DONE where one of them
enters DONE by expiry, and the aborts asked. -/
def secondTaken (s : State) (now : Nat) (t : State) : Prop :=
  List.Forall₂ (clockTaken s now) s.records t.records ∧
    ((∃ r ∈ s.records, late now r ∧ (r.state = .waiting ∨ r.state = .ready)) → flagSet t .recordDone = true) ∧
    t.abortRequests = s.abortRequests ++ expiryAborts s now

/-! ### The end of an exchange (5.7) -/

/-- No other lane runs a part of the exchange (R111). -/
def noOtherPart (s : State) (ph : Phase) (x : Exchange) : Prop :=
  ∀ q y, q ≠ ph → (laneOf s q).exchange = some y → y.exch ≠ x.exch

/-- The parts of an exchange that have ended, the last of them with this one (R111). -/
def endedWith (s : State) (part : EndedPart) : List EndedPart :=
  s.endedParts.filter (fun p => p.exchange.exch == part.exchange.exch) ++ [part]

/-- Lane A before lane B before lane C. -/
def laneRank : Phase → Nat
  | .A => 0
  | .B => 1
  | .C => 2

/-- An answer that some part of an exchange read. -/
def heardBy (parts : List EndedPart) (lane : Phase) (d : Decode) : Prop :=
  ∃ p ∈ parts, p.lane = lane ∧ d ∈ p.exchange.decodes

/-- The answer kept for its address (R107): none read from that address is of higher quality, nor of equal quality on an
earlier lane. -/
def keptFor (parts : List EndedPart) (lane : Phase) (d : Decode) : Prop :=
  heardBy parts lane d ∧ ∀ lane' d', heardBy parts lane' d' → d'.address = d.address →
    d'.quality < d.quality ∨ d'.quality = d.quality ∧ laneRank lane ≤ laneRank lane'

end Sys2Proof.Claims

open Sys2Proof.Claims

/-! ### The machine as a whole -/

/-- One step carries out the command at the front of the queue on the rest of it. With no command waiting the block
idles, which is the model's own choice (log 5). -/
def Obligations.StepRunsFrontCommand : Prop :=
  (∀ (s : State) (c : Instr) (rest : List Instr), s.pending = c :: rest →
    step s = exec c { s with pending := rest }) ∧
  ∀ s : State, s.pending = [] → step s = .next s

/-- No command stops the block. None touches the commands that wait, which are the model's own, at a DEVICE_RESET by the
model's own choice (log 26). Flags are cleared by STATUS and by a device reset alone (R159, R160): every other command
that cannot take a STATUS leaves each set flag set, and only a MASK WRITE or a device reset changes the mask. The commands
left out of the clause are those two and the three that can take a frame from the wire or the waiting slot; a BAD_KIND
command must name an unknown kind. -/
def Obligations.FlagsClearedByStatusAlone : Prop :=
  ∀ (c : Instr) (s : State), ∃ t, exec c s = .next t ∧ t.pending = s.pending ∧
    (c.wellFormed = true → (∀ fsel baud, c ≠ .deviceReset fsel baud) → (∀ tag o, c ≠ .status tag o) → (∀ b f, c ≠ .receivedByte b f) →
      c ≠ .transmitterFree → c ≠ .waitingSlotTaken →
      flagsKept s.events t.events ∧ ((∀ tag m, c ≠ .maskWrite tag m) → t.events.mask = s.events.mask))

/-- DEVICE RESET puts every block at the reset values that the rules give; what waits to be commanded is the model's own
and stays (log 26). That the boundary of each monitor's last verdict is absent is the model's own choice, and TXD's level
after reset is open (log 1). -/
def Obligations.DeviceResetRestoresResetValues : Prop :=
  ∀ (fsel : Bool) (baud : BitVec 2) (s : State), ∃ t, exec (.deviceReset fsel baud) s = .next t ∧
    (∀ ph, ptuOf t ph =
      { timing := .locking, p := if fsel = true then 17067 else 20480, correction := none, lockCount := 0,
        missCount := 0, anchor := none, cycle := none, half := none }) ∧
    t.clock = { isSet := false, seconds := 0, sub := 0 } ∧
    t.profile =
      { w := 48, urgent := 56, coast := 8, silence := 8, retry := 2, deferral := 50, robustEnter := 96,
        robustLeave := 48, boost := 4 } ∧
    (∀ i, unitAt t i =
      { state := .empty, address := none, phase := none, route := [], groups := [], successor := none, quality := none,
        silence := 0, conflict := 0 }) ∧
    t.discovery = [] ∧ t.records = [] ∧ t.tagCounter = 1 ∧ t.inFlight = [] ∧
    (∀ ph, ∃ txd, laneOf t ph =
      { state := .idle, winner := none, deferral := 0, reserved := none, exchange := none, pauseDue := false,
        stopDue := false, settling := 0, txd, txen := false, drv := false }) ∧
    (∀ ph, lcmOf t ph =
      { floor := 0, mode := .normal, latch := false, verdict := .none, verdictAt := none, start := none }) ∧
    t.uli =
      { rx := .hunting, partialFrame := none, slot := none, responses := [], tx := .free, noticeDue := true, baud } ∧
    (∀ f, flagSet t f = (f == .started) ∧ unmasked t f = (f == .started)) ∧
    t.endReports = [] ∧ t.learningReports = [] ∧ t.abortRequests = [] ∧ t.pending = s.pending

/-! ### Invariants that every step keeps -/

/-- The state after reset meets every invariant stated below. -/
def Obligations.ResetMeetsEveryInvariant : Prop :=
  State.reset.timingOk ∧ clockOk State.reset.clock ∧ profileOk State.reset.profile ∧ State.reset.floorsOk ∧
    State.reset.tableOk ∧ State.reset.queueOk ∧ (∀ r ∈ State.reset.records, withinBudget r ∧ settled r) ∧
    State.reset.lanesOk ∧ State.reset.uplinkOk

/-- Every step keeps every period estimate within 15,360 to 24,576 ticks (R9) and every miss count within its range. -/
def Obligations.PeriodEstimatesStayInWindow : Prop :=
  ∀ s t : State, s.timingOk → step s = .next t → t.timingOk

/-- Every step keeps the clock, the nine settings and the noise floors within their ranges, robust leave below robust enter
and no floor above 252 (R16, R154, R134). -/
def Obligations.ClockProfileAndFloorsStayInRange : Prop :=
  ∀ s t : State, clockOk s.clock → profileOk s.profile → s.floorsOk → step s = .next t →
    clockOk t.clock ∧ profileOk t.profile ∧ t.floorsOk

/-- Every step keeps the properties of the unit table and of the discovery list that hold at all times (R23, R126). -/
def Obligations.TablePropertiesHoldAtAllTimes : Prop :=
  ∀ s t : State, s.tableOk → step s = .next t → t.tableOk

/-- Every step keeps the queue within 64 records, with identifiers, line tags and the model's own serial numbers
(log 18) apart. -/
def Obligations.QueueIdentifiersStayApart : Prop :=
  ∀ s t : State, s.queueOk → step s = .next t → t.queueOk

/-- Every step keeps every target's attempts within its record's budget, and below it while the target is PENDING. -/
def Obligations.AttemptsNeverExceedBudget : Prop :=
  ∀ s t : State, (∀ r ∈ s.records, withinBudget r) → step s = .next t → ∀ r ∈ t.records, withinBudget r

/-- Every step leaves a DONE record with no PENDING target and no exchange in flight (R50), and a WAITING or READY record
with none in flight. -/
def Obligations.DoneRecordsAreSettled : Prop :=
  ∀ s t : State, s.queueOk → (∀ r ∈ s.records, settled r) → step s = .next t → ∀ r ∈ t.records, settled r

/-- Every step keeps every lane's state in agreement with the exchange and the reservation it holds and with the STOP or PAUSE
that waits for that exchange to end (R66, R67, R73, R83, R84). -/
def Obligations.LaneStatesMatchWhatTheyHold : Prop :=
  ∀ s t : State, s.lanesOk → step s = .next t → t.lanesOk

/-- Every step keeps the response queue at most four long, the waiting slot empty unless it is full, the response being
sent the oldest, and a NOTICE owed only while some flag is set and unmasked (R142, R148, R152, R162). -/
def Obligations.NoticeOwedOnlyForReportableFlag : Prop :=
  ∀ s t : State, s.uplinkOk → step s = .next t → t.uplinkOk

/-- A record that is in the queue after a step and was admitted before it, as the model's own serial numbers tell (log 18),
is one of the records before it, with its identifier, tag, kind, target, budget, rounds, windows, times, payload and target
set as they were, and every outcome that had left PENDING as it was (R41, R42). -/
def Obligations.RecordsKeepTheirTermsForLife : Prop :=
  ∀ s t : State, s.queueOk → step s = .next t →
    ∀ r' ∈ t.records, r'.serial < s.nextSerial → ∃ r ∈ s.records, recordContinues r r'

/-! ### Phase timing units -/

/-- A crossing in LOCKING that completes no run (R3, R4): it becomes the anchor, is ignored, or moves the estimate and the
lock count by R4's table. -/
def Obligations.LockingCrossingMeasured : Prop :=
  ∀ (ph : Phase) (s : State), (ptuOf s ph).timing = .locking →
    let u := ptuOf s ph
    let here : Option Anchor := some { time := s.now, boundary := none }
    let after := fun v : Ptu => becomes (.crossing ph) s { s with ptu := putPhase s.ptu ph v }
    (u.anchor = none → after { u with anchor := here }) ∧
    ∀ (an : Anchor) (m : Nat), u.anchor = some an → s.now = an.time + m →
      (m < 15360 → after u) ∧
      (24576 < m → after { u with anchor := here, lockCount := 0 }) ∧
      (15360 ≤ m → m ≤ 24576 →
        (u.lockCount = 0 → after { u with p := m, lockCount := 1, anchor := here }) ∧
        (1 ≤ u.lockCount → u.lockCount ≤ 6 → ((m : Int) - u.p).natAbs ≤ u.p / 64 →
          after { u with p := filtered u.p m, lockCount := u.lockCount + 1, anchor := here }) ∧
        (1 ≤ u.lockCount → u.lockCount ≤ 7 → u.p / 64 < ((m : Int) - u.p).natAbs →
          after { u with p := m, lockCount := 0, anchor := here }))

/-- The eighth consistent interval locks the phase (R4, R5): PHASE_LOCKED is raised and the first cycle starts at the
crossing, with the period just produced and a positive half-cycle. -/
def Obligations.EighthIntervalLocksPhase : Prop :=
  ∀ (ph : Phase) (s : State) (an : Anchor) (m : Nat), (ptuOf s ph).timing = .locking →
    (ptuOf s ph).anchor = some an → s.now = an.time + m → 15360 ≤ m → m ≤ 24576 → (ptuOf s ph).lockCount = 7 →
    ((m : Int) - (ptuOf s ph).p).natAbs ≤ (ptuOf s ph).p / 64 →
    let p := filtered (ptuOf s ph).p m
    ∃ t, exec (.crossing ph) s = .next t ∧
      ptuOf t ph =
        { timing := .locked, p, correction := none, lockCount := 8, missCount := 0
          anchor := some { time := s.now, boundary := some s.now }
          cycle := some { start := s.now, length := p, previous := none, missTested := false }
          half := some { positive := true, start := s.now, length := p / 2, w := s.profile.w, acc := 0, window := none,
                         samples := [] } } ∧
      (∀ q, q ≠ ph → ptuOf t q = ptuOf s q ∧ lcmOf t q = lcmOf s q) ∧ flagSet t .phaseLocked = true ∧
      (∃ gap, lcmOf t ph = { lcmOf s ph with start := some { state := (laneOf t ph).state, gap } }) ∧
      t.now = s.now ∧ t.clock = s.clock ∧ t.profile = s.profile ∧ t.units = s.units ∧ t.discovery = s.discovery ∧
      t.inFlight = s.inFlight ∧ uplinkFlagged s.uli t.uli

/-- A crossing while the grid runs (R7, R8): taken for the nearest boundary if that lies within the tolerance, has no
crossing yet and has not been tested; otherwise ignored as a glitch. Where both boundaries are equally near, nothing is
said. -/
def Obligations.RunningCrossingCorrectsGrid : Prop :=
  ∀ (ph : Phase) (s : State) (cyc : Cycle) (b : Nat), running (ptuOf s ph) → (ptuOf s ph).cycle = some cyc →
    let u := ptuOf s ph
    let toStart := ((s.now : Int) - cyc.start).natAbs
    let toEnd := ((s.now : Int) - (cyc.start + cyc.length : Nat)).natAbs
    (b = cyc.start ∧ toStart < toEnd ∨ b = cyc.start + cyc.length ∧ toEnd < toStart) →
    let accepted := ((s.now : Int) - b).natAbs ≤ u.p / 64 ∧ (∀ an, u.anchor = some an → an.boundary ≠ some b) ∧
      ¬(b = cyc.start ∧ cyc.missTested = true)
    let newest := match u.correction with
      | some k => k.p
      | none => u.p
    let before := if b = cyc.start then cyc.previous else some cyc.start
    let measured := fun an : Anchor => u.anchor = some an ∧ (∃ x, before = some x ∧ an.boundary = some x) ∧
      15360 ≤ s.now - an.time ∧ s.now - an.time ≤ 24576
    (¬accepted → becomes (.crossing ph) s s) ∧
    (accepted → ∃ t p', exec (.crossing ph) s = .next t ∧
      (∀ an, measured an → p' = filtered newest (s.now - an.time)) ∧ ((∀ an, ¬measured an) → p' = newest) ∧
      t.ptu = putPhase s.ptu ph
        { u with
          timing := .locked, correction := some { c := (s.now : Int) - b, p := p' }
          anchor := some { time := s.now, boundary := some b }, missCount := 0 } ∧
      outsideKept { s with ptu := t.ptu } t ∧
      (u.timing = .locked → t = { s with ptu := t.ptu, uli := t.uli } ∧ uplinkKept s.uli t.uli))

/-- A crossing in LOST ends the loss (R2): LOCKING with the crossing as anchor, the counts and the grid cleared, P kept; a
lane that is not STOPPED is seen again by every record that is not DONE (R50). -/
def Obligations.CrossingEndsLoss : Prop :=
  ∀ (ph : Phase) (s : State), (ptuOf s ph).timing = .lost →
    becomes (.crossing ph) s
      { s with
        ptu := putPhase s.ptu ph
          { timing := .locking, p := (ptuOf s ph).p, correction := none, lockCount := 0, missCount := 0
            anchor := some { time := s.now, boundary := none }, cycle := none, half := none }
        records :=
          if (laneOf s ph).state = .stopped then s.records
          else s.records.map fun r => if isDone r = true then r else { r with lanesSeen := putPhase r.lanesSeen ph true } }

/-- The miss test below fifty misses (R10): no effect on the counts where a crossing has been accepted for the boundary;
otherwise one more miss and COASTING, with GRID_COAST raised from LOCKED alone. -/
def Obligations.MissTestCountsMisses : Prop :=
  ∀ (ph : Phase) (s : State) (cyc : Cycle), running (ptuOf s ph) → (ptuOf s ph).cycle = some cyc →
    cyc.missTested = false → cyc.start + (ptuOf s ph).p / 64 ≤ s.now →
    let u := ptuOf s ph
    let tested : Option Cycle := some { cyc with missTested := true }
    let served := ∃ an, u.anchor = some an ∧ an.boundary = some cyc.start
    (served → becomes (.missTest ph) s { s with ptu := putPhase s.ptu ph { u with cycle := tested } }) ∧
    (¬served → u.missCount + 1 < 50 → ∃ t, exec (.missTest ph) s = .next t ∧
      t.ptu = putPhase s.ptu ph { u with cycle := tested, timing := .coasting, missCount := u.missCount + 1 } ∧
      (u.timing = .locked → flagSet t .gridCoast = true) ∧
      (u.timing = .coasting → flagSet t .gridCoast = flagSet s .gridCoast) ∧
      outsideKept { s with ptu := t.ptu } t ∧ uplinkFlagged s.uli t.uli)

/-- The fiftieth miss loses the phase (R11, R86, R110, R139): PHASE_LOST, the grid stops with P and the anchor kept, the
monitor keeps its floor, mode and latch and forgets its verdict and start state, the lane abandons its part at once with
its pins low and goes where a STOP or PAUSE due sends it, both cleared, and its reservation and deferrals are cleared.
The last part of an exchange hands over its report with the answers read before the loss, for a per-lane exchange with
the cause LOST, at the moment of the miss test (log 37). That the boundary held with the verdict goes with it is the
model's choice (log 44). -/
def Obligations.FiftiethMissLosesPhase : Prop :=
  ∀ (ph : Phase) (s : State) (cyc : Cycle), s.lanesOk → running (ptuOf s ph) → (ptuOf s ph).cycle = some cyc →
    cyc.missTested = false → cyc.start + (ptuOf s ph).p / 64 ≤ s.now → (ptuOf s ph).missCount = 49 →
    (∀ an, (ptuOf s ph).anchor = some an → an.boundary ≠ some cyc.start) →
    let l := laneOf s ph
    ∃ t, exec (.missTest ph) s = .next t ∧ flagSet t .phaseLost = true ∧
      t.ptu = putPhase s.ptu ph
        { ptuOf s ph with timing := .lost, missCount := 50, cycle := none, half := none, correction := none } ∧
      t.lcm = putPhase s.lcm ph { lcmOf s ph with verdict := .none, verdictAt := none, start := none } ∧
      (laneOf t ph).exchange = none ∧ (laneOf t ph).reserved = none ∧ (laneOf t ph).deferral = 0 ∧
      (l.exchange ≠ none → (laneOf t ph).txen = false ∧ (laneOf t ph).drv = false ∧
        (laneOf t ph).state = (if l.stopDue then .stopped else if l.pauseDue then .paused else .idle) ∧
        (laneOf t ph).stopDue = false ∧ (laneOf t ph).pauseDue = false) ∧
      (∀ x, l.exchange = some x → noOtherPart s ph x →
        let part : EndedPart := { lane := ph, exchange := x, cause := some .lost }
        let rep := endReportOf part (endedWith s part) (cyc.start + (ptuOf s ph).p / 64)
        rep.endTime = cyc.start + (ptuOf s ph).p / 64 ∧ (x.joined = false → rep.cause = some .lost) ∧
          ∃ moreEnds moreLearned, t.endReports = s.endReports ++ rep :: moreEnds ∧
            t.learningReports =
              s.learningReports ++ learningReportOf part (endedWith s part) rep :: moreLearned) ∧
      (l.state = .reserved → (laneOf t ph).state = .idle) ∧
      (l.state = .idle ∨ l.state = .paused ∨ l.state = .stopped ∨ l.state = .settling →
        (laneOf t ph).state = l.state) ∧
      (l.state = .settling → (laneOf t ph).settling = 0) ∧ t.units = s.units ∧ t.inFlight = s.inFlight

/-- A half-cycle boundary moves the grid on (R6, R13): to the negative half of the cycle, which takes what the positive half
left of its length, or to a new cycle, whose length is P with the pending correction added and after which the proposed
estimate is in force; in either case with the W read at that moment. Nothing that happens at the boundary moves another
grid, the clock or the settings. -/
def Obligations.HalfCycleBoundaryMovesGrid : Prop :=
  ∀ (ph : Phase) (mf : Bool) (o : ReportOrder) (s : State) (h : HalfCycle) (cyc : Cycle), boundaryReady s ph h cyc →
    let u := ptuOf s ph
    let start := cyc.start + cyc.length
    let length := match u.correction with
      | some k => ((u.p : Int) + k.c).toNat
      | none => u.p
    ∃ t, exec (.halfCycleBoundary ph mf o) s = .next t ∧ t.now = s.now ∧ t.clock = s.clock ∧ t.profile = s.profile ∧
      (h.positive = true → t.ptu = putPhase s.ptu ph
        { u with half := some { positive := false, start := cyc.start + h.length, length := cyc.length - h.length
                                w := s.profile.w, acc := 0, window := none, samples := [] } }) ∧
      (h.positive = false → t.ptu = putPhase s.ptu ph
        { u with
          p := match u.correction with
            | some k => k.p
            | none => u.p
          correction := none
          cycle := some { start, length, previous := some cyc.start, missTested := false }
          half := some { positive := true, start, length := length / 2, w := s.profile.w, acc := 0, window := none
                         samples := [] } })

/-- The windows of a half-cycle (R14): after k windows the accumulator stands at k·r mod W, the last of them begins
(k − 1)·base + floor((k − 1)·r/W) ticks after the half-cycle's start, where the one before it ends, and ends k·base +
floor(k·r/W) ticks after it, and each is base or base + 1 ticks long; so the W-th ends with the half-cycle. -/
def Obligations.WindowsFillTheHalfCycle : Prop :=
  ∀ (positive : Bool) (start length w k : Nat), 1 ≤ k → k ≤ w →
    ∃ v, (beginWindow^[k] (newHalf positive start length w)).window = some v ∧ v.index = k - 1 ∧
      (beginWindow^[k] (newHalf positive start length w)).acc = k * (length % w) % w ∧
      v.start = start + (k - 1) * (length / w) + (k - 1) * (length % w) / w ∧
      v.start + v.length = start + k * (length / w) + k * (length % w) / w ∧
      (v.length = length / w ∨ v.length = length / w + 1) ∧ (k = w → v.start + v.length = start + length)

/-- A window begins and is sampled (R14, R15, R67, R95). WINDOW_BOUNDARY: the window's length comes from the accumulator;
the lane drives TXD with TXEN, and DRV for boost drive, just in the windows in which its own frame has a bit, and leaves
TXEN and DRV low in every other; there the level of TXD is open (log 11). WINDOW_SAMPLE: the three levels at the midpoint
join the half-cycle's samples. -/
def Obligations.WindowsDriveAndSampleTheLine : Prop :=
  (∀ (ph : Phase) (s : State) (h : HalfCycle) (start : Nat), s.lanesOk → running (ptuOf s ph) →
    (ptuOf s ph).half = some h →
    let k := h.samples.length
    let l := laneOf s ph
    let d := h.w - 2
    let acc := h.acc + h.length % h.w
    (h.window = none ∧ k = 0 ∧ start = h.start ∨
      ∃ v, h.window = some v ∧ k = v.index + 1 ∧ start = v.start + v.length) →
    k < h.w → start ≤ s.now →
    let carries := fun b : Bool => l.state = .sending ∧ ∃ x, l.exchange = some x ∧ x.position ≤ x.plan.n ∧ 1 ≤ k ∧ k ≤ d ∧
      (x.mode = .normal ∧ x.frame[(x.position - 1) * d + (k - 1)]? = some b ∨
        x.mode = .robust ∧ (k - 1) / 2 < d / 2 ∧ x.frame[(x.position - 1) * (d / 2) + (k - 1) / 2]? = some b)
    let begun : HalfCycle :=
      { h with
        acc := if h.w ≤ acc then acc - h.w else acc
        window := some { index := k, start, length := if h.w ≤ acc then h.length / h.w + 1 else h.length / h.w } }
    ∃ txd txen drv draws,
      becomes (.windowBoundary ph) s
        { s with
          ptu := putPhase s.ptu ph { ptuOf s ph with half := some begun }
          lanes := putPhase s.lanes ph { l with txd, txen, drv }
          draws } ∧
      (∀ b, carries b → txd = b ∧ txen = true ∧ ∃ x, l.exchange = some x ∧ drv = x.boost) ∧
      ((∀ b, ¬carries b) → txen = false ∧ drv = false)) ∧
  ∀ (ph : Phase) (rxd cd lq : Bool) (s : State) (h : HalfCycle) (v : Window), running (ptuOf s ph) →
    (ptuOf s ph).half = some h → h.window = some v → h.samples.length = v.index → v.start + v.length / 2 ≤ s.now →
    let sampled : HalfCycle := { h with samples := h.samples ++ [{ rxd, cd, lq }] }
    becomes (.windowSample ph rxd cd lq) s
      { s with ptu := putPhase s.ptu ph { ptuOf s ph with half := some sampled } }

/-! ### Network clock -/

/-- The reference tick and the second event (R16, R48, R49). Time goes on by one tick; an unset clock does not count, and a
set one counts its sub-second ticks. At the rollover seconds advance, holding at their limit, and the queue releases and
expires its records, with the causes, the flag and the aborts that go with it; SECOND_EVENT names that same tick
(log 4). -/
def Obligations.TicksCountAndSecondsRollOver : Prop :=
  ∀ s : State, s.queueOk →
    (s.clock.isSet = false → becomes .referenceTick s { s with now := s.now + 1 }) ∧
    (s.clock.isSet = true → s.clock.sub < 1023999 →
      becomes .referenceTick s { s with now := s.now + 1, clock := { s.clock with sub := s.clock.sub + 1 } }) ∧
    (s.clock.isSet = true → s.clock.sub = 1023999 →
      let seconds := min 4294967295 (s.clock.seconds + 1)
      ∃ t, exec .secondEvent s = .next t ∧ exec .referenceTick s = .next t ∧ t.now = s.now + 1 ∧
        t.clock = { isSet := true, seconds, sub := 0 } ∧
        secondTaken s seconds t ∧
        t.ptu = s.ptu ∧ t.units = s.units ∧ t.profile = s.profile ∧ t.inFlight = s.inFlight)

/-- CLOCK SET (R17): BAD_FIELD for 0; otherwise the clock is set with its sub-second count 0, the answer is OK, and the
queue releases and expires its records against the new time, with the causes, the flag and the aborts that go with
it. -/
def Obligations.ClockSetActsAtOnce : Prop :=
  ∀ (tag : Byte) (seconds : BitVec 32) (s : State), s.queueOk → s.uli.responses.length < 4 →
    (seconds = 0 → answers (.clockSet tag seconds) s 0xB0 tag [0x03] s) ∧
    (seconds ≠ 0 → ∃ t, exec (.clockSet tag seconds) s = .next t ∧
      t.clock = { isSet := true, seconds := seconds.toNat, sub := 0 } ∧
      responseQueued s.uli t.uli { kind := 0xB0, tag, content := [0x00] } ∧
      secondTaken s seconds.toNat t ∧
      t.now = s.now ∧ t.ptu = s.ptu ∧ t.units = s.units ∧ t.profile = s.profile ∧ t.inFlight = s.inFlight)

/-- The half-cycles remaining before second S on a phase (R18). -/
def Obligations.HalfCyclesRemainingBeforeSecond : Prop :=
  ∀ (s : State) (ph : Phase) (deadline : Nat),
    (deadline = 0 → halfCyclesRemaining s ph deadline = 65535) ∧
    (deadline ≠ 0 → s.clock.isSet = false → halfCyclesRemaining s ph deadline = 0) ∧
    (deadline ≠ 0 → s.clock.isSet = true →
      (deadline * 1024000 ≤ s.clock.seconds * 1024000 + s.clock.sub → halfCyclesRemaining s ph deadline = 0) ∧
      ∀ rt, 0 < rt → deadline * 1024000 = s.clock.seconds * 1024000 + s.clock.sub + rt →
        halfCyclesRemaining s ph deadline = min 65535 (2 * rt / (ptuOf s ph).p))

/-! ### Line condition monitors -/

/-- The monitor at the boundary that ends a half-cycle (R130 to R137). After a quiet half-cycle: the verdict, the noise
floor moved a quarter of the way toward the score, the mode by its two thresholds with MODE_CHANGE, and the latch with
FOREIGN_CARRIER. After any other: the verdict NONE, and floor, mode and latch untouched. The lane reports the state in
which it begins the next half-cycle, and the other monitors do nothing. -/
def Obligations.MonitorJudgesEndedHalfCycle : Prop :=
  ∀ (ph : Phase) (mf : Bool) (o : ReportOrder) (s : State) (h : HalfCycle) (cyc : Cycle) (st : StartState),
    boundaryReady s ph h cyc → (lcmOf s ph).start = some st →
    let m := lcmOf s ph
    let d := h.w - 2
    let score := min 255 (256 * busy h / d)
    let floor := ((m.floor : Int) + Int.tdiv ((score : Int) - m.floor) 4).toNat
    let quiet := st.state = .idle ∨ st.state = .reserved ∨ st.state = .paused ∨ st.state = .stopped ∨
      st.state = .settling ∨ st.state = .listening ∧ st.gap = true
    ∃ t, exec (.halfCycleBoundary ph mf o) s = .next t ∧ (∀ q, q ≠ ph → lcmOf t q = lcmOf s q) ∧
      (lcmOf t ph).start.map StartState.state = some (laneOf t ph).state ∧
      (quiet →
        (lcmOf t ph).floor = floor ∧
        (lcmOf t ph).verdict = (if busy h ≤ d / 8 then .clear else .notClear) ∧
        (m.mode = .normal → (lcmOf t ph).mode = if s.profile.robustEnter ≤ floor then .robust else .normal) ∧
        (m.mode = .robust → (lcmOf t ph).mode = if floor ≤ s.profile.robustLeave then .normal else .robust) ∧
        (m.mode ≠ (lcmOf t ph).mode → flagSet t .modeChange = true) ∧
        ((lcmOf t ph).latch = true ↔ m.latch = true ∨ d / 2 < busy h) ∧
        (m.latch = false → d / 2 < busy h → flagSet t .foreignCarrier = true)) ∧
      (¬quiet → (lcmOf t ph).floor = m.floor ∧ (lcmOf t ph).mode = m.mode ∧ (lcmOf t ph).latch = m.latch ∧
        (lcmOf t ph).verdict = .none)

/-! ### Lanes -/

/-- The one candidate of a free lane on a LOCKED phase is a unicast item of a record with no deadline, to a unit reached
directly, at a boundary that ends a quiet half-cycle; no record waits for an evaluation to end a target. -/
def Sys2Proof.Claims.loneUnicast (s : State) (ph : Phase) (h : HalfCycle) (cyc : Cycle) (r : Record) (u : Nat)
    (joined : Bool) : Prop :=
  boundaryReady s ph h cyc ∧ (ptuOf s ph).timing = .locked ∧ (laneOf s ph).state = .idle ∧
    (lcmOf s ph).start = some { state := .idle, gap := false } ∧ s.lanesOk ∧ s.queueOk ∧ profileOk s.profile ∧
    r ∈ s.records ∧ r.deadline = 0 ∧ r.payload.length ≤ 16 ∧ (unitAt s u).route = [] ∧
    candidates s ph = [{ serial := r.serial, work := .unicast u, joined, priority := r.priority }] ∧
    ∀ q ∈ s.records, evaluationEnds s q = false

/-- A value rounded up to whole multiples of a divisor and counted in them (R97). -/
def Sys2Proof.Claims.ceilDiv (n d : Nat) : Nat := n / d + if n % d = 0 then 0 else 1

/-- The bits that a half-cycle carries at a window count (R95). -/
def Sys2Proof.Claims.bitsAHalf (w : Nat) (mode : Mode) : Nat := if mode = .robust then (w - 2) / 2 else w - 2

/-- The mode that a grant at the boundary latches (R101, R136): the monitor's, as its update at the boundary leaves it where
the monitor acts first, and as it stood before otherwise. -/
def Sys2Proof.Claims.latchedMode (s t : State) (ph : Phase) (mf : Bool) : Mode :=
  if mf = true then (lcmOf t ph).mode else (lcmOf s ph).mode

/-- What the grant of a direct unicast leaves on its lane and in the queue (R57, R73, R90, R97, R98, R101, R102). The
exchange's number is the model's own (log 18). -/
def Sys2Proof.Claims.unicastGranted (s t : State) (ph : Phase) (mf : Bool) (r : Record) (u : Nat) (forced : Bool) : Prop :=
  (laneOf t ph).state = .sending ∧ (laneOf t ph).deferral = 0 ∧ u ∈ t.inFlight ∧ t.nextExchange = s.nextExchange + 1 ∧
    (∃ r' ∈ t.records, r'.serial = r.serial ∧ r'.state = .active ∧ r'.flights = r.flights + 1 ∧
      ∀ g ∈ r'.targets, g.unit = u → g.inFlight = true) ∧
    ∃ x, (laneOf t ph).exchange = some x ∧ x.exch = s.nextExchange ∧ x.serial = r.serial ∧ x.lineTag = r.tag ∧
      x.work = .unicast u ∧ x.mode = latchedMode s t ph mf ∧
      x.joined = false ∧ x.targets = [(u, ((unitAt s u).address).getD 0)] ∧ x.position = 1 ∧ x.priority = r.priority ∧
      x.forced = forced ∧ x.abortDue = none ∧ x.wholeAbort = none ∧ x.heard = [] ∧ x.decodes = [] ∧ x.collided = 0 ∧
      x.plan.kind = .unicast 0 ∧ x.plan.lanes = [] ∧
      x.plan.n = ceilDiv (104 + 8 * r.payload.length) (bitsAHalf s.profile.w x.mode) ∧
      x.plan.a = ceilDiv 88 (bitsAHalf s.profile.w x.mode) ∧ x.plan.t = x.plan.n + x.plan.a + 2 ∧
      x.frame = lineFrame r (.unicast u) (((unitAt s u).address).getD 0) [] x.mode ∧
      (x.boost = true ↔ forced = true ∨ (∀ v, (unitAt s u).quality = some v → v < s.profile.boost) ∨
        ∃ g ∈ r.targets, g.unit = u ∧ g.attempts + 1 = r.budget)

/-- On a clear line a free lane grants the direct unicast it is offered (R70 to R73): SENDING at the first half-cycle of its
plan, with everything latched that R90 lists, its mode the monitor's (R101) and its lengths R97's, the record ACTIVE with
one exchange more in flight, the unit in flight. The exchange's number is the model's own (log 18). -/
def Obligations.ClearLineGrantsUnicast : Prop :=
  ∀ (ph : Phase) (mf : Bool) (o : ReportOrder) (s : State) (h : HalfCycle) (cyc : Cycle) (r : Record) (u : Nat),
    loneUnicast s ph h cyc r u false → busy h ≤ (h.w - 2) / 8 →
    ∃ t, exec (.halfCycleBoundary ph mf o) s = .next t ∧ unicastGranted s t ph mf r u false

/-- On a busy line a free lane defers (R72): below the deferral limit it stays IDLE with its count one higher and grants
nothing; at the limit it grants all the same, forced and with boost drive, and raises LINE_BUSY. So it does at the first
opportunity after a lock, which is the model's reading of R168 (log 50). The exchange's number is the model's own
(log 18). -/
def Obligations.BusyLineDefersThenForces : Prop :=
  ∀ (ph : Phase) (mf : Bool) (o : ReportOrder) (s : State) (h : HalfCycle) (cyc : Cycle) (r : Record) (u : Nat),
    loneUnicast s ph h cyc r u false → (h.w - 2) / 8 < busy h →
    ∃ t, exec (.halfCycleBoundary ph mf o) s = .next t ∧
      ((laneOf s ph).deferral + 1 < s.profile.deferral →
        (laneOf t ph).state = .idle ∧ (laneOf t ph).exchange = none ∧
          (laneOf t ph).deferral = (laneOf s ph).deferral + 1 ∧ t.records = s.records ∧ t.inFlight = s.inFlight ∧
          flagSet t .lineBusy = flagSet s .lineBusy) ∧
      (s.profile.deferral ≤ (laneOf s ph).deferral + 1 →
        unicastGranted s t ph mf r u true ∧ flagSet t .lineBusy = true)

/-- A joined unicast on a clear line (R75, R78, R101): while some other usable lane is not held for it, being free of any
reservation or held for another item, the lane is RESERVED for it and nothing is granted; once every other usable lane is
held for it the exchange starts, this lane SENDING and each other one ARMED with the same exchange, in ROBUST if the
monitor of some lane of the set reports it. Either its priority is urgent or no candidate of any lane is, so that no
preemption test passes at once. The exchange's number is the model's own (log 18). -/
def Obligations.JoinedUnicastReservesThenGrants : Prop :=
  ∀ (ph : Phase) (mf : Bool) (o : ReportOrder) (s : State) (h : HalfCycle) (cyc : Cycle) (r : Record) (u : Nat),
    loneUnicast s ph h cyc r u true → busy h ≤ (h.w - 2) / 8 →
    (s.profile.urgent ≤ r.priority ∨ ∀ q, ∀ i ∈ candidates s q, i.priority < s.profile.urgent) →
    let item : WorkItem := { serial := r.serial, work := .unicast u, joined := true, priority := r.priority }
    let held := fun q => (laneOf s q).state = .reserved ∧ ∃ v, (laneOf s q).reserved = some v ∧
      v.item.serial = r.serial ∧ v.item.work = .unicast u ∧ v.item.joined = true
    ∃ t, exec (.halfCycleBoundary ph mf o) s = .next t ∧
      ((∃ q, q ≠ ph ∧ usable s q = true ∧ ¬held q) →
        (laneOf t ph).state = .reserved ∧ (laneOf t ph).reserved = some { item, forced := false } ∧
          (laneOf t ph).exchange = none ∧ (laneOf t ph).deferral = 0 ∧ t.records = s.records ∧
          t.inFlight = s.inFlight ∧ t.nextExchange = s.nextExchange) ∧
      ((∀ q, q ≠ ph → usable s q = true → held q) →
        (laneOf t ph).state = .sending ∧ u ∈ t.inFlight ∧
          (∃ x, (laneOf t ph).exchange = some x ∧ x.position = 1 ∧ x.joined = true ∧ x.forced = false ∧
            x.plan.lanes = allPhases.filter (usable s) ∧
            (x.mode = .robust ↔ latchedMode s t ph mf = .robust ∨
              ∃ q, q ≠ ph ∧ usable s q = true ∧ (lcmOf s q).mode = .robust) ∧
            ∀ q, q ≠ ph → usable s q = true → (laneOf t q).state = .armed ∧ (laneOf t q).reserved = none ∧
              ∃ y v, (laneOf t q).exchange = some y ∧ (laneOf s q).reserved = some v ∧ y.exch = x.exch ∧
                y.frame = x.frame ∧ y.plan = x.plan ∧ y.mode = x.mode ∧ y.position = 0 ∧ y.forced = v.forced) ∧
          ∃ r' ∈ t.records, r'.serial = r.serial ∧ r'.state = .active ∧ r'.flights = r.flights + 1)

/-- The half-cycle of an exchange's plan is the `j`-th, from 0, of an answer window that the lane reads (R98, R99). -/
def Sys2Proof.Claims.answerHalf (x : Exchange) (j : Nat) : Prop :=
  j < x.plan.a ∧
    match x.plan.kind with
    | .unicast hops => x.position = (hops + 1) * (x.plan.n + 1) + hops * (x.plan.a + 1) + 1 + j
    | .broadcast windows => ∃ k, k < windows ∧ x.position = x.plan.n + 2 + k * x.plan.a + j

/-- What an exchange has read once the half-cycle `h` is over (R103, R104, R106): in an answer window its samples are kept,
and the window's last half-cycle has it judged, a good answer joining the decodes unless its address is among them, a
collided window counting one more; any other half-cycle teaches nothing. -/
def Sys2Proof.Claims.halfHeard (h : HalfCycle) (x y : Exchange) : Prop :=
  (∀ j, answerHalf x j → j + 1 ≠ x.plan.a →
    y.heard = x.heard ++ [h.samples] ∧ y.decodes = x.decodes ∧ y.collided = x.collided) ∧
  (∀ j, answerHalf x j → j + 1 = x.plan.a →
    let judged := judgeAnswer x.mode h.w x.lineTag (x.heard ++ [h.samples])
    y.heard = [] ∧
      (∀ d, judged = .good d → y.collided = x.collided ∧
        ((∃ e ∈ x.decodes, e.address = d.address) → y.decodes = x.decodes) ∧
        ((∀ e ∈ x.decodes, e.address ≠ d.address) → y.decodes = x.decodes ++ [d])) ∧
      (judged = .collided → y.decodes = x.decodes ∧ y.collided = x.collided + 1) ∧
      (judged = .empty → y.decodes = x.decodes ∧ y.collided = x.collided)) ∧
  ((∀ j, ¬answerHalf x j) → y.heard = x.heard ∧ y.decodes = x.decodes ∧ y.collided = x.collided)

/-- A boundary of an occupied lane whose exchange goes on (R74, R79, R103): an ARMED lane starts its part in SENDING; a
SENDING or LISTENING lane hears the half-cycle just ended and goes on by one, SENDING through the frame's n half-cycles
and LISTENING after them. An abort can have fallen due meanwhile, which leaves the exchange on the lane. -/
def Obligations.OccupiedLaneAdvances : Prop :=
  ∀ (ph : Phase) (mf : Bool) (o : ReportOrder) (s : State) (h : HalfCycle) (cyc : Cycle) (x : Exchange),
    boundaryReady s ph h cyc → s.lanesOk → (laneOf s ph).exchange = some x →
    ((laneOf s ph).state = .armed ∨ x.abortDue = none ∧ x.position < x.plan.t) →
    ∃ t y, exec (.halfCycleBoundary ph mf o) s = .next t ∧ (laneOf t ph).exchange = some y ∧
      y = { x with
        position := x.position + 1, heard := y.heard, decodes := y.decodes, collided := y.collided
        abortDue := y.abortDue, wholeAbort := y.wholeAbort } ∧
      ((laneOf s ph).state = .armed → (laneOf t ph).state = .sending ∧ y.heard = x.heard ∧ y.decodes = x.decodes ∧
        y.collided = x.collided) ∧
      ((laneOf s ph).state ≠ .armed → halfHeard h x y ∧
        (laneOf t ph).state = if x.position < x.plan.n then .sending else .listening)

/-- The end of an exchange's part at its lane's boundary, by its plan's last half-cycle or by an abort due (R74, R107 to
R114): TXEN and DRV drop, the exchange leaves the lane, which goes where a STOP or PAUSE due sends it. While another part
runs on, the part is kept with what it has heard. The last part, and the one part of a per-lane exchange, forms both
reports from all the parts, ending at the time of the boundary (log 37); they stand in transit, or are taken there by
the queue and the table as the operand says (logs 8, 9). Then what the reports say of the parts: the answers kept, the
targets answered and not, the collided windows, the cause, and what is to be learned. -/
def Obligations.ExchangeEndFormsReports : Prop :=
  (∀ (ph : Phase) (mf : Bool) (o : ReportOrder) (s : State) (h : HalfCycle) (cyc : Cycle) (x : Exchange),
    boundaryReady s ph h cyc → s.lanesOk → s.queueOk → (laneOf s ph).exchange = some x → (laneOf s ph).state ≠ .armed →
    (x.abortDue ≠ none ∨ x.plan.t ≤ x.position) →
    ∃ t y, exec (.halfCycleBoundary ph mf o) s = .next t ∧
      y = { x with heard := y.heard, decodes := y.decodes, collided := y.collided } ∧ halfHeard h x y ∧
      (laneOf t ph).txen = false ∧ (laneOf t ph).drv = false ∧
      (∀ z, (laneOf t ph).exchange = some z → z.exch ≠ x.exch) ∧
      ((laneOf s ph).stopDue = true → (laneOf t ph).state = .stopped ∧ (laneOf t ph).stopDue = false ∧
        (laneOf t ph).pauseDue = false) ∧
      ((laneOf s ph).stopDue = false → (laneOf s ph).pauseDue = true →
        (laneOf t ph).state = .paused ∧ (laneOf t ph).pauseDue = false) ∧
      let part : EndedPart := { lane := ph, exchange := y, cause := x.abortDue }
      let rep := endReportOf part (endedWith s part) (h.start + h.length)
      let learned := learningReportOf part (endedWith s part) rep
      (noOtherPart s ph x → ∃ moreEnds moreLearned, (∀ p ∈ t.endedParts, p.exchange.exch ≠ x.exch) ∧
        (o = .neither ∨ o = .tableOnly → t.endReports = s.endReports ++ rep :: moreEnds) ∧
        (o ≠ .neither → o ≠ .tableOnly → t.endReports = s.endReports ++ moreEnds ∧
          ∀ r ∈ s.records, r.serial = x.serial →
            ∃ r' ∈ t.records, r'.serial = r.serial ∧ r'.collided = min 65535 (r.collided + rep.collided)) ∧
        (o = .neither ∨ o = .queueOnly →
          t.learningReports = s.learningReports ++ learned :: moreLearned ∧ t.units = s.units) ∧
        (o ≠ .neither → o ≠ .queueOnly →
          t.learningReports = s.learningReports ++ moreLearned ∧ t.units = (applyLearning learned s).units)) ∧
      (¬noOtherPart s ph x →
        (∀ q z, q ≠ ph → (laneOf s q).exchange = some z → z.exch = x.exch → (laneOf s q).state ≠ .armed) →
        t.endedParts.filter (fun p => p.exchange.exch == x.exch) = endedWith s part)) ∧
  ∀ (last : EndedPart) (parts : List EndedPart) (time : Nat),
    let x := last.exchange
    let rep := endReportOf last parts time
    let learned := learningReportOf last parts rep
    rep.serial = x.serial ∧ rep.work = x.work ∧ rep.lane = (if x.joined then none else some last.lane) ∧
      rep.units = x.targets.map Prod.fst ∧ rep.endTime = time ∧
      rep.collided = (parts.map fun p => p.exchange.collided).sum ∧
      (∀ u v, (u, v) ∈ rep.answered → ∃ a lane d, (u, a) ∈ x.targets ∧ keptFor parts lane d ∧ d.address = a ∧ d.status = v) ∧
      (∀ u a lane d, (u, a) ∈ x.targets → keptFor parts lane d → d.address = a → ∃ v, (u, v) ∈ rep.answered) ∧
      (∀ u, rep.notAnswered = some u ↔ x.work = .unicast u ∧ ∀ v, (u, v) ∉ rep.answered) ∧
      (x.joined = false → rep.cause = last.cause ∧ rep.abortedWhole = false) ∧
      (x.joined = true → (rep.abortedWhole = true ↔ x.wholeAbort ≠ none) ∧
        (∀ c, x.wholeAbort = some c → rep.cause = some c) ∧
        (x.wholeAbort = none → (∃ p ∈ parts, p.cause = none) → rep.cause = none) ∧
        (x.wholeAbort = none → (∀ p ∈ parts, p.cause ≠ none) → rep.cause = last.cause)) ∧
      (∀ k, k ∈ learned.answers ↔ ∃ d, keptFor parts k.lane d ∧ k.address = d.address ∧ k.quality = d.quality ∧
        k.hops = match x.plan.kind with
          | .unicast hops => hops
          | .broadcast _ => 0) ∧
      (∀ u a, learned.silence = some (u, a) → rep.cause = none ∧ rep.notAnswered = some u ∧ (u, a) ∈ x.targets) ∧
      (∀ u a, rep.cause = none → rep.notAnswered = some u → (u, a) ∈ x.targets → learned.silence ≠ none)

/-- Some candidate of an occupied lane is urgent, and its exchange fits before its deadline with one half-cycle of wait
(R80). -/
def Sys2Proof.Claims.urgentWaits (s : State) (ph : Phase) : Prop :=
  ∃ i ∈ candidates s ph, s.profile.urgent ≤ i.priority ∧
    ∃ r ∈ s.records, r.serial = i.serial ∧ priceOf s ph r i + 1 ≤ halfCyclesRemaining s ph r.deadline

/-- The exchange on a lane can be preempted now and no abort of it is due (R80). -/
def Sys2Proof.Claims.preemptibleNow (s : State) (ph : Phase) (x : Exchange) : Prop :=
  x.priority < s.profile.urgent ∧ x.abortDue = none ∧
    ((laneOf s ph).state = .armed ∨ (∃ w, x.plan.kind = .broadcast w) ∨ x.plan.kind = .unicast 0 ∨ x.position ≤ x.plan.n)

/-- Aborts that reach an exchange from outside. The queue's abort request (R87) is ignored by a lane that holds no exchange
for the record, falls due at the end of the half-cycle on a SENDING or LISTENING lane unless an abort is due already, and
releases an ARMED lane at once; where no request is in transit to the lane nothing happens, which is the model's own
choice (log 8). The preemption test (R80, R81), as an ADJUST has the lanes choose again (log 40): where an urgent candidate
fits, a preemptible exchange of ordinary priority is aborted as PREEMPTED, on a SENDING or LISTENING lane at the end of its
half-cycle and on an ARMED one at once, with every other part of a joined exchange; otherwise the exchange stays as it
is. -/
def Obligations.AbortRequestReachesItsExchange : Prop :=
  (∀ (ph : Phase) (s : State), (∀ a ∈ s.abortRequests, a.lane ≠ ph) → becomes (.abortRequest ph) s s) ∧
  (∀ (ph : Phase) (s : State) (q : AbortRequest), s.lanesOk →
    s.abortRequests.find? (fun a => a.lane == ph) = some q →
    ((∀ x, (laneOf s ph).exchange = some x → x.serial ≠ q.serial) →
      becomes (.abortRequest ph) s { s with abortRequests := s.abortRequests.erase q }) ∧
    ∀ x, (laneOf s ph).exchange = some x → x.serial = q.serial →
      ∃ t, exec (.abortRequest ph) s = .next t ∧ t.abortRequests = s.abortRequests.erase q ∧ t.units = s.units ∧
        t.inFlight = s.inFlight ∧
        ((laneOf s ph).state ≠ .armed → (laneOf t ph).state = (laneOf s ph).state ∧ t.records = s.records ∧
          ∃ y, (laneOf t ph).exchange = some y ∧ y.exch = x.exch ∧ y.position = x.position ∧
            y.abortDue = some (x.abortDue.getD q.cause)) ∧
        ((laneOf s ph).state = .armed → (laneOf s ph).stopDue = false → (laneOf t ph).exchange = none ∧
          (laneOf t ph).state = if (laneOf s ph).pauseDue then .paused else .idle)) ∧
  ∀ (tag : Byte) (id : BitVec 32) (priority options : Byte) (s : State) (r r' : Record) (ph : Phase) (x : Exchange),
    s.queueOk → s.lanesOk → s.uli.responses.length < 4 → r ∈ s.records → r.id = id → isDone r = false →
    r' = { r with
      priority := if priority = 255 then r.priority else min 63 priority.toNat
      enable := if options.getLsbD 0 = true ∧ options.getLsbD 1 = false then false
        else if options.getLsbD 1 = true ∧ options.getLsbD 0 = false then true else r.enable } →
    r' ≠ r → (laneOf s ph).exchange = some x →
    let s' := { s with records := s.records.map fun q => if q.id = id then r' else q }
    (∀ q ∈ s'.records, evaluationEnds s' q = false) →
    (∀ q y, q ≠ ph → (laneOf s q).exchange = some y → x.joined = true ∧ y.joined = true ∧ y.exch = x.exch) →
    ∃ t, exec (.adjust tag id priority options) s = .next t ∧ t.records = s'.records ∧
      (urgentWaits s' ph → preemptibleNow s ph x →
        ∀ q y, (laneOf s q).exchange = some y → (q = ph ∨ x.joined = true) →
          ((laneOf s q).state ≠ .armed → (laneOf t q).state = (laneOf s q).state ∧
            (laneOf t q).exchange = some { y with
              abortDue := some (y.abortDue.getD .preempted)
              wholeAbort := if x.joined = true then some (y.wholeAbort.getD .preempted) else y.wholeAbort }) ∧
          ((laneOf s q).state = .armed → (laneOf t q).exchange = none ∧
            (laneOf t q).state = if (laneOf s q).pauseDue then .paused else .idle)) ∧
      (¬(urgentWaits s' ph ∧ preemptibleNow s ph x) → (∀ q, q ≠ ph → (laneOf s q).exchange = none) →
        (laneOf t ph).exchange = some x ∧ (laneOf t ph).state = (laneOf s ph).state)

/-- STOP of one lane (R82, R83), and the masks that lane control refuses. -/
def Obligations.StopTakesLaneOutAtOnce : Prop :=
  (∀ (tag mask : Byte) (s : State), s.uli.responses.length < 4 → 7 < mask.toNat ∨ mask = 0 →
    answers (.stop tag mask) s 0xB1 tag [0x03] s ∧ answers (.pause tag mask) s 0xB1 tag [0x03] s ∧
      answers (.resume tag mask) s 0xB1 tag [0x03] s) ∧
  ∀ (tag mask : Byte) (ph : Phase) (s : State), s.lanesOk → s.uli.responses.length < 4 → maskLanes mask = [ph] →
    mask.toNat ≤ 7 →
    let l := laneOf s ph
    ∃ t, exec (.stop tag mask) s = .next t ∧
      responseQueued s.uli t.uli
        { kind := 0xB1, tag, content := 0x00 :: allPhases.map fun q => laneStateByte (laneOf t q).state } ∧
      outsideKept s t ∧
      (l.state = .stopped → t = { s with uli := t.uli, draws := t.draws }) ∧
      (isOccupied l.state = false → l.state ≠ .stopped → (laneOf t ph).state = .stopped ∧
        (laneOf t ph).reserved = none ∧ (laneOf t ph).deferral = 0 ∧ (laneOf t ph).settling = 0 ∧
        (laneOf t ph).stopDue = false ∧ (laneOf t ph).pauseDue = false) ∧
      (∀ x, l.exchange = some x → l.state = .armed → (laneOf t ph).state = .stopped ∧ (laneOf t ph).exchange = none ∧
        (x.joined = true → ∀ q y, q ≠ ph → (laneOf t q).exchange = some y → y.exch = x.exch → y.abortDue ≠ none)) ∧
      (∀ x, l.exchange = some x → l.state ≠ .armed →
        t = { s with
          lanes := putPhase s.lanes ph
            { l with stopDue := true, exchange := some { x with abortDue := some (x.abortDue.getD .stopped) } }
          uli := t.uli, draws := t.draws })

/-- PAUSE and RESUME of one lane (R82, R84, R85, R68). PAUSE takes a free or settling lane at once and an occupied one when
its exchange ends; RESUME puts a PAUSED or STOPPED lane in SETTLING, and a lane that leaves STOPPED on a phase not LOST is
seen by every record that is not DONE. -/
def Obligations.PauseAndResumeSetLaneAside : Prop :=
  ∀ (tag mask : Byte) (ph : Phase) (s : State), s.lanesOk → s.uli.responses.length < 4 → maskLanes mask = [ph] →
    mask.toNat ≤ 7 →
    let l := laneOf s ph
    (∃ t, exec (.pause tag mask) s = .next t ∧
      responseQueued s.uli t.uli
        { kind := 0xB1, tag, content := 0x00 :: allPhases.map fun q => laneStateByte (laneOf t q).state } ∧
      outsideKept s t ∧
      (l.state = .idle ∨ l.state = .reserved ∨ l.state = .settling → (laneOf t ph).state = .paused ∧
        (laneOf t ph).reserved = none ∧ (laneOf t ph).deferral = 0 ∧ (laneOf t ph).settling = 0) ∧
      (isOccupied l.state = true →
        t = { s with lanes := putPhase s.lanes ph { l with pauseDue := true }, uli := t.uli, draws := t.draws }) ∧
      (l.state = .paused ∨ l.state = .stopped → t = { s with uli := t.uli, draws := t.draws })) ∧
    ∃ t, exec (.resume tag mask) s = .next t ∧
      responseQueued s.uli t.uli
        { kind := 0xB1, tag, content := 0x00 :: allPhases.map fun q => laneStateByte (laneOf t q).state } ∧
      (l.state = .paused ∨ l.state = .stopped →
        t = { s with
          lanes := putPhase s.lanes ph { l with state := .settling, settling := 0 }
          records :=
            if l.state = .paused ∨ (ptuOf s ph).timing = .lost then s.records
            else s.records.map fun r => if isDone r = true then r else { r with lanesSeen := putPhase r.lanesSeen ph true }
          uli := t.uli, draws := t.draws }) ∧
      (l.state ≠ .paused → l.state ≠ .stopped → t = { s with uli := t.uli, draws := t.draws })

/-! ### Dispatch queue -/

/-- A SUBMIT that passes every check (R43 to R46): the record enters at the newest end with its clamps, the first free line
tag from the counter on and a fresh target set, WAITING where its release is still to come and otherwise READY, or
COMPLETE at once where no work is left; the answer carries the tag and the number of targets. -/
def Obligations.SubmitAdmitsRecord : Prop :=
  ∀ (tag : Byte) (f : SubmitFields) (s : State) (set : List Nat), s.queueOk → s.uli.responses.length < 4 →
    ¬submitBad f → (∀ r ∈ s.records, r.id ≠ f.id) → s.records.length < 64 →
    (f.release ≠ 0 ∨ f.deadline ≠ 0 → s.clock.isSet = true) →
    (f.deadline ≠ 0 → s.clock.seconds < f.deadline.toNat) →
    (f.release ≠ 0 → f.deadline ≠ 0 → f.release.toNat < f.deadline.toNat) →
    expandTarget s.units (submitTarget f) = some set → (set ≠ [] ∨ submitTarget f = .cond .discover) →
    ∃ t olds r k, exec (.submit tag f) s = .next t ∧ t.records = olds ++ [r] ∧
      List.Forall₂ recordContinues s.records olds ∧ r.id = f.id ∧
      r.kind = (if f.kind = 0 then .tariff else .rollcall) ∧ r.target = submitTarget f ∧
      r.targets.map Target.unit = set ∧ (∀ g ∈ r.targets, g.attempts = 0 ∧ g.notBefore = none ∧ g.inFlight = false) ∧
      r.priority = min 63 f.priority.toNat ∧ (r.enable = true ↔ f.options.getLsbD 0 = false) ∧
      r.budget = max 1 (min 15 f.budget.toNat) ∧ r.windows = min 31 f.windows.toNat ∧
      (∀ b, r.rounds = some b → b = max 1 (min 4 f.rounds.toNat)) ∧
      (r.rounds = none ↔ (∃ a, r.target = .unit a) ∨ r.target = .cond .phaseUnknown ∨ r.target = .cond .silent ∨
        ∃ q, r.target = .cond (.qualityBelow q)) ∧
      r.release = f.release.toNat ∧
      r.deadline = f.deadline.toNat ∧ r.payload = f.payload ∧ r.flights = 0 ∧
      (s.clock.seconds < f.release.toNat → r.state = .waiting ∧ ∀ g ∈ r.targets, g.outcome = .pending) ∧
      (f.release.toNat ≤ s.clock.seconds → r.state = .ready ∨ r.state = .done .complete) ∧
      (∀ ph, atPhase r.lanesSeen ph = true ↔ (laneOf s ph).state ≠ .stopped ∧ (ptuOf s ph).timing ≠ .lost) ∧
      r.tag = tagAfter^[k] s.tagCounter ∧ (∀ q ∈ s.records, q.tag ≠ r.tag) ∧
      (∀ j, j < k → ∃ q ∈ s.records, q.tag = tagAfter^[j] s.tagCounter) ∧ t.tagCounter = tagAfter r.tag ∧
      responseQueued s.uli t.uli { kind := 0x81, tag, content := 0x00 :: bytes2 r.tag ++ bytes2 set.length } ∧
      t.now = s.now ∧ t.ptu = s.ptu ∧ t.clock = s.clock ∧ t.profile = s.profile ∧ t.units = s.units ∧
      t.discovery = s.discovery ∧ t.inFlight = s.inFlight ∧ t.lcm = s.lcm

/-- A SUBMIT that fails a check (R43): the first check that fails gives the result code, and nothing changes but the
response queue. -/
def Obligations.SubmitRefusedByFirstFailingCheck : Prop :=
  ∀ (tag : Byte) (f : SubmitFields) (s : State), s.uli.responses.length < 4 →
    let refused := fun code : Byte => answers (.submit tag f) s 0x81 tag [code] s
    let duplicate := ∃ r ∈ s.records, r.id = f.id
    let full := 64 ≤ s.records.length
    let noClock := (f.release ≠ 0 ∨ f.deadline ≠ 0) ∧ s.clock.isSet = false
    let late := f.deadline ≠ 0 ∧ f.deadline.toNat ≤ s.clock.seconds
    let window := f.release ≠ 0 ∧ f.deadline ≠ 0 ∧ f.deadline.toNat ≤ f.release.toNat
    (submitBad f → refused 0x03) ∧
    (¬submitBad f →
      (duplicate → refused 0x11) ∧ (¬duplicate →
      (full → refused 0x10) ∧ (¬full →
      (noClock → refused 0x22) ∧ (¬noClock →
      (late → refused 0x20) ∧ (¬late →
      (window → refused 0x21) ∧ (¬window →
      (expandTarget s.units (submitTarget f) = none → refused 0x13) ∧
      (expandTarget s.units (submitTarget f) = some [] → submitTarget f ≠ .cond .discover → refused 0x14)))))))

/-- Target expansion (R36 to R38). A UNIT target is the live entry that holds the address, or the live entry its chain of
redirections ends on, its successor where that is live; ALL, GROUP and the conditions select exactly the live entries
that qualify, in ascending order. -/
def Obligations.TargetsExpandToLiveUnits : Prop :=
  ∀ s : State, s.tableOk →
    (∀ a i, (unitAt s i).address = some a → isLive (unitAt s i) = true → expandTarget s.units (.unit a) = some [i]) ∧
    (∀ a i, (unitAt s i).address = some a → (unitAt s i).state = .redirected →
      ∃ j, followChain s.units 4 i = some j ∧ isLive (unitAt s j) = true ∧ expandTarget s.units (.unit a) = some [j]) ∧
    (∀ i j, (unitAt s i).state = .redirected → (unitAt s i).successor = some j → isLive (unitAt s j) = true →
      followChain s.units 4 i = some j) ∧
    (∀ a, (∀ i, (unitAt s i).address ≠ some a) → expandTarget s.units (.unit a) = none) ∧
    ∀ spec (p : Entry → Prop),
      (spec = .all ∧ (∀ e, p e) ∨ spec = .cond .allActive ∧ (∀ e, p e) ∨
        (∃ g, (spec = .group g ∨ spec = .cond (.group g)) ∧ ∀ e, p e ↔ g ∈ e.groups) ∨
        spec = .cond .phaseUnknown ∧ (∀ e, p e ↔ e.phase = none) ∨
        spec = .cond .silent ∧ (∀ e, p e ↔ e.state = .silent) ∨
        (∃ q, spec = .cond (.qualityBelow q) ∧ ∀ e, p e ↔ ∀ v, e.quality = some v → v < q) ∨
        spec = .cond .discover ∧ ∀ e, ¬p e) →
      ∃ set, expandTarget s.units spec = some set ∧ set.Pairwise (· < ·) ∧
        ∀ i, i ∈ set ↔ isLive (unitAt s i) = true ∧ p (unitAt s i)

/-- CANCEL (R63): UNKNOWN_ID; a WAITING or READY record enters DONE CANCELLED with its PENDING targets UNREACHED for that
cause and RECORD_DONE raised; an ACTIVE one enters CLOSING; CLOSING and DONE records stay as they are. -/
def Obligations.CancelActsByRecordState : Prop :=
  ∀ (tag : Byte) (id : BitVec 32) (s : State), s.queueOk → s.uli.responses.length < 4 →
    ((∀ r ∈ s.records, r.id ≠ id) → answers (.cancel tag id) s 0x82 tag [0x12] s) ∧
    ∀ r ∈ s.records, r.id = id →
      (r.state = .waiting ∨ r.state = .ready → ∃ t, exec (.cancel tag id) s = .next t ∧
        responseQueued s.uli t.uli { kind := 0x82, tag, content := [0x00, 4] } ∧ flagSet t .recordDone = true ∧
        outsideKept s t ∧
        recordChanges id (fun q q' => q'.state = .done .cancelled ∧
          List.Forall₂ (fun g g' => g'.unit = g.unit ∧
            g'.outcome = if g.outcome = .pending then .unreached .cancelled else g.outcome) q.targets q'.targets) s t) ∧
      (r.state = .active → ∃ t, exec (.cancel tag id) s = .next t ∧
        responseQueued s.uli t.uli { kind := 0x82, tag, content := [0x00, 3] } ∧ outsideKept s t ∧
        recordChanges id (fun q q' => q' = { q with state := .closing .cancel }) s t) ∧
      (∀ c, r.state = .closing c → answers (.cancel tag id) s 0x82 tag [0x00, 3] s) ∧
      (∀ o, r.state = .done o → answers (.cancel tag id) s 0x82 tag [0x40, 4] s)

/-- ADJUST (R62): UNKNOWN_ID, WRONG_STATE for a DONE record, and otherwise the priority and the dispatch enable by their
rules, which the answer gives back as they stand. -/
def Obligations.AdjustSetsPriorityAndEnable : Prop :=
  ∀ (tag : Byte) (id : BitVec 32) (priority options : Byte) (s : State), s.queueOk → s.uli.responses.length < 4 →
    let c : Instr := .adjust tag id priority options
    let hold := options.getLsbD 0
    let lift := options.getLsbD 1
    ((∀ r ∈ s.records, r.id ≠ id) → answers c s 0x83 tag [0x12] s) ∧
    ∀ r ∈ s.records, r.id = id →
      (isDone r = true → answers c s 0x83 tag [0x40] s) ∧
      (isDone r = false →
        let p := if priority = 255 then r.priority else min 63 priority.toNat
        let e := if hold = true ∧ lift = false then false else if lift = true ∧ hold = false then true else r.enable
        ∃ t, exec c s = .next t ∧ outsideKept s t ∧
          responseQueued s.uli t.uli
            { kind := 0x83, tag, content := [0x00, BitVec.ofNat 8 p, if e = true then 1 else 0] } ∧
          recordChanges id (fun q q' => q'.priority = p ∧ q'.enable = e ∧ recordContinues q q') s t)

/-- COLLECT (R64, R176): its refusals, of which UNKNOWN_ID comes before BAD_FIELD and BAD_FIELD before WRONG_STATE where two
apply, an order that R64 leaves open and that is the model's own (log 34); otherwise the summary and, for a class, at most
32 of its targets from the start position on with the position after them, and the record removed where the release
option is set. The summary packs the state, the rounds sent and the six counts into 72 bits. -/
def Obligations.CollectReportsAndReleases : Prop :=
  (∀ (tag : Byte) (id : BitVec 32) (cls : Byte) (start : BitVec 16) (options : Byte) (s : State), s.queueOk →
    s.uli.responses.length < 4 →
    let c : Instr := .collect tag id cls start options
    ((∀ r ∈ s.records, r.id ≠ id) → answers c s 0x84 tag [0x12] s) ∧
    ∀ r ∈ s.records, r.id = id →
      (4 < cls.toNat ∨ 1023 < start.toNat → answers c s 0x84 tag [0x03] s) ∧
      (cls.toNat ≤ 4 → start.toNat ≤ 1023 →
        (options.getLsbD 0 = true → isDone r = false → answers c s 0x84 tag [0x40] s) ∧
        ((options.getLsbD 0 = true → isDone r = true) →
          let left := if options.getLsbD 0 = true then { s with records := s.records.filter fun q => q.id != id } else s
          (cls = 0 → answers c s 0x84 tag (0x00 :: summaryBytes r) left) ∧
          ∀ k, (cls = 1 ∧ k = .confirmed ∨ cls = 2 ∧ k = .refused ∨ cls = 3 ∧ k = .unreached ∨ cls = 4 ∧ k = .unconfirmed) →
            let all := r.targets.filter fun g => classOf g.outcome == k && decide (start.toNat ≤ g.unit)
            let cont := if all.length ≤ 32 then 0xFFFF else (((all.take 32).getLast?.map Target.unit).getD 0) + 1
            answers c s 0x84 tag
              (0x00 :: summaryBytes r ++ ((all.take 32).flatMap (collectEntry s) ++ bytes2 cont)) left))) ∧
  ∀ r : Record, r.targets.length ≤ 1024 → r.roundsSent ≤ 4 → r.collided ≤ 65535 →
    (summaryBytes r).length = 11 ∧
    natOfBytes ((summaryBytes r).take 9) =
      ((((((collectState r.state * 8 + r.roundsSent) * 2048 + r.targets.length) * 2048 + countClass r .pending) * 2048 +
        countClass r .confirmed) * 2048 + countClass r .refused) * 2048 + countClass r .unreached) * 2048 +
        countClass r .unconfirmed ∧
    natOfBytes ((summaryBytes r).drop 9) = r.collided

/-- RESTART (R65, R88, R126, R142): the queue and the discovery list are emptied, every lane that holds an exchange is asked
to abort it by a request in transit (log 8), reservations, winners and deferrals are cleared, and everything else stays. -/
def Obligations.RestartEmptiesQueueAlone : Prop :=
  ∀ (tag : Byte) (s : State), s.lanesOk → s.uli.responses.length < 4 →
    answers (.restart tag) s 0x85 tag [0x00]
      { s with
        records := [], discovery := []
        abortRequests := s.abortRequests ++ allPhases.filterMap fun ph =>
          (laneOf s ph).exchange.map fun x => { lane := ph, serial := x.serial, cause := .restart }
        lanes := perPhase fun ph =>
          { laneOf s ph with
            winner := none, deferral := 0, reserved := none
            state := if (laneOf s ph).state = .reserved then .idle else (laneOf s ph).state } }

/-- An end report taken (R58, R59, R60): the answers settle the PENDING targets they name, an unanswered unicast that ended
ordinarily consumes an attempt and sets the backoff or spends the budget, markers and the in-flight unit set are cleared,
and the record has one exchange less in flight; with none left it is READY or COMPLETE, or DONE if it was closing. That
reports are picked from those in transit, and that nothing happens where there is none, is the model's own form (log 8). -/
def Obligations.EndReportSettlesTargets : Prop :=
  (∀ (n : Nat) (s : State), s.endReports.length ≤ n → becomes (.endReport n) s s) ∧
  ∀ (s : State) (before after : List EndReport) (rep : EndReport), s.queueOk → s.endReports = before ++ rep :: after →
    ∃ t more, exec (.endReport before.length) s = .next t ∧ t.endReports = before ++ after ++ more ∧
      t.inFlight = s.inFlight.filter (fun u => !rep.units.contains u) ∧ t.units = s.units ∧ t.clock = s.clock ∧
      t.profile = s.profile ∧ t.ptu = s.ptu ∧
      ∀ r ∈ s.records, r.serial = rep.serial → ∃ r' ∈ t.records, r'.serial = r.serial ∧
        r'.collided = min 65535 (r.collided + rep.collided) ∧ r'.flights = r.flights - 1 ∧
        (r.flights = 1 →
          (r.state = .active → r'.state = .ready ∨ r'.state = .done .complete) ∧
          (r.state = .closing .cancel → r'.state = .done .cancelled) ∧
          (r.state = .closing .expiry → r'.state = .done .expired)) ∧
        List.Forall₂ (fun g g' => g'.unit = g.unit ∧ (g.outcome ≠ .pending → g'.outcome = g.outcome) ∧
          (rep.units.contains g.unit = true → g'.inFlight = false) ∧
          (∀ a, g.outcome = .pending → rep.answered.find? (fun x => x.1 == g.unit) = some a →
            g'.outcome = (if a.2 = 0 then .confirmed else .refused a.2) ∧ g'.attempts = g.attempts ∧
              g'.notBefore = g.notBefore) ∧
          (rep.cause ≠ none ∨ rep.notAnswered ≠ some g.unit →
            g'.attempts = g.attempts ∧ g'.notBefore = g.notBefore) ∧
          (rep.cause = none → rep.notAnswered = some g.unit → g.outcome = .pending →
            rep.answered.find? (fun x => x.1 == g.unit) = none →
            g'.attempts = g.attempts + 1 ∧
            (g.attempts + 1 = r.budget → g'.outcome = .unreached .budgetSpent) ∧
            (g.attempts + 1 ≠ r.budget → g'.notBefore =
              some { time := rep.endTime + min 255 (s.profile.retry * (g.attempts + 1)) * 10240, passed := false })))
          r.targets r'.targets

/-- A target's not-before time passes (R55, R59, R69). Its event does nothing for an identifier that no record carries, for a
DONE record (R50), for a target that is not PENDING or has no such time waiting (log 13), and before that time, which is
the model's own choice (log 3). Otherwise the time is marked as passed (log 13), with every other target's as it was: the
target is eligible again just as R55's other conditions have it, and every lane chooses again, its pending winner being
the head of its candidates. -/
def Obligations.BackoffTimePasses : Prop :=
  ∀ (s : State) (id : BitVec 32) (u : Nat), s.queueOk → s.lanesOk →
    ((∀ r ∈ s.records, r.id ≠ id) → becomes (.notBeforeTimePasses id u) s s) ∧
    ∀ r ∈ s.records, r.id = id →
      let due := fun g : Target => g.unit = u ∧ g.outcome = .pending ∧
        ∃ nb, g.notBefore = some nb ∧ nb.passed = false ∧ nb.time ≤ s.now
      (isDone r = true ∨ (∀ g ∈ r.targets, ¬due g) → becomes (.notBeforeTimePasses id u) s s) ∧
      (isDone r = false → (∃ g ∈ r.targets, due g) → ∃ t, exec (.notBeforeTimePasses id u) s = .next t ∧
        outsideKept s t ∧ (∀ ph, (laneOf t ph).winner = (candidates t ph).head?) ∧
        recordChanges id (fun q q' => recordContinues q q' ∧
          List.Forall₂ (fun g g' => g'.attempts = g.attempts ∧ g'.inFlight = g.inFlight ∧
            (¬due g → g'.notBefore = g.notBefore) ∧
            (due g → g'.notBefore = g.notBefore.map (fun nb => { nb with passed := true }) ∧ backoffOver t g' = true ∧
              (eligible t q' g' = true ↔ g'.outcome = .pending ∧ g.inFlight = false ∧ u ∉ s.inFlight ∧
                g.attempts < q.budget ∧ ¬((unitAt s u).state = .silent ∧ 1 ≤ g.attempts)))) q.targets q'.targets) s t)

/-! ### Unit table -/

/-- A UNIT WRITE that passes the five checks (R24 to R32): the entry is stored with its learned fields settled, every other
entry stays, a live or redirected address leaves the discovery list, and the answer carries the entry. That no lane
chooses again, so that lanes and records stay as they are, is the model's own (log 21). -/
def Obligations.UnitWriteStoresEntry : Prop :=
  ∀ (tag : Byte) (f : UnitWriteFields) (s : State), s.tableOk → s.uli.responses.length < 4 → writeFieldsGood f →
    writeAddressFree s f → writeRouteGood s f → writeChainsGood s f → writeKeeps s f →
    ∃ units discovery, answers (.unitWrite tag f) s 0x90 tag
        (0x00 :: entryBytes { s with units } f.index.toNat) { s with units, discovery } ∧
      entryAt units f.index.toNat = entryWritten (unitAt s f.index.toNat) f ∧
      (∀ j, j ≠ f.index.toNat → entryAt units j = unitAt s j) ∧
      (f.state = 0 → discovery = s.discovery) ∧
      (f.state ≠ 0 → f.address ∉ discovery ∧ ∀ a, a ≠ f.address → (a ∈ discovery ↔ a ∈ s.discovery))

/-- A UNIT WRITE that fails a check (R24): the first check that fails gives the result code, ADDRESS_TAKEN with the index of
the holder, and nothing changes but the response queue. -/
def Obligations.UnitWriteRefusedByFirstFailingCheck : Prop :=
  ∀ (tag : Byte) (f : UnitWriteFields) (s : State), s.tableOk → s.uli.responses.length < 4 →
    let refused := fun content : List Byte => answers (.unitWrite tag f) s 0x90 tag content s
    (¬writeFieldsGood f → refused [0x03]) ∧
    (writeFieldsGood f →
      (∀ i, f.state ≠ 0 → i ≠ f.index.toNat → (unitAt s i).address = some f.address → refused (0x33 :: bytes2 i)) ∧
      (writeAddressFree s f →
        (¬writeRouteGood s f → refused [0x32]) ∧
        (writeRouteGood s f →
          (¬writeChainsGood s f → refused [0x31]) ∧
          (writeChainsGood s f → ¬writeKeeps s f → refused [0x30]))))

/-- The 26-byte record of an entry, field by field at its offset, absent and unused values as R172 and R175 give them. -/
def Sys2Proof.Claims.entryRecord (i : Nat) (e : Entry) (used : Prop) (b : List Byte) : Prop :=
  let byte := fun k => (b.getD k 0).toNat
  let word := fun k => byte k * 256 + byte (k + 1)
  b.length = 26 ∧ word 0 = i ∧
    byte 2 = (match e.state with
      | .empty => 0
      | .active => 1
      | .silent => 2
      | .redirected => 3) ∧
    word 3 * 65536 + word 5 = (match e.address with
      | some a => a.toNat
      | none => 0) ∧
    byte 7 = (match e.phase with
      | some .A => 0
      | some .B => 1
      | some .C => 2
      | none => 3) ∧
    word 8 = e.successor.getD 65535 ∧ byte 10 = e.route.length ∧ (∀ k, k < 3 → word (11 + 2 * k) = e.route.getD k 65535) ∧
    byte 17 = e.groups.length ∧ (∀ k, k < 4 → b.getD (18 + k) 0 = e.groups.getD k 0) ∧
    byte 22 = e.quality.getD 255 ∧ byte 23 = e.silence ∧ byte 24 = e.conflict ∧
    (used → byte 25 = 1) ∧ (¬used → byte 25 = 0)

/-- The values of an entry that its record has room for (R21). -/
def Sys2Proof.Claims.entryFits (e : Entry) : Prop :=
  e.route.length ≤ 3 ∧ (∀ r ∈ e.route, r ≤ 65535) ∧ e.groups.length ≤ 4 ∧ (∀ j, e.successor = some j → j ≤ 65535) ∧
    (∀ q, e.quality = some q → q ≤ 255) ∧ e.silence ≤ 255 ∧ e.conflict ≤ 255

/-- The requests that read without changing anything, and the discovery list's clearing (R34, R35, R127, R154): UNIT READ by
index and by address, DISCOVERY READ, PROFILE READ. Each entry is sent as the record of R175. -/
def Obligations.ReadRequestsAnswerFromState : Prop :=
  (∀ (s : State) (i : Nat), i ≤ 1023 → entryFits (unitAt s i) →
    entryRecord i (unitAt s i) (entryUsed s i) (entryBytes s i)) ∧
  ∀ (tag : Byte) (s : State), s.tableOk → s.uli.responses.length < 4 →
    (∀ start count,
      (1023 < start.toNat → answers (.unitReadByIndex tag start count) s 0x91 tag [0x03] s) ∧
      (start.toNat ≤ 1023 →
        let k := min (max 1 (min 8 count.toNat)) (1024 - start.toNat)
        answers (.unitReadByIndex tag start count) s 0x91 tag
          (0x00 :: BitVec.ofNat 8 k :: (List.range k).flatMap fun j => entryBytes s (start.toNat + j)) s)) ∧
    (∀ address,
      (∀ i, (unitAt s i).address = some address →
        answers (.unitReadByAddress tag address) s 0x91 tag (0x00 :: 0x01 :: entryBytes s i) s) ∧
      ((∀ i, (unitAt s i).address ≠ some address) → answers (.unitReadByAddress tag address) s 0x91 tag [0x13] s)) ∧
    (∀ option : Byte,
      (1 < option.toNat → answers (.discoveryRead tag option) s 0x92 tag [0x03] s) ∧
      (option.toNat ≤ 1 → answers (.discoveryRead tag option) s 0x92 tag
        (0x00 :: BitVec.ofNat 8 s.discovery.length :: s.discovery.flatMap fun a => bytes4 a.toNat)
        { s with discovery := if option = 1 then [] else s.discovery })) ∧
    answers (.profileRead tag) s 0xA1 tag (0x00 :: (List.range 9).map fun k => BitVec.ofNat 8 (settingAt s.profile k)) s

/-- One kept answer learned from (R119 to R123, R126). A live entry that holds the address has its silence count cleared and
is ACTIVE; a direct answer also sets its quality and teaches its phase, the third conflict in a row moving it with
PHASE_MOVED. An address no entry holds joins the discovery list, or is dropped when it is full; a redirected address and
the two reserved ones teach nothing. Where no such report is in transit nothing happens, the model's own choice (log 8). -/
def Obligations.AnswerTeachesTable : Prop :=
  (∀ (n : Nat) (s : State), s.learningReports.length ≤ n → becomes (.learningReport n) s s) ∧
  ∀ (s : State) (before after : List LearningReport) (ans : KeptAnswer), s.tableOk →
    s.learningReports = before ++ { answers := [ans], silence := none } :: after →
    ∃ t more, exec (.learningReport before.length) s = .next t ∧ t.learningReports = before ++ after ++ more ∧
      t.profile = s.profile ∧ t.clock = s.clock ∧ t.ptu = s.ptu ∧ t.inFlight = s.inFlight ∧
      (∀ i, (unitAt s i).address = some ans.address →
        let e := unitAt s i
        t.discovery = s.discovery ∧ (∀ j, j ≠ i → unitAt t j = unitAt s j) ∧
        (isLive e = false → unitAt t i = e) ∧
        (isLive e = true → ans.hops ≠ 0 → unitAt t i = { e with silence := 0, state := .active }) ∧
        (isLive e = true → ans.hops = 0 →
          let direct := { e with silence := 0, state := .active, quality := some ans.quality }
          (e.phase = none → unitAt t i = { direct with phase := some ans.lane, conflict := 0 }) ∧
          (e.phase = some ans.lane → unitAt t i = { direct with conflict := 0 }) ∧
          (∀ q, e.phase = some q → q ≠ ans.lane →
            (e.conflict = 2 → unitAt t i = { direct with phase := some ans.lane, conflict := 0 } ∧
              flagSet t .phaseMoved = true) ∧
            (e.conflict ≠ 2 → unitAt t i = { direct with conflict := e.conflict + 1 })))) ∧
      ((∀ i, (unitAt s i).address ≠ some ans.address) → t.units = s.units ∧
        (ans.address = 0 ∨ ans.address = 0xFFFFFFFF ∨ ans.address ∈ s.discovery → t.discovery = s.discovery) ∧
        (ans.address ≠ 0 → ans.address ≠ 0xFFFFFFFF → ans.address ∉ s.discovery →
          (s.discovery.length < 32 → t.discovery = s.discovery ++ [ans.address] ∧ flagSet t .discovery = true) ∧
          (s.discovery.length = 32 → t.discovery = s.discovery ∧ flagSet t .discoveryFull = true)))

/-- The silence item of a learning report (R124): a live entry that still holds the address counts one more silence, up to
255, and an ACTIVE one whose count reaches the threshold becomes SILENT; otherwise the item is ignored. At threshold 1 this
is the model's choice between R124 and R33 (log 41). -/
def Obligations.SilenceItemCountsTowardSilent : Prop :=
  ∀ (s : State) (before after : List LearningReport) (i : Nat) (a : Address), s.tableOk →
    s.learningReports = before ++ { answers := [], silence := some (i, a) } :: after →
    let e := unitAt s i
    let n := min 255 (e.silence + 1)
    ∃ t, exec (.learningReport before.length) s = .next t ∧ (∀ j, j ≠ i → unitAt t j = unitAt s j) ∧
      t.discovery = s.discovery ∧
      (isLive e = true → e.address = some a → unitAt t i =
        { e with silence := n, state := if e.state = .active ∧ s.profile.silence ≤ n then .silent else e.state }) ∧
      (isLive e = false ∨ e.address ≠ some a → unitAt t i = e)

/-! ### Profile store, snapshot, mask and the unknown kind -/

/-- PROFILE WRITE (R155, R156): BAD_FIELD for a mask beyond the nine settings; WRONG_STATE where W would change while some
lane is RESERVED or occupied; otherwise each named setting takes its clamped value and the others keep theirs, robust
leave being held below robust enter, and the answer carries all nine. -/
def Obligations.ProfileWriteStoresClampedSettings : Prop :=
  ∀ (tag : Byte) (mask : BitVec 16) (values : List Byte) (s : State), s.queueOk → s.uli.responses.length < 4 →
    values.length = namedSettings mask →
    let c : Instr := .profileWrite tag mask values
    let engaged := ∃ ph, (laneOf s ph).state = .reserved ∨ (laneOf s ph).state = .armed ∨
      (laneOf s ph).state = .sending ∨ (laneOf s ph).state = .listening
    let written := settingWritten s.profile mask values
    (511 < mask.toNat → answers c s 0xA0 tag [0x03] s) ∧
    (mask.toNat ≤ 511 →
      (written 0 ≠ s.profile.w → engaged → answers c s 0xA0 tag [0x40] s) ∧
      (¬(written 0 ≠ s.profile.w ∧ engaged) → ∃ t, exec c s = .next t ∧
        (∀ k, k < 9 → settingAt t.profile k = if k = 7 ∧ written 6 ≤ written 7 then written 6 - 1 else written k) ∧
        responseQueued s.uli t.uli
          { kind := 0xA0, tag, content := 0x00 :: (List.range 9).map fun k => BitVec.ofNat 8 (settingAt t.profile k) } ∧
        t.now = s.now ∧ t.ptu = s.ptu ∧ t.clock = s.clock ∧ t.units = s.units ∧ t.lcm = s.lcm ∧
        t.inFlight = s.inFlight ∧ List.Forall₂ recordContinues s.records t.records))

/-- The 47 bytes of a snapshot after its result code, item by item at its offset: three lane blocks of 11 bytes, then what
concerns the whole part (R174). -/
def Sys2Proof.Claims.snapshotBytes (s : State) (b : List Byte) : Prop :=
  let byte := fun k => (b.getD k 0).toNat
  let word := fun k => byte k * 256 + byte (k + 1)
  b.length = 47 ∧
    (∀ ph, let k := 11 * laneRank ph
      byte k = (match (laneOf s ph).state with
        | .idle => 0
        | .reserved => 1
        | .armed => 2
        | .sending => 3
        | .listening => 4
        | .paused => 5
        | .stopped => 6
        | .settling => 7) ∧
      byte (k + 1) = (match (ptuOf s ph).timing with
        | .locking => 0
        | .locked => 1
        | .coasting => 2
        | .lost => 3) ∧
      word (k + 2) = (ptuOf s ph).p ∧ byte (k + 4) = (ptuOf s ph).missCount ∧
      byte (k + 5) = (match (laneOf s ph).winner with
        | some i => i.priority
        | none => 0) ∧
      byte (k + 6) = (match (laneOf s ph).exchange with
        | some x => x.priority
        | none => 0) ∧
      byte (k + 7) = (if (lcmOf s ph).mode = .robust then 1 else 0) ∧ byte (k + 8) = (lcmOf s ph).floor ∧
      byte (k + 9) = (if (lcmOf s ph).latch = true then 1 else 0) ∧ byte (k + 10) = (laneOf s ph).deferral) ∧
    byte 33 = s.records.length ∧ byte 34 = (if s.clock.isSet = true then 1 else 0) ∧
    word 35 * 65536 + word 37 = s.clock.seconds ∧ word 39 * 65536 + word 41 = s.clock.sub ∧
    word 43 = s.events.flags.toNat ∧ word 45 = s.events.mask.toNat

/-- The values of the state that a snapshot has room for. -/
def Sys2Proof.Claims.snapshotFits (s : State) : Prop :=
  s.records.length ≤ 255 ∧ s.clock.seconds ≤ 4294967295 ∧ s.clock.sub ≤ 4294967295 ∧
    ∀ ph, (ptuOf s ph).p ≤ 65535 ∧ (ptuOf s ph).missCount ≤ 255 ∧ (lcmOf s ph).floor ≤ 255 ∧
      (laneOf s ph).deferral ≤ 255 ∧ (∀ i, (laneOf s ph).winner = some i → i.priority ≤ 255) ∧
      ∀ x, (laneOf s ph).exchange = some x → x.priority ≤ 255

/-- STATUS and MASK WRITE (R157, R158, R162, R174). STATUS answers with the snapshot, laid out as R174 says, and at the same
instant clears every flag, and the latches where asked, and no NOTICE is owed any more; MASK WRITE replaces the mask,
leaves the flags, and leaves a NOTICE owed just where some set flag has its position set in the new mask: that it is so
even where the old mask had it set is the model's reading (log 45). Each refuses its bad fields. -/
def Obligations.StatusAndMaskSettleNotices : Prop :=
  (∀ s : State, snapshotFits s → snapshotBytes s (statusBytes s)) ∧
  ∀ (tag : Byte) (s : State), s.uli.responses.length < 4 →
    (∀ option : Byte,
      (1 < option.toNat → answers (.status tag option) s 0xB2 tag [0x03] s) ∧
      (option.toNat ≤ 1 → ∃ t, exec (.status tag option) s = .next t ∧ t.uli.noticeDue = false ∧
        responseQueued s.uli t.uli { kind := 0xB2, tag, content := 0x00 :: statusBytes s } ∧
        t = { s with
          events := { s.events with flags := 0 }
          lcm := if option = 1 then perPhase (fun ph => { lcmOf s ph with latch := false }) else s.lcm
          uli := t.uli, draws := t.draws })) ∧
    ∀ mask : BitVec 16,
      (4095 < mask.toNat → answers (.maskWrite tag mask) s 0xB3 tag [0x03] s) ∧
      (mask.toNat ≤ 4095 → ∃ t, exec (.maskWrite tag mask) s = .next t ∧
        responseQueued s.uli t.uli { kind := 0xB3, tag, content := 0x00 :: bytes2 mask.toNat } ∧
        t = { s with events := { s.events with mask := mask.setWidth 12 }, uli := t.uli, draws := t.draws } ∧
        (s.uli.tx ≠ .free → (t.uli.noticeDue = true ↔ ∃ f, flagSet s f = true ∧ unmasked t f = true)))

/-- The kinds of the fourteen requests (R149). -/
def Sys2Proof.Claims.requestKinds : List Byte :=
  [0x01, 0x02, 0x03, 0x04, 0x05, 0x10, 0x11, 0x12, 0x20, 0x21, 0x30, 0x31, 0x32, 0x33]

/-- The content has the length that its kind has, its count fields read as they stand (R149, R173). -/
def Sys2Proof.Claims.lengthFits (kind : Byte) (content : List Byte) : Prop :=
  let count := fun k => (content.getD k 0).toNat
  if kind = 0x01 then 24 ≤ content.length ∧ content.length = 24 + count 23
  else if kind = 0x10 then 12 ≤ content.length ∧ content.length = 12 + 2 * count 10 + count 11
  else if kind = 0x20 then 2 ≤ content.length ∧
    content.length = 2 + namedSettings (word2 (content.getD 0 0) (content.getD 1 0))
  else content.length =
    if kind = 0x05 ∨ kind = 0x21 then 0
    else if kind = 0x12 ∨ kind = 0x32 then 1
    else if kind = 0x31 ∨ kind = 0x33 then 2
    else if kind = 0x02 ∨ kind = 0x30 then 4
    else if kind = 0x03 then 6
    else 8

/-- The first two checks of a good frame (R149). One of an unknown kind is answered with kind 0xFF, its tag, BAD_KIND and the
kind received; one of a known kind whose content has the wrong length, received byte by byte, with its kind plus 0x80, its
tag and BAD_LENGTH. Neither does anything else. -/
def Obligations.UnknownKindAnsweredBadKind : Prop :=
  (∀ (kind tag : Byte) (content : List Byte) (s : State), s.uli.responses.length < 4 → kind ∉ requestKinds →
    answers (.badKind kind tag content) s 0xFF tag [0x01, kind] s) ∧
  ∀ (kind tag : Byte) (content : List Byte) (s : State), s.uli.responses.length < 4 → kind ∈ requestKinds →
    content.length ≤ 238 → ¬lengthFits kind content → s.uli.rx = .hunting → s.uli.partialFrame = none →
    ∃ u d, receive (wireBytes { kind, tag, content }) s = .next { s with uli := u, draws := d } ∧
      responseQueued s.uli u { kind := kind + 0x80, tag, content := [0x02] }

/-! ### Uplink -/

/-- Bytes that leave no frame complete and discard none (R144), and the byte with a framing fault that a hunting receiver
ignores (R146). -/
def Obligations.ReceiverCountsBytes : Prop :=
  ∀ (b : Byte) (s : State),
    let takes := fun (st : RxState) (p : Option PartialFrame) =>
      ∃ u, exec (.receivedByte b false) s = .next { s with uli := u } ∧
        uplinkKept { s.uli with rx := st, partialFrame := p } u
    (s.uli.rx = .hunting → b = 0x5A →
      takes .length (some { length := none, body := [], crc := [], lastAt := s.now })) ∧
    (s.uli.rx = .hunting → b ≠ 0x5A → becomes (.receivedByte b false) s s) ∧
    (s.uli.rx = .hunting → becomes (.receivedByte b true) s s) ∧
    ∀ p, s.uli.partialFrame = some p →
      (s.uli.rx = .length → 2 ≤ b.toNat → b.toNat ≤ 240 →
        takes .body (some { p with length := some b, lastAt := s.now })) ∧
      (∀ len, s.uli.rx = .body → p.length = some len →
        (p.body.length + 1 = len.toNat →
          takes .crc (some { p with body := p.body ++ [b], lastAt := s.now })) ∧
        (p.body.length + 1 ≠ len.toNat →
          takes .body (some { p with body := p.body ++ [b], lastAt := s.now }))) ∧
      (s.uli.rx = .crc → p.crc = [] → takes .crc (some { p with crc := [b], lastAt := s.now }))

/-- Every way to lose a frame in reception (R144 to R147): the receiver hunts again with the frame dropped, UPLINK_ERROR is
raised, and nothing is answered. INTER_BYTE_TIMEOUT before the timer has expired does nothing, which is the model's own
choice (log 3), as is the tick of expiry (log 14). -/
def Obligations.DamagedFrameIsDiscarded : Prop :=
  ∀ (c : Instr) (s : State) (p : PartialFrame), s.uli.partialFrame = some p → s.uli.rx ≠ .hunting →
    ((∃ b, c = .receivedByte b true) ∨
      (∃ b : Byte, c = .receivedByte b false ∧ s.uli.rx = .length ∧ (b.toNat < 2 ∨ 240 < b.toNat)) ∨
      (∃ b c1 len, c = .receivedByte b false ∧ s.uli.rx = .crc ∧ p.crc = [c1] ∧ p.length = some len ∧
        word2 c1 b ≠ crcOfBytes (len :: p.body)) ∨
      (c = .interByteTimeout ∧ p.lastAt + 2048 < s.now) →
      ∃ t, exec c s = .next t ∧ flagSet t .uplinkError = true ∧
        t = { s with events := t.events, uli := t.uli } ∧ flagsKept s.events t.events ∧ t.events.mask = s.events.mask ∧
        uplinkFlagged { s.uli with rx := .hunting, partialFrame := none } t.uli) ∧
    (c = .interByteTimeout → s.now ≤ p.lastAt + 2048 → becomes c s s)

/-- The command that a frame stands for: a well-formed request whose frame it is, or BAD_KIND of an unknown kind (R149,
log 6). -/
def Sys2Proof.Claims.frameRuns (g : Frame) (c : Instr) : Prop :=
  (c.wellFormed = true ∧ ∃ tag rq, requestOf c = some (tag, rq) ∧ g = requestFrame tag rq) ∨
    (c = .badKind g.kind g.tag g.content ∧ g.kind ∉ requestKinds)

/-- The last stop bit of a frame (R148, R151, R152, R153): before it nothing happens; at it a response leaves the queue, and
with the waiting slot empty the oldest response left starts, or a NOTICE that is owed with the flags set and unmasked,
or nothing. With a frame in the slot that frame is taken: the command does what the frame's own request does with the
response gone, the slot empty and the transmitter free, and one response more stands at the end of the queue. That the
command does nothing before its moment, how that moment is counted, and that the slot is taken in the same step are
the model's own choices (log 3, 23, 7). -/
def Obligations.TransmitterFreeStartsNext : Prop :=
  ∀ (s : State) (f : Frame) (since : Nat),
    let bits := (f.content.length + 6) * 10
    let elapsed := (s.now - since) * lineRate s.uli.baud
    let next := fun (queue : List Frame) (u : Uli) =>
      u = { s.uli with responses := queue, tx := u.tx, noticeDue := u.noticeDue } ∧
      (∀ g rest, queue = g :: rest → u.tx = .response g s.now ∧ u.noticeDue = s.uli.noticeDue) ∧
      (queue = [] → s.uli.noticeDue = true → u.noticeDue = false ∧
        u.tx = .notice { kind := 0xC0, tag := 0, content := bytes2 (reportable s).toNat } s.now) ∧
      (queue = [] → s.uli.noticeDue = false → u.tx = .free ∧ u.noticeDue = false)
    ((s.uli.tx = .response f since ∨ s.uli.tx = .notice f since) → elapsed < bits * 1024000 →
      exec .transmitterFree s = .next s) ∧
    (s.uli.tx = .notice f since → bits * 1024000 ≤ elapsed →
      ∃ u, exec .transmitterFree s = .next { s with uli := u } ∧ next s.uli.responses u) ∧
    (s.uli.tx = .response f since → bits * 1024000 ≤ elapsed →
      (s.uli.slot = none → ∃ u, exec .transmitterFree s = .next { s with uli := u } ∧ next s.uli.responses.tail u) ∧
      (∀ g, s.uli.slot = some g → s.uli.responses.tail.length < 4 →
        (∃ t answer, exec .transmitterFree s = .next t ∧
          t.uli.slot = none ∧ t.uli.responses = s.uli.responses.tail ++ [answer] ∧ answer.tag = g.tag) ∧
        ∀ c, frameRuns g c → exec .transmitterFree s =
          exec c { s with uli := { s.uli with tx := .free, responses := s.uli.responses.tail, slot := none } }))

/-- A good frame that finds the response queue full waits in the slot, or is lost with UPLINK_ERROR where the slot is taken
(R148), whichever request it is. WAITING_SLOT_TAKEN takes the slot's frame where there is room, doing what the frame's own
request does with the slot empty, and otherwise does nothing, which is the model's own choice (log 7). -/
def Obligations.FullQueueHoldsOneFrame : Prop :=
  (∀ (c : Instr) (s : State) (tag : Byte) (rq : Request), requestOf c = some (tag, rq) → 4 ≤ s.uli.responses.length →
    (s.uli.slot = none → ∃ u, exec c s = .next { s with uli := u } ∧
      uplinkKept { s.uli with slot := some { kind := requestKind rq, tag, content := requestContent rq } } u) ∧
    (∀ g, s.uli.slot = some g → ∃ t, exec c s = .next t ∧ flagSet t .uplinkError = true ∧
      t = { s with events := t.events, uli := t.uli } ∧ uplinkFlagged s.uli t.uli)) ∧
  ∀ s : State,
    (s.uli.slot = none ∨ 4 ≤ s.uli.responses.length → becomes .waitingSlotTaken s s) ∧
    ∀ g, s.uli.slot = some g → s.uli.responses.length < 4 →
      (∃ t answer, exec .waitingSlotTaken s = .next t ∧
        t.uli.slot = none ∧ t.uli.responses = s.uli.responses ++ [answer] ∧ answer.tag = g.tag) ∧
      ∀ c, frameRuns g c → exec .waitingSlotTaken s = exec c { s with uli := { s.uli with slot := none } }

/-- Raising a flag (R160): it comes up set, clears nothing, touches no other flag and not the mask, and marks a NOTICE due
just where it was clear and is unmasked. -/
def Obligations.RaisingSetsFlagAndNotice : Prop :=
  ∀ (f : Flag) (s : State),
    flagSet (raise f s) f = true ∧ (∀ g, g ≠ f → flagSet (raise f s) g = flagSet s g) ∧
    (raise f s).events.mask = s.events.mask ∧
    ((raise f s).uli.noticeDue = true ↔ s.uli.noticeDue = true ∨ flagSet s f = false ∧ unmasked s f = true) ∧
    (flagSet s f = true → raise f s = s) ∧
    raise f s = { s with events := (raise f s).events, uli := { s.uli with noticeDue := (raise f s).uli.noticeDue } }

/-! ### Encodings -/

/-- Reading a frame that carries a well-formed command's request gives that request back, every field at every value that
its command gives it; and so for a UNIT READ and a LANE CONTROL with any bytes at all, those that the form ignores and the
actions that no command has among them (R149, R173, R175). -/
def Obligations.RequestFramesReadBack : Prop :=
  (∀ (c : Instr) (tag : Byte) (rq : Request), c.wellFormed = true → requestOf c = some (tag, rq) →
    parseFrame (requestFrame tag rq) = .request rq) ∧
  (∀ (tag form count : Byte) (start : BitVec 16) (address : Address),
    parseFrame (requestFrame tag (.unitRead form start count address)) = .request (.unitRead form start count address)) ∧
  ∀ tag mask action : Byte,
    parseFrame (requestFrame tag (.laneControl mask action)) = .request (.laneControl mask action)

/-- The bytes of a well-formed request's frame, received one by one by a hunting receiver in one tick, do exactly what the
request's own command does: start byte, length, body and CRC are found, checked and taken (R144, R147 to R149). Of bytes
that come at different ticks nothing is said here. That a request's command stands for its whole frame is the model's own
choice (log 6). -/
def Obligations.ReceivedFrameBytesRunTheRequest : Prop :=
  ∀ (c : Instr) (tag : Byte) (rq : Request) (s : State), c.wellFormed = true → requestOf c = some (tag, rq) →
    s.uli.rx = .hunting → s.uli.partialFrame = none → receive (wireBytes (requestFrame tag rq)) s = exec c s

/-- The samples of an answer frame's half-cycles, placed window by window by R95 in a mode: window `i` of half-cycle `k`. -/
def Sys2Proof.Claims.placedAnswer (mode : Mode) (w : Nat) (bits : List Bool) (k : Nat) : List Sample :=
  (List.range w).map fun i =>
    { rxd := match bitIndexAt mode (w - 2) k i with
        | some j => bits.getD j false
        | none => false
      cd := true, lq := false }

/-- An answer frame placed on the window grid by R95 and sampled without a weak bit is read back whole (R94, R96, R103 to
R105): the lane judges it good, with the address and status it carries and quality 15, in either mode and at every
window count. -/
def Obligations.PlacedAnswerReadsBack : Prop :=
  ∀ (mode : Mode) (w lineTag : Nat) (address : Address) (status : Byte), 24 ≤ w → w ≤ 96 → lineTag < 65536 →
    let covered := bitsOf 16 lineTag ++ bitsOf 32 address.toNat ++ bitsOf 8 status.toNat
    let bits := bitsOf 16 0x9B3C ++ covered ++ bitsOf 16 (crcOfBits covered).toNat
    judgeAnswer mode w lineTag
        ((List.range (halfCyclesFor 88 (bitsPerHalf (w - 2) mode))).map (placedAnswer mode w bits)) =
      .good { address, status, quality := 15 }

/-! ### Broadcast rounds -/

/-- A PENDING target that is reached directly (R42, R52). -/
def Sys2Proof.Claims.directPending (s : State) (g : Target) : Bool :=
  g.outcome == .pending && (unitAt s g.unit).route.isEmpty

/-- The lane is neither STOPPED nor on a LOST phase (R53). -/
def Sys2Proof.Claims.inReach (s : State) (ph : Phase) : Bool :=
  (laneOf s ph).state != .stopped && (ptuOf s ph).timing != .lost

/-- The parts of a round as it begins (R52, R53), over the units of its PENDING direct targets: one joined part for DISCOVER
or where some unit's phase is UNKNOWN, and otherwise one for each lane that holds a unit; each OFFERED, or skipped at once
where no lane that could carry it is in reach. -/
def Sys2Proof.Claims.laidOut (s : State) (discover : Bool) (units : List Nat) : List Part :=
  let standing := fun reach : Bool => if reach = true then Standing.offered else .ended
  if discover || units.any fun u => (unitAt s u).phase == none then
    [{ lane := none, standing := standing (allPhases.any (inReach s)) }]
  else
    (allPhases.filter fun ph => units.any fun u => (unitAt s u).phase == some ph).map fun ph =>
      { lane := some ph, standing := standing (inReach s ph) }

/-- The record's target is one that goes out in broadcast rounds first (R51). -/
def Sys2Proof.Claims.roundsFirst (spec : TargetSpec) : Prop :=
  spec = .all ∨ spec = .cond .allActive ∨ spec = .cond .discover ∨ ∃ g, spec = .group g ∨ spec = .cond (.group g)

/-- A SUBMIT that passes every check of R43, with its target set. -/
def Sys2Proof.Claims.submitPasses (s : State) (f : SubmitFields) (set : List Nat) : Prop :=
  ¬submitBad f ∧ (∀ r ∈ s.records, r.id ≠ f.id) ∧ s.records.length < 64 ∧
    (f.release ≠ 0 ∨ f.deadline ≠ 0 → s.clock.isSet = true) ∧ (f.deadline ≠ 0 → s.clock.seconds < f.deadline.toNat) ∧
    (f.release ≠ 0 → f.deadline ≠ 0 → f.release.toNat < f.deadline.toNat) ∧
    expandTarget s.units (submitTarget f) = some set ∧ (set ≠ [] ∨ submitTarget f = .cond .discover)

/-- The one candidate of a free lane on a LOCKED phase is a broadcast part of a record with no deadline, at a boundary that
ends a quiet half-cycle; a joined part finds no other lane usable. -/
def Sys2Proof.Claims.lonePart (s : State) (ph : Phase) (h : HalfCycle) (cyc : Cycle) (r : Record) (k : Nat)
    (joined : Bool) : Prop :=
  boundaryReady s ph h cyc ∧ (ptuOf s ph).timing = .locked ∧ (laneOf s ph).state = .idle ∧
    (lcmOf s ph).start = some { state := .idle, gap := false } ∧ s.lanesOk ∧ s.queueOk ∧ profileOk s.profile ∧
    r ∈ s.records ∧ r.deadline = 0 ∧ r.payload.length ≤ 16 ∧ r.windows ≤ 31 ∧
    candidates s ph = [{ serial := r.serial, work := .part k, joined, priority := r.priority }] ∧
    (∀ q ∈ s.records, evaluationEnds s q = false) ∧ (joined = true → ∀ q, q ≠ ph → usable s q = false)

/-- The parts of a round with the standing of some of them changed. -/
def Sys2Proof.Claims.partsMoved (parts : List Part) (lane : Option Phase) (before after : Standing) : List Part :=
  parts.map fun p => if p.lane = lane ∧ p.standing = before then { p with standing := after } else p

/-- A record's broadcast rounds (R51 to R54, R57, R99, R117), in four clauses.
A record admitted READY begins its stage: round 1 laid out by R52 for GROUP, ALL, the conditions 1 and 2 and DISCOVER, and
FOLLOW-UP for the rest or where no target is direct; if every part is skipped all its rounds pass at once.
A free lane on a clear line grants the part it is offered, over itself alone: its targets fixed, the part IN FLIGHT, and the
exchange latched with the plan of R99. The exchange's number is the model's own (log 18), and a DISCOVER frame's n is R97's
(log 43).
The end report of a part ends it, or offers it again after a preemption or an abort as a whole by STOP; when the round's last
part has ended, with every lane in reach, rounds sent counts one more and the next round is laid out, or the stage ends.
A STOP that takes a lane out skips the OFFERED parts of that lane. -/
def Obligations.BroadcastRoundsRun : Prop :=
  (∀ (tag : Byte) (f : SubmitFields) (s : State) (set : List Nat), s.queueOk → s.lanesOk → s.uli.responses.length < 4 →
    submitPasses s f set → f.release.toNat ≤ s.clock.seconds →
    let discover := submitTarget f == .cond .discover
    let direct := set.filter fun u => (unitAt s u).route.isEmpty
    let parts := laidOut s discover direct
    ∃ t olds r, exec (.submit tag f) s = .next t ∧ t.records = olds ++ [r] ∧ r.id = f.id ∧
      (¬roundsFirst (submitTarget f) ∨ (discover = false ∧ direct = []) →
        r.stage = .followUp ∧ r.parts = [] ∧ r.roundsSent = 0) ∧
      (roundsFirst (submitTarget f) → discover = true ∨ direct ≠ [] →
        ((∃ p ∈ parts, p.standing = .offered) → r.stage = .broadcast 1 ∧ r.parts = parts ∧ r.roundsSent = 0) ∧
        ((∀ p ∈ parts, p.standing = .ended) → r.parts = [] ∧ r.rounds = some r.roundsSent ∧
          (discover = true → r.state = .done .complete ∧ flagSet t .recordDone = true) ∧
          (discover = false → r.stage = .followUp ∧ ∀ g ∈ r.targets, (unitAt s g.unit).route = [] →
            g.outcome = if r.windows = 0 then .unconfirmed else .pending)))) ∧
  (∀ (ph : Phase) (mf joined : Bool) (o : ReportOrder) (s : State) (h : HalfCycle) (cyc : Cycle) (r : Record) (k : Nat),
    lonePart s ph h cyc r k joined → busy h ≤ (h.w - 2) / 8 →
    let units := (r.targets.filter fun g =>
      directPending s g && !s.inFlight.contains g.unit && (joined || (unitAt s g.unit).phase == some ph)).map Target.unit
    ∃ t x, exec (.halfCycleBoundary ph mf o) s = .next t ∧ (laneOf t ph).state = .sending ∧
      (laneOf t ph).deferral = 0 ∧ t.inFlight = s.inFlight ++ units ∧ t.nextExchange = s.nextExchange + 1 ∧
      (∃ r' ∈ t.records, r'.serial = r.serial ∧ r'.state = .active ∧ r'.flights = r.flights + 1 ∧ r'.stage = r.stage ∧
        r'.roundsSent = r.roundsSent ∧
        r'.parts = partsMoved r.parts (if joined then none else some ph) .offered .inFlight ∧
        r'.targets = r.targets.map fun g => if g.unit ∈ units then { g with inFlight := true } else g) ∧
      (laneOf t ph).exchange = some x ∧ x.exch = s.nextExchange ∧ x.serial = r.serial ∧ x.lineTag = r.tag ∧
      x.work = .part k ∧ x.joined = joined ∧ x.mode = latchedMode s t ph mf ∧
      x.targets = units.map (fun u => (u, ((unitAt s u).address).getD 0)) ∧ x.position = 1 ∧ x.priority = r.priority ∧
      x.forced = false ∧ x.abortDue = none ∧ x.wholeAbort = none ∧ x.heard = [] ∧ x.decodes = [] ∧ x.collided = 0 ∧
      x.frame = lineFrame r (.part k) 0 [] x.mode ∧ (x.boost = true ↔ x.mode = .robust) ∧
      x.plan.kind = .broadcast r.windows ∧ x.plan.lanes = (if joined then [ph] else []) ∧
      x.plan.n = ceilDiv x.frame.length (bitsAHalf s.profile.w x.mode) ∧
      x.plan.a = ceilDiv 88 (bitsAHalf s.profile.w x.mode) ∧
      x.plan.t = if r.windows = 0 then x.plan.n + 1 else x.plan.n + 1 + r.windows * x.plan.a + 1) ∧
  (∀ (s : State) (before after : List EndReport) (rep : EndReport) (r : Record) (k : Nat), s.queueOk → s.lanesOk →
    s.endReports = before ++ rep :: after → r ∈ s.records → r.serial = rep.serial → rep.work = .part k →
    rep.notAnswered = none →
    let answered := fun g : Target => rep.answered.any fun a => a.1 == g.unit
    let discover := r.target == .cond .discover
    let direct := (r.targets.filter fun g => directPending s g && !answered g).map Target.unit
    let redone := rep.cause = some .preempted ∨ rep.cause = some .stopped ∧ rep.abortedWhole = true
    let more := ∃ b, r.rounds = some b ∧ r.roundsSent + 1 < b
    ∃ t r', exec (.endReport before.length) s = .next t ∧ r' ∈ t.records ∧ r'.serial = r.serial ∧
      (∀ c, r.state = .closing c → r'.parts = partsMoved r.parts rep.lane .inFlight .ended ∧
        r'.roundsSent = r.roundsSent ∧ r'.stage = r.stage) ∧
      (r.state = .ready ∨ r.state = .active → (∀ ph, inReach s ph = true) → rep.cause ≠ some .expiry →
        rep.cause ≠ some .restart →
        ∀ parts, (redone → parts = partsMoved r.parts rep.lane .inFlight .offered) →
          (¬redone → parts = partsMoved r.parts rep.lane .inFlight .ended) →
          ((∃ p ∈ parts, p.standing ≠ .ended) →
            r'.parts = parts ∧ r'.roundsSent = r.roundsSent ∧ r'.stage = r.stage) ∧
          (parts ≠ [] → (∀ p ∈ parts, p.standing = .ended) → r'.roundsSent = r.roundsSent + 1 ∧
            (more → discover = true ∨ direct ≠ [] →
              r'.stage = .broadcast (r.roundsSent + 2) ∧ r'.parts = laidOut s discover direct) ∧
            (¬more → discover = true → r'.parts = [] ∧
              (r.state = .active → r.flights = 1 → (∃ b, r.rounds = some b) → r'.state = .done .complete)) ∧
            (discover = false → ¬more ∨ direct = [] → r'.stage = .followUp ∧ r'.parts = [] ∧
              List.Forall₂ (fun g g' => directPending s g = true → answered g = false →
                (r.windows = 0 → g'.outcome = .unconfirmed) ∧
                (r.windows ≠ 0 → g.attempts = 0 → g'.outcome = .pending)) r.targets r'.targets)))) ∧
  ∀ (tag mask : Byte) (ph : Phase) (s : State) (r : Record), s.queueOk → s.lanesOk → s.uli.responses.length < 4 →
    maskLanes mask = [ph] → mask.toNat ≤ 7 → isOccupied (laneOf s ph).state = false → (laneOf s ph).state ≠ .stopped →
    (∀ q, q ≠ ph → inReach s q = true) → r ∈ s.records → r.state = .ready ∨ r.state = .active →
    let parts := partsMoved r.parts (some ph) .offered .ended
    ∃ t r', exec (.stop tag mask) s = .next t ∧ r' ∈ t.records ∧ r'.serial = r.serial ∧
      ((∃ p ∈ parts, p.standing ≠ .ended) →
        r'.parts = parts ∧ r'.roundsSent = r.roundsSent ∧ r'.stage = r.stage) ∧
      (parts ≠ [] → (∀ p ∈ parts, p.standing = .ended) → r.roundsSent < r'.roundsSent)
end

