-- ==== Sys2Proof/Laws/Records.lean ====
section
/-! SUPPORT. What the queue's functions of one record can do to it: said once here, and cited by every later proof. -/

namespace Sys2Proof.Machine

/-- What the queue's own work (everything but ADJUST) keeps of a record. -/
structure RecordWorks (r r' : Record) : Prop where
  continues : recordContinues r r'
  priority : r'.priority = r.priority
  enable : r'.enable = r.enable
  budgetOk : withinBudget r → withinBudget r'
  settledOk : settled r → settled r'

theorem targetContinues_refl (t : Target) : targetContinues t t := ⟨rfl, fun _ => rfl⟩

theorem targetContinues_trans {a b c : Target} (h : targetContinues a b) (k : targetContinues b c) :
    targetContinues a c :=
  ⟨k.1.trans h.1, fun ha => by
    have hb := h.2 ha
    rw [k.2 (by rw [hb]; exact ha), hb]⟩

theorem forall₂_targets_refl (ts : List Target) : List.Forall₂ targetContinues ts ts :=
  List.forall₂_same.2 fun t _ => targetContinues_refl t

theorem forall₂_targets_trans : ∀ {a b c : List Target}, List.Forall₂ targetContinues a b →
    List.Forall₂ targetContinues b c → List.Forall₂ targetContinues a c
  | _, _, _, .nil, .nil => .nil
  | _, _, _, .cons h hs, .cons k ks => .cons (targetContinues_trans h k) (forall₂_targets_trans hs ks)

theorem forall₂_targets_map (g : Target → Target) (hg : ∀ t, targetContinues t (g t)) :
    ∀ ts, List.Forall₂ targetContinues ts (ts.map g)
  | [] => .nil
  | t :: ts => .cons (hg t) (forall₂_targets_map g hg ts)

theorem recordContinues_trans {a b c : Record} (h : recordContinues a b) (k : recordContinues b c) :
    recordContinues a c := by
  obtain ⟨h1, h2, h3, h4, h5, h6, h7, h8, h9, h10, h11, h12⟩ := h
  obtain ⟨k1, k2, k3, k4, k5, k6, k7, k8, k9, k10, k11, k12⟩ := k
  exact ⟨k1.trans h1, k2.trans h2, k3.trans h3, k4.trans h4, k5.trans h5, k6.trans h6, k7.trans h7, k8.trans h8,
    k9.trans h9, k10.trans h10, k11.trans h11, forall₂_targets_trans h12 k12⟩

theorem recordContinues_refl (r : Record) : recordContinues r r :=
  ⟨rfl, rfl, rfl, rfl, rfl, rfl, rfl, rfl, rfl, rfl, rfl, forall₂_targets_refl _⟩

theorem RecordWorks.refl (r : Record) : RecordWorks r r := ⟨recordContinues_refl r, rfl, rfl, id, id⟩

theorem RecordWorks.trans {a b c : Record} (h : RecordWorks a b) (k : RecordWorks b c) : RecordWorks a c :=
  ⟨recordContinues_trans h.continues k.continues, k.priority.trans h.priority, k.enable.trans h.enable,
    k.budgetOk ∘ h.budgetOk, k.settledOk ∘ h.settledOk⟩

/-- The stage, the parts and the counts of rounds and collisions bear on nothing that a record keeps for life. -/
theorem works_of_stage (r : Record) (st : Stage) (ps : List Part) (n c : Nat) (seen : PerPhase Bool) :
    RecordWorks r { r with stage := st, parts := ps, roundsSent := n, collided := c, lanesSeen := seen } :=
  ⟨⟨rfl, rfl, rfl, rfl, rfl, rfl, rfl, rfl, rfl, rfl, rfl, forall₂_targets_refl _⟩, rfl, rfl, id, id⟩

/-- A change of the targets, one by one, that ends no outcome again and stays within the budget. -/
theorem works_of_targets (r : Record) (g : Target → Target) (hg : ∀ t, targetContinues t (g t))
    (hb : ∀ t, targetWithin r.budget t → targetWithin r.budget (g t)) :
    RecordWorks r { r with targets := r.targets.map g } := by
  refine ⟨⟨rfl, rfl, rfl, rfl, rfl, rfl, rfl, rfl, rfl, rfl, rfl, forall₂_targets_map g hg _⟩, rfl, rfl, ?_, ?_⟩
  · intro h t ht
    obtain ⟨u, hu, rfl⟩ := List.mem_map.1 ht
    exact hb u (h u hu)
  · rintro ⟨h1, h2, h3⟩
    refine ⟨fun hd => ?_, h2, fun hd => ⟨(h3 hd).1, fun t ht => ?_⟩⟩
    · show r.targets.map g = []
      rw [h1 hd]
      rfl
    · obtain ⟨u, hu, rfl⟩ := List.mem_map.1 ht
      have := (h3 hd).2 u hu
      rw [(hg u).2 this]
      exact this

/-- A change of a PENDING target's outcome alone. -/
theorem outcome_step {b : Nat} {t : Target} {o : TargetOutcome} (c : Prop) [Decidable c] (h : c → t.outcome = .pending)
    (ho : o ≠ .pending) :
    targetContinues t (if c then { t with outcome := o } else t) ∧
      (targetWithin b t → targetWithin b (if c then { t with outcome := o } else t)) := by
  split
  · exact ⟨⟨rfl, fun hn => absurd (h ‹_›) hn⟩, fun hw => ⟨hw.1, fun hp => absurd hp ho⟩⟩
  · exact ⟨targetContinues_refl t, id⟩

/-! ### Entering DONE -/

theorem closeTarget_continues (s : State) (r : Record) (o : FinalOutcome) (t : Target) :
    targetContinues t (closeTarget s r o t) := by
  unfold closeTarget
  split
  · rename_i h
    cases o <;> exact ⟨rfl, fun hn => absurd h hn⟩
  · exact targetContinues_refl t

theorem closeTarget_within (s : State) (r : Record) (o : FinalOutcome) (b : Nat) (t : Target)
    (h : targetWithin b t) : targetWithin b (closeTarget s r o t) := by
  unfold closeTarget
  split
  · cases o
    · exact h
    · exact ⟨h.1, fun hp => by cases hp⟩
    · exact ⟨h.1, fun hp => by cases hp⟩
  · exact h

theorem closeTarget_not_pending (s : State) (r : Record) {o : FinalOutcome} (ho : o ≠ .complete) (t : Target) :
    (closeTarget s r o t).outcome ≠ .pending := by
  unfold closeTarget
  split
  · cases o
    · exact absurd rfl ho
    · simp
    · simp
  · assumption

/-- Entering DONE, from a record with nothing in flight; at COMPLETE no target is PENDING. -/
theorem enterDone_works (s : State) (o : FinalOutcome) (r : Record) (h0 : settled r → r.flights = 0)
    (hc : o = .complete → settled r → ∀ t ∈ r.targets, t.outcome ≠ .pending) : RecordWorks r (enterDone s o r) := by
  refine ⟨⟨rfl, rfl, rfl, rfl, rfl, rfl, rfl, rfl, rfl, rfl, rfl,
    forall₂_targets_map _ (closeTarget_continues s r o) _⟩, rfl, rfl, ?_, ?_⟩
  · intro h t ht
    obtain ⟨u, hu, rfl⟩ := List.mem_map.1 ht
    exact closeTarget_within s r o _ u (h u hu)
  · intro h
    refine ⟨fun hd => ?_, fun hw => ?_, fun _ => ⟨h0 h, fun t ht => ?_⟩⟩
    · show r.targets.map _ = []
      rw [h.1 hd]
      rfl
    · rcases hw with hw | hw <;> cases hw
    · obtain ⟨u, hu, rfl⟩ := List.mem_map.1 ht
      by_cases ho : o = .complete
      · subst ho
        have hu' := hc rfl h u hu
        rw [(closeTarget_continues s r .complete u).2 hu']
        exact hu'
      · exact closeTarget_not_pending s r ho u

theorem completeIfFinished_works (s : State) (r : Record) : RecordWorks r (completeIfFinished s r) := by
  unfold completeIfFinished
  split
  · rename_i h
    refine enterDone_works s _ r (fun _ => h.2.1) fun _ hs t ht => ?_
    rcases h.2.2 with ⟨-, hp⟩ | ⟨hd, -⟩
    · intro hout
      simp only [hasPending, List.any_eq_false] at hp
      exact hp t ht (by simp [hout])
    · rw [hs.1 hd] at ht
      exact absurd ht (by simp)
  · exact .refl r

/-! ### Stages and rounds -/

theorem endBroadcast_works (s : State) (r : Record) : RecordWorks r (endBroadcast s r) := by
  unfold endBroadcast
  refine RecordWorks.trans ?_ (completeIfFinished_works s _)
  by_cases hw : r.windows = 0
  · simp only [hw, ↓reduceIte]
    have h := works_of_targets r (fun t => if pendingDirect s t then { t with outcome := .unconfirmed } else t)
      (fun t => (outcome_step (b := 0) _ (fun h => by simp [pendingDirect] at h; exact h.1) (by simp)).1)
      (fun t => (outcome_step _ (fun h => by simp [pendingDirect] at h; exact h.1) (by simp)).2)
    have k := h.trans (works_of_stage _ .followUp [] r.roundsSent r.collided r.lanesSeen)
    simpa only [hw] using k
  · simp only [hw, ↓reduceIte]
    exact works_of_stage r .followUp [] r.roundsSent r.collided r.lanesSeen

theorem settleRounds_works (s : State) : ∀ (fuel : Nat) (r : Record), RecordWorks r (settleRounds s fuel r)
  | 0, r => .refl r
  | fuel + 1, r => by
    unfold settleRounds
    have step : ∀ (st : Stage) (ps : List Part) (n : Nat), RecordWorks r
        (settleRounds s fuel { r with stage := st, parts := ps, roundsSent := n }) := fun st ps n =>
      (works_of_stage r st ps n r.collided r.lanesSeen).trans (settleRounds_works s fuel _)
    split
    · dsimp only
      split
      · split
        · split
          · exact step _ _ _
          · exact (works_of_stage r r.stage [] (r.roundsSent + 1) r.collided r.lanesSeen).trans
              (completeIfFinished_works s _)
        · split
          · exact step _ _ _
          · exact (works_of_stage r r.stage _ (r.roundsSent + 1) r.collided r.lanesSeen).trans
              (endBroadcast_works s _)
      · exact works_of_stage r r.stage _ r.roundsSent r.collided r.lanesSeen
    · exact .refl r

theorem beginStage_works (s : State) (r : Record) : RecordWorks r (beginStage s r) := by
  unfold beginStage
  split
  · exact completeIfFinished_works s r
  · split
    · exact (works_of_stage r r.stage _ r.roundsSent r.collided r.lanesSeen).trans (settleRounds_works s _ _)
    · exact (works_of_stage r .followUp [] r.roundsSent r.collided r.lanesSeen).trans (completeIfFinished_works s _)

/-! ### Evaluation, grants, reports -/

theorem evaluateRecord_works (s : State) (r : Record) : RecordWorks r (evaluateRecord s r) := by
  unfold evaluateRecord
  split
  · refine RecordWorks.trans ?_ (completeIfFinished_works s _)
    exact works_of_targets r _
      (fun t => (outcome_step (b := 0) _ (fun h => by simp [silentSpent] at h; exact h.1.1.1) (by simp)).1)
      (fun t => (outcome_step _ (fun h => by simp [silentSpent] at h; exact h.1.1.1) (by simp)).2)
  · exact .refl r

theorem applyAnswered_step (answered : List (Nat × Byte)) (b : Nat) (t : Target) :
    targetContinues t (applyAnswered answered t) ∧ (targetWithin b t → targetWithin b (applyAnswered answered t)) := by
  unfold applyAnswered
  split
  · exact ⟨targetContinues_refl t, id⟩
  · exact outcome_step _ id (by split <;> simp)

theorem applyNoAnswer_step (retry b endTime : Nat) (t : Target) :
    targetContinues t (applyNoAnswer retry b endTime t) ∧
      (targetWithin b t → targetWithin b (applyNoAnswer retry b endTime t)) := by
  unfold applyNoAnswer
  split
  · rename_i hp
    dsimp only
    split
    · exact ⟨⟨rfl, fun hn => absurd hp hn⟩, fun h => ⟨by have := h.2 hp; show t.attempts + 1 ≤ b; omega,
        fun hq => by cases hq⟩⟩
    · exact ⟨⟨rfl, fun hn => absurd hp hn⟩, fun h => by
        have := h.2 hp
        exact ⟨by show t.attempts + 1 ≤ b; omega, fun _ => by show t.attempts + 1 < b; omega⟩⟩
  · exact ⟨targetContinues_refl t, id⟩

theorem reportedRecord_works (s : State) (rep : EndReport) (r : Record) : RecordWorks r (reportedRecord s rep r) := by
  have h := works_of_targets r
    (fun t =>
      let t1 := applyAnswered rep.answered t
      let t2 := if rep.cause = none ∧ rep.notAnswered = some t.unit then
          applyNoAnswer s.profile.retry r.budget rep.endTime t1 else t1
      if rep.units.contains t.unit then { t2 with inFlight := false } else t2)
    (fun t => by
      dsimp only
      have h1 := (applyAnswered_step rep.answered 0 t).1
      have h2 : targetContinues t (if rep.cause = none ∧ rep.notAnswered = some t.unit then
          applyNoAnswer s.profile.retry r.budget rep.endTime (applyAnswered rep.answered t)
          else applyAnswered rep.answered t) := by
        split
        · exact targetContinues_trans h1 (applyNoAnswer_step _ _ _ _).1
        · exact h1
      split
      · exact h2
      · exact h2)
    (fun t ht => by
      dsimp only
      have h1 := (applyAnswered_step rep.answered r.budget t).2 ht
      have h2 : targetWithin r.budget (if rep.cause = none ∧ rep.notAnswered = some t.unit then
          applyNoAnswer s.profile.retry r.budget rep.endTime (applyAnswered rep.answered t)
          else applyAnswered rep.answered t) := by
        split
        · exact (applyNoAnswer_step _ _ _ _).2 h1
        · exact h1
      split
      · exact h2
      · exact h2)
  exact h.trans (works_of_stage _ r.stage _ r.roundsSent _ r.lanesSeen)

/-- A count of exchanges in flight, and the state, changed together: what the settled property asks of it. -/
theorem works_of_state (r : Record) (st : RecordState) (n : Nat)
    (h : settled r → (st = .waiting ∨ st = .ready → n = 0) ∧
      (∀ o, st = .done o → n = 0 ∧ ∀ t ∈ r.targets, t.outcome ≠ .pending)) :
    RecordWorks r { r with state := st, flights := n } := by
  refine ⟨⟨rfl, rfl, rfl, rfl, rfl, rfl, rfl, rfl, rfl, rfl, rfl, forall₂_targets_refl _⟩, rfl, rfl, id, ?_⟩
  intro hs
  obtain ⟨h1, h2⟩ := h hs
  refine ⟨hs.1, h1, fun hd => ?_⟩
  cases st with
  | done o => exact h2 o rfl
  | waiting => simp [isDone] at hd
  | ready => simp [isDone] at hd
  | active => simp [isDone] at hd
  | closing c => simp [isDone] at hd

/-- Nothing in flight is fewer: the property of a settled record outlives the count's decrease. -/
theorem works_of_flights (r : Record) : RecordWorks r { r with flights := r.flights - 1 } := by
  refine works_of_state r r.state (r.flights - 1) fun hs => ⟨fun h => ?_, fun o ho => ?_⟩
  · have := hs.2.1 h
    omega
  · have := hs.2.2 (by simp [isDone, ho])
    exact ⟨by omega, this.2⟩

theorem settleFlight_works (s : State) (r : Record) : RecordWorks r (settleFlight s r) := by
  unfold settleFlight
  refine (works_of_flights r).trans ?_
  dsimp only
  split
  · rename_i h0
    split
    · refine RecordWorks.trans ?_ (completeIfFinished_works s _)
      exact works_of_state _ .ready _ fun _ => ⟨fun _ => h0, fun o ho => by cases ho⟩
    · exact enterDone_works s _ _ (fun _ => h0) (fun h => by cases h)
    · exact enterDone_works s _ _ (fun _ => h0) (fun h => by cases h)
    · exact .refl _
    · exact .refl _
    · exact .refl _
  · exact .refl _

theorem clockRecord_works (s : State) (r : Record) : RecordWorks r (clockRecord s r) := by
  unfold clockRecord
  split
  · split
    · rename_i hst
      exact enterDone_works s _ r (fun h => h.2.1 (.inl hst)) (fun h => by cases h)
    · rename_i hst
      exact enterDone_works s _ r (fun h => h.2.1 (.inr hst)) (fun h => by cases h)
    · exact works_of_state r _ r.flights fun _ =>
        ⟨fun h => (by rcases h with h | h <;> cases h), fun o ho => (by cases ho)⟩
    · exact .refl r
    · exact .refl r
  · split
    · rename_i h
      refine RecordWorks.trans ?_ (beginStage_works s _)
      exact works_of_state r .ready r.flights fun hs => ⟨fun _ => hs.2.1 (.inl h.1), fun o ho => by cases ho⟩
    · exact .refl r

/-- What a grant does to its record, which is READY or ACTIVE (R57). -/
theorem granted_works (r : Record) (units : List Nat) (ps : List Part) (h : r.state = .ready ∨ r.state = .active) :
    RecordWorks r
      { r with
        state := if r.state = .ready then .active else r.state
        flights := r.flights + 1
        targets := r.targets.map fun t => if units.contains t.unit then { t with inFlight := true } else t
        parts := ps } := by
  have h1 := works_of_targets r (fun t => if units.contains t.unit then { t with inFlight := true } else t)
    (fun t => by split <;> exact ⟨rfl, fun _ => rfl⟩)
    (fun t ht => by split <;> exact ht)
  have h2 := h1.trans (works_of_stage _ r.stage ps r.roundsSent r.collided r.lanesSeen)
  refine h2.trans (works_of_state _ (if r.state = .ready then .active else r.state) (r.flights + 1) fun _ => ?_)
  rcases h with h | h <;> simp [h]

end Sys2Proof.Machine
end

