-- ==== Sys2Proof/Laws/State.lean ====
section
/-! SUPPORT. What each update of the state leaves alone and what it writes: one lemma for each field of each setter, so
that no later proof unfolds a record update. -/

namespace Sys2Proof.Machine

/-! ### Values held per phase -/

@[simp] theorem atPhase_putPhase_self {α : Type} (x : PerPhase α) (ph : Phase) (v : α) :
    atPhase (putPhase x ph v) ph = v := by cases ph <;> rfl

theorem atPhase_putPhase_of_ne {α : Type} (x : PerPhase α) {ph q : Phase} (v : α) (h : q ≠ ph) :
    atPhase (putPhase x ph v) q = atPhase x q := by
  cases ph <;> cases q <;> first | rfl | exact absurd rfl h

@[simp] theorem atPhase_perPhase {α : Type} (f : Phase → α) (ph : Phase) : atPhase (perPhase f) ph = f ph := by
  cases ph <;> rfl

theorem perPhase_ext {α : Type} {x y : PerPhase α} (h : ∀ ph, atPhase x ph = atPhase y ph) : x = y := by
  have ha := h .A
  have hb := h .B
  have hc := h .C
  cases x
  cases y
  simp only [atPhase] at ha hb hc
  subst ha hb hc
  rfl

@[simp] theorem putPhase_atPhase_self {α : Type} (x : PerPhase α) (ph : Phase) : putPhase x ph (atPhase x ph) = x := by
  cases ph <;> rfl

theorem mem_allPhases (ph : Phase) : ph ∈ allPhases := by cases ph <;> decide


/-! ### setLane -/

@[simp] theorem setLane_now (s : State) (ph : Phase) (v : Lane) : (setLane s ph v).now = s.now := rfl
@[simp] theorem setLane_ptu (s : State) (ph : Phase) (v : Lane) : (setLane s ph v).ptu = s.ptu := rfl
@[simp] theorem setLane_clock (s : State) (ph : Phase) (v : Lane) : (setLane s ph v).clock = s.clock := rfl
@[simp] theorem setLane_profile (s : State) (ph : Phase) (v : Lane) : (setLane s ph v).profile = s.profile := rfl
@[simp] theorem setLane_units (s : State) (ph : Phase) (v : Lane) : (setLane s ph v).units = s.units := rfl
@[simp] theorem setLane_discovery (s : State) (ph : Phase) (v : Lane) : (setLane s ph v).discovery = s.discovery := rfl
@[simp] theorem setLane_records (s : State) (ph : Phase) (v : Lane) : (setLane s ph v).records = s.records := rfl
@[simp] theorem setLane_tagCounter (s : State) (ph : Phase) (v : Lane) : (setLane s ph v).tagCounter = s.tagCounter := rfl
@[simp] theorem setLane_inFlight (s : State) (ph : Phase) (v : Lane) : (setLane s ph v).inFlight = s.inFlight := rfl
@[simp] theorem setLane_nextSerial (s : State) (ph : Phase) (v : Lane) : (setLane s ph v).nextSerial = s.nextSerial := rfl
@[simp] theorem setLane_nextExchange (s : State) (ph : Phase) (v : Lane) : (setLane s ph v).nextExchange = s.nextExchange := rfl
@[simp] theorem setLane_lanes (s : State) (ph : Phase) (v : Lane) : (setLane s ph v).lanes = putPhase s.lanes ph v := rfl
@[simp] theorem setLane_endedParts (s : State) (ph : Phase) (v : Lane) : (setLane s ph v).endedParts = s.endedParts := rfl
@[simp] theorem setLane_endReports (s : State) (ph : Phase) (v : Lane) : (setLane s ph v).endReports = s.endReports := rfl
@[simp] theorem setLane_learningReports (s : State) (ph : Phase) (v : Lane) : (setLane s ph v).learningReports = s.learningReports := rfl
@[simp] theorem setLane_abortRequests (s : State) (ph : Phase) (v : Lane) : (setLane s ph v).abortRequests = s.abortRequests := rfl
@[simp] theorem setLane_lcm (s : State) (ph : Phase) (v : Lane) : (setLane s ph v).lcm = s.lcm := rfl
@[simp] theorem setLane_uli (s : State) (ph : Phase) (v : Lane) : (setLane s ph v).uli = s.uli := rfl
@[simp] theorem setLane_events (s : State) (ph : Phase) (v : Lane) : (setLane s ph v).events = s.events := rfl
@[simp] theorem setLane_draws (s : State) (ph : Phase) (v : Lane) : (setLane s ph v).draws = s.draws := rfl
@[simp] theorem setLane_pending (s : State) (ph : Phase) (v : Lane) : (setLane s ph v).pending = s.pending := rfl

/-! ### setPtu -/

@[simp] theorem setPtu_now (s : State) (ph : Phase) (v : Ptu) : (setPtu s ph v).now = s.now := rfl
@[simp] theorem setPtu_ptu (s : State) (ph : Phase) (v : Ptu) : (setPtu s ph v).ptu = putPhase s.ptu ph v := rfl
@[simp] theorem setPtu_clock (s : State) (ph : Phase) (v : Ptu) : (setPtu s ph v).clock = s.clock := rfl
@[simp] theorem setPtu_profile (s : State) (ph : Phase) (v : Ptu) : (setPtu s ph v).profile = s.profile := rfl
@[simp] theorem setPtu_units (s : State) (ph : Phase) (v : Ptu) : (setPtu s ph v).units = s.units := rfl
@[simp] theorem setPtu_discovery (s : State) (ph : Phase) (v : Ptu) : (setPtu s ph v).discovery = s.discovery := rfl
@[simp] theorem setPtu_records (s : State) (ph : Phase) (v : Ptu) : (setPtu s ph v).records = s.records := rfl
@[simp] theorem setPtu_tagCounter (s : State) (ph : Phase) (v : Ptu) : (setPtu s ph v).tagCounter = s.tagCounter := rfl
@[simp] theorem setPtu_inFlight (s : State) (ph : Phase) (v : Ptu) : (setPtu s ph v).inFlight = s.inFlight := rfl
@[simp] theorem setPtu_nextSerial (s : State) (ph : Phase) (v : Ptu) : (setPtu s ph v).nextSerial = s.nextSerial := rfl
@[simp] theorem setPtu_nextExchange (s : State) (ph : Phase) (v : Ptu) : (setPtu s ph v).nextExchange = s.nextExchange := rfl
@[simp] theorem setPtu_lanes (s : State) (ph : Phase) (v : Ptu) : (setPtu s ph v).lanes = s.lanes := rfl
@[simp] theorem setPtu_endedParts (s : State) (ph : Phase) (v : Ptu) : (setPtu s ph v).endedParts = s.endedParts := rfl
@[simp] theorem setPtu_endReports (s : State) (ph : Phase) (v : Ptu) : (setPtu s ph v).endReports = s.endReports := rfl
@[simp] theorem setPtu_learningReports (s : State) (ph : Phase) (v : Ptu) : (setPtu s ph v).learningReports = s.learningReports := rfl
@[simp] theorem setPtu_abortRequests (s : State) (ph : Phase) (v : Ptu) : (setPtu s ph v).abortRequests = s.abortRequests := rfl
@[simp] theorem setPtu_lcm (s : State) (ph : Phase) (v : Ptu) : (setPtu s ph v).lcm = s.lcm := rfl
@[simp] theorem setPtu_uli (s : State) (ph : Phase) (v : Ptu) : (setPtu s ph v).uli = s.uli := rfl
@[simp] theorem setPtu_events (s : State) (ph : Phase) (v : Ptu) : (setPtu s ph v).events = s.events := rfl
@[simp] theorem setPtu_draws (s : State) (ph : Phase) (v : Ptu) : (setPtu s ph v).draws = s.draws := rfl
@[simp] theorem setPtu_pending (s : State) (ph : Phase) (v : Ptu) : (setPtu s ph v).pending = s.pending := rfl

/-! ### setLcm -/

@[simp] theorem setLcm_now (s : State) (ph : Phase) (v : Lcm) : (setLcm s ph v).now = s.now := rfl
@[simp] theorem setLcm_ptu (s : State) (ph : Phase) (v : Lcm) : (setLcm s ph v).ptu = s.ptu := rfl
@[simp] theorem setLcm_clock (s : State) (ph : Phase) (v : Lcm) : (setLcm s ph v).clock = s.clock := rfl
@[simp] theorem setLcm_profile (s : State) (ph : Phase) (v : Lcm) : (setLcm s ph v).profile = s.profile := rfl
@[simp] theorem setLcm_units (s : State) (ph : Phase) (v : Lcm) : (setLcm s ph v).units = s.units := rfl
@[simp] theorem setLcm_discovery (s : State) (ph : Phase) (v : Lcm) : (setLcm s ph v).discovery = s.discovery := rfl
@[simp] theorem setLcm_records (s : State) (ph : Phase) (v : Lcm) : (setLcm s ph v).records = s.records := rfl
@[simp] theorem setLcm_tagCounter (s : State) (ph : Phase) (v : Lcm) : (setLcm s ph v).tagCounter = s.tagCounter := rfl
@[simp] theorem setLcm_inFlight (s : State) (ph : Phase) (v : Lcm) : (setLcm s ph v).inFlight = s.inFlight := rfl
@[simp] theorem setLcm_nextSerial (s : State) (ph : Phase) (v : Lcm) : (setLcm s ph v).nextSerial = s.nextSerial := rfl
@[simp] theorem setLcm_nextExchange (s : State) (ph : Phase) (v : Lcm) : (setLcm s ph v).nextExchange = s.nextExchange := rfl
@[simp] theorem setLcm_lanes (s : State) (ph : Phase) (v : Lcm) : (setLcm s ph v).lanes = s.lanes := rfl
@[simp] theorem setLcm_endedParts (s : State) (ph : Phase) (v : Lcm) : (setLcm s ph v).endedParts = s.endedParts := rfl
@[simp] theorem setLcm_endReports (s : State) (ph : Phase) (v : Lcm) : (setLcm s ph v).endReports = s.endReports := rfl
@[simp] theorem setLcm_learningReports (s : State) (ph : Phase) (v : Lcm) : (setLcm s ph v).learningReports = s.learningReports := rfl
@[simp] theorem setLcm_abortRequests (s : State) (ph : Phase) (v : Lcm) : (setLcm s ph v).abortRequests = s.abortRequests := rfl
@[simp] theorem setLcm_lcm (s : State) (ph : Phase) (v : Lcm) : (setLcm s ph v).lcm = putPhase s.lcm ph v := rfl
@[simp] theorem setLcm_uli (s : State) (ph : Phase) (v : Lcm) : (setLcm s ph v).uli = s.uli := rfl
@[simp] theorem setLcm_events (s : State) (ph : Phase) (v : Lcm) : (setLcm s ph v).events = s.events := rfl
@[simp] theorem setLcm_draws (s : State) (ph : Phase) (v : Lcm) : (setLcm s ph v).draws = s.draws := rfl
@[simp] theorem setLcm_pending (s : State) (ph : Phase) (v : Lcm) : (setLcm s ph v).pending = s.pending := rfl

/-! ### setUli -/

@[simp] theorem setUli_now (s : State) (v : Uli) : (setUli s v).now = s.now := rfl
@[simp] theorem setUli_ptu (s : State) (v : Uli) : (setUli s v).ptu = s.ptu := rfl
@[simp] theorem setUli_clock (s : State) (v : Uli) : (setUli s v).clock = s.clock := rfl
@[simp] theorem setUli_profile (s : State) (v : Uli) : (setUli s v).profile = s.profile := rfl
@[simp] theorem setUli_units (s : State) (v : Uli) : (setUli s v).units = s.units := rfl
@[simp] theorem setUli_discovery (s : State) (v : Uli) : (setUli s v).discovery = s.discovery := rfl
@[simp] theorem setUli_records (s : State) (v : Uli) : (setUli s v).records = s.records := rfl
@[simp] theorem setUli_tagCounter (s : State) (v : Uli) : (setUli s v).tagCounter = s.tagCounter := rfl
@[simp] theorem setUli_inFlight (s : State) (v : Uli) : (setUli s v).inFlight = s.inFlight := rfl
@[simp] theorem setUli_nextSerial (s : State) (v : Uli) : (setUli s v).nextSerial = s.nextSerial := rfl
@[simp] theorem setUli_nextExchange (s : State) (v : Uli) : (setUli s v).nextExchange = s.nextExchange := rfl
@[simp] theorem setUli_lanes (s : State) (v : Uli) : (setUli s v).lanes = s.lanes := rfl
@[simp] theorem setUli_endedParts (s : State) (v : Uli) : (setUli s v).endedParts = s.endedParts := rfl
@[simp] theorem setUli_endReports (s : State) (v : Uli) : (setUli s v).endReports = s.endReports := rfl
@[simp] theorem setUli_learningReports (s : State) (v : Uli) : (setUli s v).learningReports = s.learningReports := rfl
@[simp] theorem setUli_abortRequests (s : State) (v : Uli) : (setUli s v).abortRequests = s.abortRequests := rfl
@[simp] theorem setUli_lcm (s : State) (v : Uli) : (setUli s v).lcm = s.lcm := rfl
@[simp] theorem setUli_uli (s : State) (v : Uli) : (setUli s v).uli = v := rfl
@[simp] theorem setUli_events (s : State) (v : Uli) : (setUli s v).events = s.events := rfl
@[simp] theorem setUli_draws (s : State) (v : Uli) : (setUli s v).draws = s.draws := rfl
@[simp] theorem setUli_pending (s : State) (v : Uli) : (setUli s v).pending = s.pending := rfl

/-! ### One phase's unit after a setter -/

@[simp] theorem laneOf_setLane_self (s : State) (ph : Phase) (v : Lane) : laneOf (setLane s ph v) ph = v :=
  atPhase_putPhase_self ..

theorem laneOf_setLane_of_ne (s : State) {ph q : Phase} (v : Lane) (h : q ≠ ph) :
    laneOf (setLane s ph v) q = laneOf s q := atPhase_putPhase_of_ne _ _ h

@[simp] theorem ptuOf_setPtu_self (s : State) (ph : Phase) (v : Ptu) : ptuOf (setPtu s ph v) ph = v :=
  atPhase_putPhase_self ..

theorem ptuOf_setPtu_of_ne (s : State) {ph q : Phase} (v : Ptu) (h : q ≠ ph) :
    ptuOf (setPtu s ph v) q = ptuOf s q := atPhase_putPhase_of_ne _ _ h

@[simp] theorem lcmOf_setLcm_self (s : State) (ph : Phase) (v : Lcm) : lcmOf (setLcm s ph v) ph = v :=
  atPhase_putPhase_self ..

theorem lcmOf_setLcm_of_ne (s : State) {ph q : Phase} (v : Lcm) (h : q ≠ ph) :
    lcmOf (setLcm s ph v) q = lcmOf s q := atPhase_putPhase_of_ne _ _ h

@[simp] theorem ptuOf_setLane (s : State) (ph q : Phase) (v : Lane) : ptuOf (setLane s ph v) q = ptuOf s q := rfl
@[simp] theorem lcmOf_setLane (s : State) (ph q : Phase) (v : Lane) : lcmOf (setLane s ph v) q = lcmOf s q := rfl
@[simp] theorem laneOf_setPtu (s : State) (ph q : Phase) (v : Ptu) : laneOf (setPtu s ph v) q = laneOf s q := rfl
@[simp] theorem lcmOf_setPtu (s : State) (ph q : Phase) (v : Ptu) : lcmOf (setPtu s ph v) q = lcmOf s q := rfl
@[simp] theorem laneOf_setLcm (s : State) (ph q : Phase) (v : Lcm) : laneOf (setLcm s ph v) q = laneOf s q := rfl
@[simp] theorem ptuOf_setLcm (s : State) (ph q : Phase) (v : Lcm) : ptuOf (setLcm s ph v) q = ptuOf s q := rfl

end Sys2Proof.Machine
end

