-- ==== Sys2Proof/Laws/Frames.lean ====
section
/-! SUPPORT. What the shared operations of the queue and the lanes can change of the state: one lemma for each
operation, in terms of two relations between the state before and the state after. -/

namespace Sys2Proof.Machine

/-- What every operation of the queue and the lanes keeps, whatever else it does. -/
structure LaneSide (s t : State) : Prop where
  now : t.now = s.now
  ptu : t.ptu = s.ptu
  clock : t.clock = s.clock
  profile : t.profile = s.profile
  tagCounter : t.tagCounter = s.tagCounter
  nextSerial : t.nextSerial = s.nextSerial
  abortRequests : t.abortRequests = s.abortRequests
  lcm : t.lcm = s.lcm
  draws : t.draws = s.draws
  pending : t.pending = s.pending
  mask : t.events.mask = s.events.mask
  flags : flagsKept s.events t.events
  uli : t.uli = { s.uli with noticeDue := t.uli.noticeDue }
  due : t.uli.noticeDue = true → s.uli.noticeDue = true ∨ reportable t ≠ 0
  serials : t.records.map Record.serial = s.records.map Record.serial
  records : (s.records.map Record.serial).Nodup → List.Forall₂ RecordWorks s.records t.records

/-- What an operation keeps that grants nothing and teaches the table nothing. -/
structure LaneWork (s t : State) : Prop extends LaneSide s t where
  units : t.units = s.units
  discovery : t.discovery = s.discovery
  inFlight : t.inFlight = s.inFlight
  nextExchange : t.nextExchange = s.nextExchange

/-! ### The relations compose -/

theorem flagsKept_refl (e : Events) : flagsKept e e := by simp [flagsKept]

theorem flagsKept_trans {a b c : Events} (h : flagsKept a b) (k : flagsKept b c) : flagsKept a c := by
  unfold flagsKept at *
  calc a.flags &&& c.flags = (a.flags &&& b.flags) &&& c.flags := by rw [h]
    _ = a.flags &&& (b.flags &&& c.flags) := BitVec.and_assoc ..
    _ = a.flags := by rw [k, h]

theorem reportable_mono {s t : State} (hm : t.events.mask = s.events.mask) (hf : flagsKept s.events t.events)
    (h : reportable s ≠ 0) : reportable t ≠ 0 := by
  intro h0
  apply h
  unfold reportable at *
  rw [← hf, BitVec.and_assoc, ← hm, h0]
  simp

theorem forall₂_works_refl (rs : List Record) : List.Forall₂ RecordWorks rs rs :=
  List.forall₂_same.2 fun r _ => RecordWorks.refl r

theorem forall₂_works_trans : ∀ {a b c : List Record}, List.Forall₂ RecordWorks a b → List.Forall₂ RecordWorks b c →
    List.Forall₂ RecordWorks a c
  | _, _, _, .nil, .nil => .nil
  | _, _, _, .cons h hs, .cons k ks => .cons (h.trans k) (forall₂_works_trans hs ks)

theorem LaneSide.refl (s : State) : LaneSide s s :=
  ⟨rfl, rfl, rfl, rfl, rfl, rfl, rfl, rfl, rfl, rfl, rfl, flagsKept_refl _, rfl, .inl, rfl, fun _ => forall₂_works_refl _⟩

theorem LaneSide.trans {a b c : State} (h : LaneSide a b) (k : LaneSide b c) : LaneSide a c where
  now := k.now.trans h.now
  ptu := k.ptu.trans h.ptu
  clock := k.clock.trans h.clock
  profile := k.profile.trans h.profile
  tagCounter := k.tagCounter.trans h.tagCounter
  nextSerial := k.nextSerial.trans h.nextSerial
  abortRequests := k.abortRequests.trans h.abortRequests
  lcm := k.lcm.trans h.lcm
  draws := k.draws.trans h.draws
  pending := k.pending.trans h.pending
  mask := k.mask.trans h.mask
  flags := flagsKept_trans h.flags k.flags
  uli := by rw [k.uli, h.uli]
  due hc := by
    rcases k.due hc with hb | hb
    · rcases h.due hb with ha | ha
      · exact .inl ha
      · exact .inr (reportable_mono k.mask k.flags ha)
    · exact .inr hb
  serials := k.serials.trans h.serials
  records hn := forall₂_works_trans (h.records hn) (k.records (h.serials ▸ hn))

theorem LaneWork.refl (s : State) : LaneWork s s := ⟨.refl s, rfl, rfl, rfl, rfl⟩

theorem LaneWork.trans {a b c : State} (h : LaneWork a b) (k : LaneWork b c) : LaneWork a c :=
  ⟨h.toLaneSide.trans k.toLaneSide, k.units.trans h.units, k.discovery.trans h.discovery,
    k.inFlight.trans h.inFlight, k.nextExchange.trans h.nextExchange⟩

theorem LaneWork.foldl {α : Type} (f : State → α → State) (h : ∀ s a, LaneWork s (f s a)) :
    ∀ (as : List α) (s : State), LaneWork s (as.foldl f s)
  | [], s => .refl s
  | a :: as, s => (h s a).trans (LaneWork.foldl f h as (f s a))

/-- A change of the lanes alone, and of the parts and reports that their exchanges leave behind. -/
theorem laneWork_of_lanes (s : State) (ls : PerPhase Lane) (es : List EndedPart) (rs : List EndReport)
    (ks : List LearningReport) :
    LaneWork s { s with lanes := ls, endedParts := es, endReports := rs, learningReports := ks } :=
  ⟨⟨rfl, rfl, rfl, rfl, rfl, rfl, rfl, rfl, rfl, rfl, rfl, flagsKept_refl _, rfl, .inl, rfl,
    fun _ => forall₂_works_refl _⟩, rfl, rfl, rfl, rfl⟩

theorem laneWork_setLane (s : State) (ph : Phase) (l : Lane) : LaneWork s (setLane s ph l) :=
  laneWork_of_lanes s _ s.endedParts s.endReports s.learningReports

/-! ### Flags (R160) -/

theorem flagBit_lt (f : Flag) : flagBit f < 12 := by cases f <;> decide

theorem getLsbD_flagWord_self (f : Flag) : (flagWord f).getLsbD (flagBit f) = true := by cases f <;> decide

/-- Raising a flag sets it, clears nothing, and marks a notice due just when an unmasked flag comes up (R160). -/
theorem raise_work (f : Flag) (s : State) : LaneWork s (raise f s) := by
  unfold raise
  split
  · exact .refl s
  · refine ⟨⟨rfl, rfl, rfl, rfl, rfl, rfl, rfl, rfl, rfl, rfl, rfl, ?_, rfl, ?_, rfl, fun _ => forall₂_works_refl _⟩,
      rfl, rfl, rfl, rfl⟩
    · show s.events.flags &&& (s.events.flags ||| flagWord f) = s.events.flags
      ext i hi
      simp only [BitVec.getElem_and, BitVec.getElem_or]
      cases s.events.flags[i] <;> simp
    · intro h
      have h' : (s.uli.noticeDue || unmasked s f) = true := h
      rcases Bool.or_eq_true_iff.1 h' with h | h
      · exact .inl h
      · right
        intro h0
        have hb : ((s.events.flags ||| flagWord f) &&& s.events.mask).getLsbD (flagBit f) = true := by
          rw [BitVec.getLsbD_and, BitVec.getLsbD_or, getLsbD_flagWord_self, Bool.or_true, Bool.true_and]
          exact h
        have h0' : (s.events.flags ||| flagWord f) &&& s.events.mask = 0 := h0
        rw [h0'] at hb
        simp at hb

theorem raiseIf_work (c : Bool) (f : Flag) (s : State) : LaneWork s (raiseIf c f s) := by
  unfold raiseIf
  split
  · exact raise_work f s
  · exact .refl s

/-! ### Records -/

theorem forall₂_works_map (g : Record → Record) (hg : ∀ r, RecordWorks r (g r)) :
    ∀ rs, List.Forall₂ RecordWorks rs (rs.map g)
  | [] => .nil
  | r :: rs => .cons (hg r) (forall₂_works_map g hg rs)

theorem serials_map (g : Record → Record) (hg : ∀ r, (g r).serial = r.serial) (rs : List Record) :
    (rs.map g).map Record.serial = rs.map Record.serial := by
  rw [List.map_map]
  exact List.map_congr_left fun r _ => hg r

/-- Records replaced by what they have worked into: nothing else changes but RECORD_DONE. -/
theorem commitRecords_work (rs : List Record) (s : State)
    (hs : rs.map Record.serial = s.records.map Record.serial)
    (h : (s.records.map Record.serial).Nodup → List.Forall₂ RecordWorks s.records rs) :
    LaneWork s (commitRecords rs s) :=
  LaneWork.trans (b := { s with records := rs })
    ⟨⟨rfl, rfl, rfl, rfl, rfl, rfl, rfl, rfl, rfl, rfl, rfl, flagsKept_refl _, rfl, .inl, hs, h⟩, rfl, rfl, rfl, rfl⟩
    (raiseIf_work _ _ _)

theorem commitRecords_map_work (g : Record → Record) (hg : ∀ r, RecordWorks r (g r)) (s : State) :
    LaneWork s (commitRecords (s.records.map g) s) :=
  commitRecords_work _ s (serials_map g (fun r => (hg r).continues.1) _) fun _ => forall₂_works_map g hg _

theorem settleAllRounds_work (s : State) : LaneWork s (settleAllRounds s) :=
  commitRecords_map_work _ (settleRounds_works s roundFuel) s

theorem evaluateAll_work (s : State) : LaneWork s (evaluateAll s) :=
  commitRecords_map_work _ (evaluateRecord_works s) s

theorem recordOf_mem {s : State} {n : Nat} {r : Record} (h : recordOf s n = some r) : r ∈ s.records ∧ r.serial = n := by
  unfold recordOf at h
  exact ⟨List.mem_of_find?_eq_some h, by simpa using List.find?_some h⟩

theorem recordById_mem {s : State} {id : BitVec 32} {r : Record} (h : recordById s id = some r) :
    r ∈ s.records ∧ r.id = id := by
  unfold recordById at h
  exact ⟨List.mem_of_find?_eq_some h, by simpa using List.find?_some h⟩

theorem eq_of_serial {rs : List Record} (hn : (rs.map Record.serial).Nodup) {a b : Record} (ha : a ∈ rs) (hb : b ∈ rs)
    (h : a.serial = b.serial) : a = b :=
  List.inj_on_of_nodup_map hn ha hb h

theorem forall₂_works_put (r' : Record) : ∀ rs : List Record, (∀ q ∈ rs, q.serial = r'.serial → RecordWorks q r') →
    List.Forall₂ RecordWorks rs (rs.map fun q => if q.serial = r'.serial then r' else q)
  | [], _ => .nil
  | q :: rs, h => by
    refine .cons ?_ (forall₂_works_put r' rs fun x hx => h x (by simp [hx]))
    dsimp only
    by_cases hq : q.serial = r'.serial
    · rw [if_pos hq]
      exact h q (by simp) hq
    · rw [if_neg hq]
      exact .refl q

/-- One record replaced by what it has worked into. -/
theorem putRecord_work {r r' : Record} (s : State) (hr : r ∈ s.records) (h : RecordWorks r r') :
    LaneWork s (putRecord r' s) := by
  refine commitRecords_work _ s (serials_map _ (fun q => ?_) _) fun hn => forall₂_works_put r' _ fun q hq hs => ?_
  · split
    · exact (‹q.serial = r'.serial›).symm
    · rfl
  · rw [eq_of_serial hn hq hr (hs.trans h.continues.1)]
    exact h

theorem reportBroken_work (serial unit : Nat) (s : State) : LaneWork s (reportBroken serial unit s) := by
  unfold reportBroken
  split
  · exact .refl s
  · rename_i r hr
    refine putRecord_work s (recordOf_mem hr).1 (RecordWorks.trans ?_ (completeIfFinished_works s _))
    exact works_of_targets r _ (fun t => (outcome_step (b := 0) _ (fun h => h.2) (by simp)).1)
      (fun t => (outcome_step _ (fun h => h.2) (by simp)).2)

/-! ### Lanes -/

theorem endPart_work (ph : Phase) (c : Option AbortCause) (time : Nat) (s : State) :
    LaneWork s (endPart ph c time s) := by
  unfold endPart
  split
  · exact .refl s
  · dsimp only
    split
    · exact laneWork_of_lanes s _ _ s.endReports s.learningReports
    · exact laneWork_of_lanes s _ _ _ _

theorem enterStopped_work (ph : Phase) (s : State) : LaneWork s (enterStopped ph s) :=
  (laneWork_setLane s ph _).trans (settleAllRounds_work _)

theorem landLane_work (ph : Phase) (s : State) : LaneWork s (landLane ph s) := by
  unfold landLane
  dsimp only
  split
  · exact enterStopped_work ph s
  · split <;> exact laneWork_setLane s ph _

theorem markAbort_work (ph : Phase) (c : AbortCause) (s : State) : LaneWork s (markAbort ph c s) :=
  laneWork_setLane s ph _

theorem releaseArmed_work (ph : Phase) (c : AbortCause) (s : State) : LaneWork s (releaseArmed ph c s) :=
  (endPart_work ph _ _ s).trans (landLane_work ph _)

theorem abortPart_work (c : AbortCause) (ph : Phase) (s : State) : LaneWork s (abortPart c ph s) := by
  unfold abortPart
  split
  · exact releaseArmed_work ph c s
  · exact markAbort_work ph c s

theorem noteWholeAbort_work (n : Nat) (c : AbortCause) (s : State) : LaneWork s (noteWholeAbort n c s) :=
  laneWork_of_lanes s _ s.endedParts s.endReports s.learningReports

theorem abortExchange_work (c : AbortCause) (x : Exchange) (ph : Phase) (s : State) :
    LaneWork s (abortExchange c x ph s) := by
  unfold abortExchange
  split
  · exact (noteWholeAbort_work _ c s).trans (LaneWork.foldl _ (fun s p => abortPart_work c p s) _ _)
  · exact abortPart_work c ph s

theorem choosePending_work (s : State) (ph : Phase) : LaneWork s (choosePending s ph) := by
  unfold choosePending
  dsimp only
  split
  · split <;> exact laneWork_setLane s ph _
  · exact laneWork_setLane s ph _

theorem preemptionTest_work (s : State) (ph : Phase) : LaneWork s (preemptionTest s ph) := by
  unfold preemptionTest
  split
  · exact .refl s
  · split
    · exact abortExchange_work _ _ _ s
    · exact .refl s

/-- Choosing again touches the records (R55), the lanes, what aborted exchanges leave, and flags; nothing else. -/
theorem tell_work (asked : List Phase) (s : State) : LaneWork s (tell asked s) := by
  unfold tell
  split
  · exact .refl s
  · exact (((evaluateAll_work s).trans (LaneWork.foldl _ choosePending_work _ _)).trans
      (LaneWork.foldl _ preemptionTest_work _ _)).trans (LaneWork.foldl _ choosePending_work _ _)

theorem releaseReserved_work (s : State) (ph : Phase) : LaneWork s (releaseReserved s ph) := by
  unfold releaseReserved
  dsimp only
  split
  · exact laneWork_setLane s ph _
  · exact .refl s

theorem settleLane_work (ph : Phase) (s : State) : LaneWork s (settleLane ph s) := by
  unfold settleLane
  dsimp only
  split
  · split <;> exact laneWork_setLane s ph _
  · exact .refl s

theorem startArmed_work (ph : Phase) (s : State) : LaneWork s (startArmed ph s) := laneWork_setLane s ph _

theorem laneLoss_work (ph : Phase) (time : Nat) (s : State) : LaneWork s (laneLoss ph time s) := by
  unfold laneLoss
  dsimp only
  refine LaneWork.trans ?_ (settleAllRounds_work _)
  refine LaneWork.trans ?_ (laneWork_setLane _ ph _)
  split
  · exact (endPart_work ph _ _ s).trans (landLane_work ph _)
  · split
    · exact laneWork_setLane s ph _
    · exact releaseReserved_work s ph

theorem stopLane_work (s : State) (ph : Phase) : LaneWork s (stopLane s ph) := by
  unfold stopLane
  dsimp only
  split
  · exact enterStopped_work ph s
  · exact enterStopped_work ph s
  · exact enterStopped_work ph s
  · exact enterStopped_work ph s
  · split
    · exact enterStopped_work ph s
    · exact (laneWork_setLane s ph _).trans (abortExchange_work _ _ _ _)
  · exact (laneWork_setLane s ph _).trans (markAbort_work _ _ _)
  · exact (laneWork_setLane s ph _).trans (markAbort_work _ _ _)
  · exact .refl s

theorem pauseLane_work (s : State) (ph : Phase) : LaneWork s (pauseLane s ph) := by
  unfold pauseLane
  dsimp only
  split <;> first | exact laneWork_setLane s ph _ | exact .refl s

theorem laneSeen_work (ph : Phase) (s : State) : LaneWork s (laneSeen ph s) := by
  unfold laneSeen
  split
  · exact .refl s
  · have hw : ∀ r : Record, RecordWorks r
        (if isDone r = true then r else { r with lanesSeen := putPhase r.lanesSeen ph true }) := fun r => by
      split
      · exact .refl r
      · exact works_of_stage r r.stage r.parts r.roundsSent r.collided _
    exact ⟨⟨rfl, rfl, rfl, rfl, rfl, rfl, rfl, rfl, rfl, rfl, rfl, flagsKept_refl _, rfl, .inl,
      serials_map _ (fun r => (hw r).continues.1) _, fun _ => forall₂_works_map _ hw _⟩, rfl, rfl, rfl, rfl⟩

theorem resumeLane_work (s : State) (ph : Phase) : LaneWork s (resumeLane s ph) := by
  unfold resumeLane
  dsimp only
  split
  · exact laneWork_setLane s ph _
  · exact (laneWork_setLane s ph _).trans (laneSeen_work ph _)
  all_goals exact .refl s

theorem takeAbortRequest_work (q : AbortRequest) (s : State) : LaneWork s (takeAbortRequest q s) := by
  unfold takeAbortRequest
  split
  · exact .refl s
  · split
    · exact (noteWholeAbort_work _ _ s).trans (abortPart_work _ _ _)
    · exact .refl s

/-! ### Grants -/

theorem occupy_work (ph : Phase) (st : LaneState) (x : Exchange) (s : State) : LaneWork s (occupy ph st x s) :=
  laneWork_setLane s ph _

theorem LaneSide.foldl {α : Type} (f : State → α → State) (h : ∀ s a, LaneSide s (f s a)) :
    ∀ (as : List α) (s : State), LaneSide s (as.foldl f s)
  | [], s => .refl s
  | a :: as, s => (h s a).trans (LaneSide.foldl f h as (f s a))

theorem competes_state {r : Record} (h : competes r = true) : r.state = .ready ∨ r.state = .active := by
  simp only [competes, Bool.and_eq_true, Bool.or_eq_true, beq_iff_eq] at h
  exact h.1.1

/-- An item still offered belongs to a record that competes (R47). -/
theorem offered_competes {s : State} {ph : Phase} {i : WorkItem} (h : (offersTo s ph).any (sameItem i) = true) :
    ∃ r ∈ s.records, r.serial = i.serial ∧ competes r = true := by
  obtain ⟨j, hj, hs⟩ := List.any_eq_true.1 h
  have hij : i.serial = j.serial := by
    simp only [sameItem, Bool.and_eq_true, beq_iff_eq] at hs
    exact hs.1.1
  unfold offersTo at hj
  obtain ⟨r, hr, hjr⟩ := List.mem_flatMap.1 hj
  obtain ⟨hr1, hr2⟩ := List.mem_filter.1 hr
  refine ⟨r, hr1, ?_, hr2⟩
  have key : ∀ q, j ∈ offerFor s r q → j.serial = r.serial := by
    intro q hq
    unfold offerFor at hq
    dsimp only at hq
    split at hq
    · split at hq <;> simp at hq
      simp [hq]
    · split at hq <;> simp at hq
      simp [hq]
  rcases List.mem_append.1 hjr with h | h
  · exact (key _ h).symm.trans hij.symm
  · split at h
    · exact (key _ h).symm.trans hij.symm
    · cases h

/-- The record of a grant put back: it is the record that competed, one exchange more in flight (R57). -/
theorem putGranted_side (s : State) {r : Record} (hr : r ∈ s.records) (units : List Nat) (ps : List Part)
    (hc : (s.records.map Record.serial).Nodup → r.state = .ready ∨ r.state = .active) :
    LaneSide s (putRecord
        { r with
          state := if r.state = .ready then .active else r.state
          flights := r.flights + 1
          targets := r.targets.map fun t => if units.contains t.unit then { t with inFlight := true } else t
          parts := ps } s) := by
  refine (commitRecords_work _ s (serials_map _ (fun q => ?_) _) fun hn => ?_).toLaneSide
  · by_cases h : q.serial = r.serial
    · rw [if_pos h]
      exact h.symm
    · rw [if_neg h]
  · refine forall₂_works_put _ _ fun q hq hs => ?_
    rw [eq_of_serial hn hq hr hs]
    exact granted_works r units ps (hc hn)

theorem laneSide_inFlight {s t : State} (h : LaneSide s t) (us : List Nat) : LaneSide s { t with inFlight := us } :=
  ⟨h.now, h.ptu, h.clock, h.profile, h.tagCounter, h.nextSerial, h.abortRequests, h.lcm, h.draws, h.pending,
    h.mask, h.flags, h.uli, h.due, h.serials, h.records⟩

/-- A grant touches its record, the in-flight unit set and nothing else of the queue (R57). -/
theorem applyGrant_side (ph : Phase) (i : WorkItem) (units : List Nat) (s : State)
    (hc : ∀ r, (s.records.map Record.serial).Nodup → recordOf s i.serial = some r → r.state = .ready ∨ r.state = .active) :
    LaneSide s (applyGrant ph i units s) := by
  unfold applyGrant
  split
  · exact .refl s
  · rename_i r hr
    exact laneSide_inFlight (putGranted_side s (recordOf_mem hr).1 units _ fun hn => hc r hn hr) _

theorem commitRecords_kept (rs : List Record) (s : State) :
    (commitRecords rs s).units = s.units ∧ (commitRecords rs s).discovery = s.discovery ∧
      (commitRecords rs s).lanes = s.lanes := by
  unfold commitRecords raiseIf raise
  split
  · split <;> exact ⟨rfl, rfl, rfl⟩
  · exact ⟨rfl, rfl, rfl⟩

theorem applyGrant_kept (ph : Phase) (i : WorkItem) (units : List Nat) (s : State) :
    (applyGrant ph i units s).units = s.units ∧ (applyGrant ph i units s).discovery = s.discovery ∧
      (applyGrant ph i units s).lanes = s.lanes := by
  unfold applyGrant
  split
  · exact ⟨rfl, rfl, rfl⟩
  · exact commitRecords_kept _ s

theorem laneSide_nextExchange (s : State) (n : Nat) : LaneSide s { s with nextExchange := n } :=
  ⟨rfl, rfl, rfl, rfl, rfl, rfl, rfl, rfl, rfl, rfl, rfl, flagsKept_refl _, rfl, .inl, rfl, fun _ => forall₂_works_refl _⟩

/-- What a grant opportunity keeps: all that the lanes' work keeps, and the unit table and discovery list with it. -/
structure GrantWork (s t : State) : Prop extends LaneSide s t where
  units : t.units = s.units
  discovery : t.discovery = s.discovery

theorem LaneWork.grant {s t : State} (h : LaneWork s t) : GrantWork s t := ⟨h.toLaneSide, h.units, h.discovery⟩

theorem GrantWork.refl (s : State) : GrantWork s s := (LaneWork.refl s).grant

theorem GrantWork.trans {a b c : State} (h : GrantWork a b) (k : GrantWork b c) : GrantWork a c :=
  ⟨h.toLaneSide.trans k.toLaneSide, k.units.trans h.units, k.discovery.trans h.discovery⟩

theorem GrantWork.foldl {α : Type} (f : State → α → State) (h : ∀ s a, GrantWork s (f s a)) :
    ∀ (as : List α) (s : State), GrantWork s (as.foldl f s)
  | [], s => .refl s
  | a :: as, s => (h s a).trans (GrantWork.foldl f h as (f s a))

theorem nextExchange_work (s : State) (n : Nat) : GrantWork s { s with nextExchange := n } :=
  ⟨laneSide_nextExchange s n, rfl, rfl⟩

theorem applyGrant_work {ph : Phase} {i : WorkItem} (units : List Nat) {s t : State} (ho : (offersTo s ph).any (sameItem i) = true)
    (hrec : t.records = s.records) : GrantWork t (applyGrant ph i units t) := by
  obtain ⟨r, hr, hs, hc⟩ := offered_competes ho
  refine ⟨applyGrant_side ph i units t fun q hn hq => ?_, (applyGrant_kept ..).1, (applyGrant_kept ..).2.1⟩
  obtain ⟨hq1, hq2⟩ := recordOf_mem hq
  rw [eq_of_serial hn hq1 (hrec ▸ hr) (hq2.trans hs.symm)]
  exact competes_state hc

theorem grantOnLane_work (ph : Phase) (i : WorkItem) (forced : Bool) (s : State) :
    GrantWork s (grantOnLane ph i forced s) := by
  unfold grantOnLane
  split
  · rename_i ho
    split
    · exact .refl s
    · dsimp only
      refine GrantWork.trans ?_ (tell_work _ _).grant
      refine GrantWork.trans ?_ (applyGrant_work _ ho ?_)
      · exact (nextExchange_work s _).trans (occupy_work ..).grant
      · rfl
  · exact .refl s

theorem foldl_occupy {α : Type} (f : State → α → State) (h : ∀ s a, ∃ ls, f s a = { s with lanes := ls }) :
    ∀ (as : List α) (s : State), ∃ ls, as.foldl f s = { s with lanes := ls }
  | [], s => ⟨s.lanes, rfl⟩
  | a :: as, s => by
    obtain ⟨l1, h1⟩ := h s a
    obtain ⟨l2, h2⟩ := foldl_occupy f h as (f s a)
    exact ⟨l2, by rw [List.foldl_cons, h2, h1]⟩

theorem joinedGrant_work (ph : Phase) (i : WorkItem) (s : State) : GrantWork s (joinedGrant ph i s) := by
  unfold joinedGrant
  dsimp only
  split
  · rename_i hset
    rw [Bool.and_eq_true] at hset
    split
    · exact .refl s
    · split
      · exact GrantWork.foldl _ (fun s p => (releaseReserved_work s p).grant) _ _
      · refine GrantWork.trans ?_ (tell_work _ _).grant
        refine GrantWork.trans ?_ (applyGrant_work _ hset.2 ?_)
        · refine (nextExchange_work s (s.nextExchange + 1)).trans ?_
          exact GrantWork.foldl _ (fun s p => by split <;> exact (occupy_work ..).grant) _ _
        · obtain ⟨ls, h⟩ := foldl_occupy (fun (st : State) p =>
              if p = ph then occupy p .sending (exchangeFor s _ i _ _ _ (reservationForced s p) 1) st
              else occupy p .armed (exchangeFor s _ i _ _ _ (reservationForced s p) 0) st)
            (fun st p => by split <;> exact ⟨_, rfl⟩) _ { s with nextExchange := s.nextExchange + 1 }
          rw [h]
  · exact .refl s

theorem reserveLane_work (ph : Phase) (i : WorkItem) (forced : Bool) (s : State) :
    GrantWork s (reserveLane ph i forced s) := by
  unfold reserveLane
  split
  · exact (laneWork_setLane s ph _).grant.trans (joinedGrant_work ph i _)
  · exact .refl s

theorem actOn_work (ph : Phase) (i : WorkItem) (forced : Bool) (s : State) : GrantWork s (actOn ph i forced s) := by
  unfold actOn
  dsimp only
  split
  · exact (laneWork_setLane s ph _).grant.trans (reserveLane_work ..)
  · exact (laneWork_setLane s ph _).grant.trans (grantOnLane_work ..)

theorem carrierTest_work (ph : Phase) (v : Verdict) (i : WorkItem) (s : State) :
    GrantWork s (carrierTest ph v i s) := by
  unfold carrierTest
  split
  · exact actOn_work ..
  · dsimp only
    split
    · exact (laneWork_setLane s ph _).grant
    · exact (raise_work _ s).grant.trans (actOn_work ..)
  · exact .refl s

theorem walkCandidates_work (ph : Phase) : ∀ (cs : List WorkItem) (s : State), LaneWork s (walkCandidates ph cs s).1
  | [], s => .refl s
  | i :: rest, s => by
    unfold walkCandidates
    split
    · split
      · exact (reportBroken_work _ _ s).trans (walkCandidates_work ph rest _)
      · split
        · exact .refl s
        · exact walkCandidates_work ph rest s
    · split
      · exact .refl s
      · exact walkCandidates_work ph rest s

theorem opportunity_work (ph : Phase) (v : Verdict) (s : State) : GrantWork s (opportunity ph v s) := by
  unfold opportunity
  dsimp only
  have h : LaneWork s (if (walkCandidates ph (candidates s ph) s).2.2 = true then
      tell allPhases (walkCandidates ph (candidates s ph) s).1 else (walkCandidates ph (candidates s ph) s).1) := by
    split
    · exact (walkCandidates_work ..).trans (tell_work _ _)
    · exact walkCandidates_work ..
  generalize (if (walkCandidates ph (candidates s ph) s).2.2 = true then
      tell allPhases (walkCandidates ph (candidates s ph) s).1 else (walkCandidates ph (candidates s ph) s).1) = s1 at h ⊢
  split
  · exact (h.trans (releaseReserved_work _ _)).grant
  · split
    · exact h.grant.trans (joinedGrant_work ..)
    · exact h.grant.trans (carrierTest_work ..)

/-! ### Reports and boundaries -/

theorem laneSide_releaseUnits (units : List Nat) (s : State) : LaneSide s (releaseUnits units s) :=
  ⟨rfl, rfl, rfl, rfl, rfl, rfl, rfl, rfl, rfl, rfl, rfl, flagsKept_refl _, rfl, .inl, rfl, fun _ => forall₂_works_refl _⟩

theorem applyEndReport_work (rep : EndReport) (s : State) : GrantWork s (applyEndReport rep s) := by
  have h1 : GrantWork s (releaseUnits rep.units s) := ⟨laneSide_releaseUnits _ s, rfl, rfl⟩
  unfold applyEndReport
  dsimp only
  split
  · exact h1
  · rename_i r hr
    refine h1.trans (putRecord_work _ (recordOf_mem hr).1 ?_).grant
    exact ((reportedRecord_works _ rep r).trans (settleRounds_works _ _ _)).trans (settleFlight_works _ _)

theorem grantWork_reports (s : State) (rs : List EndReport) (ks : List LearningReport) :
    GrantWork s { s with endReports := rs, learningReports := ks } :=
  (laneWork_of_lanes s s.lanes s.endedParts rs ks).grant

theorem takeQueueReport_work (n : Nat) (s : State) : GrantWork s (takeQueueReport n s) := by
  unfold takeQueueReport
  split
  · exact .refl s
  · exact ((grantWork_reports s _ s.learningReports).trans (applyEndReport_work _ _)).trans (tell_work _ _).grant

theorem laneSide_table (s : State) (us : List (Nat × Entry)) (ds : List Address) :
    LaneSide s { s with units := us, discovery := ds } :=
  ⟨rfl, rfl, rfl, rfl, rfl, rfl, rfl, rfl, rfl, rfl, rfl, flagsKept_refl _, rfl, .inl, rfl, fun _ => forall₂_works_refl _⟩

theorem offerDiscovery_side (a : Address) (s : State) : LaneSide s (offerDiscovery a s) := by
  unfold offerDiscovery
  split
  · exact .refl s
  · split
    · exact (laneSide_table s s.units _).trans (raise_work _ _).toLaneSide
    · exact (raise_work _ s).toLaneSide

theorem applyAnswer_side (ans : KeptAnswer) (s : State) : LaneSide s (applyAnswer ans s) := by
  unfold applyAnswer
  split
  · dsimp only
    split
    · exact (laneSide_table s _ s.discovery).trans (raiseIf_work _ _ _).toLaneSide
    · exact .refl s
  · split
    · exact .refl s
    · exact offerDiscovery_side _ s

theorem applySilence_side (i : Nat) (a : Address) (s : State) : LaneSide s (applySilence i a s) := by
  unfold applySilence
  dsimp only
  split
  · exact laneSide_table s _ s.discovery
  · exact .refl s

theorem applyLearning_side (rep : LearningReport) (s : State) : LaneSide s (applyLearning rep s) := by
  unfold applyLearning
  dsimp only
  have h : LaneSide s (rep.answers.foldl (fun st ans => applyAnswer ans st) s) :=
    LaneSide.foldl _ (fun s a => applyAnswer_side a s) _ _
  split
  · exact h
  · exact h.trans (applySilence_side _ _ _)

theorem takeTableReport_side (n : Nat) (s : State) : LaneSide s (takeTableReport n s) := by
  unfold takeTableReport
  split
  · exact .refl s
  · dsimp only
    have h := (grantWork_reports s s.endReports (s.learningReports.take n ++ ‹List LearningReport›)).toLaneSide.trans
      (applyLearning_side ‹LearningReport› _)
    split
    · exact h.trans (tell_work _ _).toLaneSide
    · exact h

theorem takeReports_side (o : ReportOrder) (m n : Nat) (s : State) : LaneSide s (takeReports o m n s) := by
  unfold takeReports
  split
  · exact .refl s
  · exact (takeQueueReport_work _ s).toLaneSide
  · exact takeTableReport_side _ s
  · exact (takeQueueReport_work _ s).toLaneSide.trans (takeTableReport_side _ _)
  · exact (takeTableReport_side _ s).trans (takeQueueReport_work _ _).toLaneSide

theorem advanceExchange_side (ph : Phase) (ended : EndedHalf) (o : ReportOrder) (s : State) :
    LaneSide s (advanceExchange ph ended o s) := by
  unfold advanceExchange
  split
  · exact .refl s
  · dsimp only
    have hend : ∀ (c : Option AbortCause) (l : Lane),
        LaneSide s (endAtBoundary ph c ended.time o (setLane s ph l)) := fun c l =>
      (((laneWork_setLane s ph l).trans (endPart_work ph c _ _)).trans (landLane_work ph _)).toLaneSide.trans
        (takeReports_side o _ _ _)
    split
    · exact hend _ _
    · split
      · exact hend _ _
      · exact ((laneWork_setLane s ph _).trans (laneWork_setLane _ ph _)).toLaneSide

theorem laneAdvance_side (ph : Phase) (ended : EndedHalf) (o : ReportOrder) (s : State) :
    LaneSide s (laneAdvance ph ended o s) := by
  unfold laneAdvance
  split
  · exact advanceExchange_side ..
  · exact advanceExchange_side ..
  · exact (startArmed_work ph s).toLaneSide
  · exact (settleLane_work ph s).toLaneSide
  all_goals exact .refl s

/-- A lane's work at its boundary changes no grid, no clock, no profile, no monitor, and of the uplink notice-due alone. -/
theorem laneBoundary_side (ph : Phase) (ended : EndedHalf) (v : Verdict) (o : ReportOrder) (s : State) :
    LaneSide s (laneBoundary ph ended v o s) := by
  unfold laneBoundary
  dsimp only
  generalize (if (laneOf (laneAdvance ph ended o s) ph).state = .stopped ∧ (laneOf s ph).state ≠ .stopped then allPhases
    else [ph]) = asked
  have h := (laneAdvance_side ph ended o s).trans (tell_work asked _).toLaneSide
  split
  · exact h.trans (opportunity_work ph v _).toLaneSide
  · exact h

end Sys2Proof.Machine
end

