-- ==== Sys2Proof/Laws/PerInstr.lean ====
section
/-! SUPPORT. A statement about every command, made command by command: a well-formed command that is a request has a
content that its frame's length byte can count (R144, R173). -/

namespace Sys2Proof.Laws

open Sys2Proof.Machine

/-- The content of the request that the command is, if it is one, has at most 238 bytes. -/
def FrameFits.Statement (i : Instr) : Prop :=
  i.wellFormed = true → ∀ tag rq, requestOf i = some (tag, rq) → (requestContent rq).length ≤ 238

/-- A command that is no request has nothing to fit. -/
theorem frameFits_of_none {i : Instr} (h : requestOf i = none) : FrameFits.Statement i := by
  intro _ tag rq hr
  rw [h] at hr
  cases hr

/-- A request with a content of at most eight bytes fits. -/
theorem frameFits_of_short {i : Instr} {tag : Byte} {rq : Request} (h : requestOf i = some (tag, rq))
    (hl : (requestContent rq).length.ble 8 = true) : FrameFits.Statement i := by
  intro _ tag' rq' hr
  rw [h] at hr
  obtain ⟨-, rfl⟩ := Prod.mk.inj (Option.some.inj hr)
  have := Nat.le_of_ble_eq_true hl
  omega

theorem length_field4 (x : BitVec 32) : (field4 x).length = 4 := rfl

theorem length_field2 (x : BitVec 16) : (field2 x).length = 2 := rfl

theorem length_flatMap_field2 : ∀ xs : List (BitVec 16), (xs.flatMap field2).length = 2 * xs.length
  | [] => rfl
  | x :: xs => by
    rw [List.flatMap_cons, List.length_append, length_flatMap_field2 xs, length_field2, List.length_cons]
    omega

theorem FrameFits.deviceReset (fsel : Bool) (baud : BitVec 2) :
    FrameFits.Statement (.deviceReset fsel baud) := frameFits_of_none rfl

theorem FrameFits.crossing (ph : Phase) :
    FrameFits.Statement (.crossing ph) := frameFits_of_none rfl

theorem FrameFits.missTest (ph : Phase) :
    FrameFits.Statement (.missTest ph) := frameFits_of_none rfl

theorem FrameFits.halfCycleBoundary (ph : Phase) (monitorFirst : Bool) (reports : ReportOrder) :
    FrameFits.Statement (.halfCycleBoundary ph monitorFirst reports) := frameFits_of_none rfl

theorem FrameFits.secondEvent :
    FrameFits.Statement (.secondEvent) := frameFits_of_none rfl

theorem FrameFits.notBeforeTimePasses (id : BitVec 32) (unit : Nat) :
    FrameFits.Statement (.notBeforeTimePasses id unit) := frameFits_of_none rfl

theorem FrameFits.endReport (which : Nat) :
    FrameFits.Statement (.endReport which) := frameFits_of_none rfl

theorem FrameFits.learningReport (which : Nat) :
    FrameFits.Statement (.learningReport which) := frameFits_of_none rfl

theorem FrameFits.abortRequest (lane : Phase) :
    FrameFits.Statement (.abortRequest lane) := frameFits_of_none rfl

theorem FrameFits.receivedByte (byte : Byte) (framingFault : Bool) :
    FrameFits.Statement (.receivedByte byte framingFault) := frameFits_of_none rfl

theorem FrameFits.interByteTimeout :
    FrameFits.Statement (.interByteTimeout) := frameFits_of_none rfl

theorem FrameFits.transmitterFree :
    FrameFits.Statement (.transmitterFree) := frameFits_of_none rfl

theorem FrameFits.waitingSlotTaken :
    FrameFits.Statement (.waitingSlotTaken) := frameFits_of_none rfl

theorem FrameFits.submit (tag : Byte) (fields : SubmitFields) :
    FrameFits.Statement (.submit tag fields) := by
  intro hw tag' rq' hr
  obtain ⟨-, rfl⟩ := Prod.mk.inj (Option.some.inj hr)
  have h : fields.payload.length ≤ 214 := by simpa [Instr.wellFormed, SubmitFields.fits] using hw
  simp only [requestContent, List.length_append, length_field4, List.length_cons, List.length_nil]
  omega

theorem FrameFits.cancel (tag : Byte) (id : BitVec 32) :
    FrameFits.Statement (.cancel tag id) := frameFits_of_short rfl rfl

theorem FrameFits.adjust (tag : Byte) (id : BitVec 32) (priority : Byte) (options : Byte) :
    FrameFits.Statement (.adjust tag id priority options) := frameFits_of_short rfl rfl

theorem FrameFits.collect (tag : Byte) (id : BitVec 32) (cls : Byte) (start : BitVec 16) (options : Byte) :
    FrameFits.Statement (.collect tag id cls start options) := frameFits_of_short rfl rfl

theorem FrameFits.restart (tag : Byte) :
    FrameFits.Statement (.restart tag) := frameFits_of_short rfl rfl

theorem FrameFits.unitWrite (tag : Byte) (fields : UnitWriteFields) :
    FrameFits.Statement (.unitWrite tag fields) := by
  intro hw tag' rq' hr
  obtain ⟨-, rfl⟩ := Prod.mk.inj (Option.some.inj hr)
  have h : 12 + 2 * fields.route.length + fields.groups.length ≤ 238 := by
    simpa [Instr.wellFormed, UnitWriteFields.fits] using hw
  simp only [requestContent, List.length_append, length_field4, length_field2, length_flatMap_field2, List.length_cons,
    List.length_nil]
  omega

theorem FrameFits.unitReadByIndex (tag : Byte) (start : BitVec 16) (count : Byte) :
    FrameFits.Statement (.unitReadByIndex tag start count) := frameFits_of_short rfl rfl

theorem FrameFits.unitReadByAddress (tag : Byte) (address : Address) :
    FrameFits.Statement (.unitReadByAddress tag address) := frameFits_of_short rfl rfl

theorem FrameFits.discoveryRead (tag : Byte) (option : Byte) :
    FrameFits.Statement (.discoveryRead tag option) := frameFits_of_short rfl rfl

theorem FrameFits.profileWrite (tag : Byte) (mask : BitVec 16) (values : List Byte) :
    FrameFits.Statement (.profileWrite tag mask values) := by
  intro hw tag' rq' hr
  obtain ⟨-, rfl⟩ := Prod.mk.inj (Option.some.inj hr)
  have h : values.length = namedSettings mask := by simpa [Instr.wellFormed] using hw
  have hn : namedSettings mask ≤ 9 := by
    unfold namedSettings
    exact (List.length_filter_le _ _).trans (by simp)
  simp only [requestContent, List.length_append, length_field2]
  omega

theorem FrameFits.profileRead (tag : Byte) :
    FrameFits.Statement (.profileRead tag) := frameFits_of_short rfl rfl

theorem FrameFits.clockSet (tag : Byte) (seconds : BitVec 32) :
    FrameFits.Statement (.clockSet tag seconds) := frameFits_of_short rfl rfl

theorem FrameFits.stop (tag : Byte) (mask : Byte) :
    FrameFits.Statement (.stop tag mask) := frameFits_of_short rfl rfl

theorem FrameFits.pause (tag : Byte) (mask : Byte) :
    FrameFits.Statement (.pause tag mask) := frameFits_of_short rfl rfl

theorem FrameFits.resume (tag : Byte) (mask : Byte) :
    FrameFits.Statement (.resume tag mask) := frameFits_of_short rfl rfl

theorem FrameFits.status (tag : Byte) (option : Byte) :
    FrameFits.Statement (.status tag option) := frameFits_of_short rfl rfl

theorem FrameFits.maskWrite (tag : Byte) (mask : BitVec 16) :
    FrameFits.Statement (.maskWrite tag mask) := frameFits_of_short rfl rfl

theorem FrameFits.badKind (kind : Byte) (tag : Byte) (content : List Byte) :
    FrameFits.Statement (.badKind kind tag content) := frameFits_of_none rfl

theorem FrameFits.windowBoundary (ph : Phase) :
    FrameFits.Statement (.windowBoundary ph) := frameFits_of_none rfl

theorem FrameFits.windowSample (ph : Phase) (rxd : Bool) (cd : Bool) (lq : Bool) :
    FrameFits.Statement (.windowSample ph rxd cd lq) := frameFits_of_none rfl

theorem FrameFits.referenceTick :
    FrameFits.Statement (.referenceTick) := frameFits_of_none rfl

end Sys2Proof.Laws
end

