-- ==== Sys2Proof/Laws/Table.lean ====
section
/-! SUPPORT. The sparse unit table: what a read gives after a write, and that a write keeps the canonical form. -/

namespace Sys2Proof.Machine

/-- In a list whose indices all lie above `i`, index `i` reads as the EMPTY entry. -/
theorem entryAt_of_forall_lt {units : List (Nat × Entry)} {i : Nat} (h : ∀ x ∈ units, i < x.1) :
    entryAt units i = emptyEntry := by
  induction units with
  | nil => rfl
  | cons x rest ih =>
    obtain ⟨j, e⟩ := x
    have hj : i < j := h (j, e) (by simp)
    rw [entryAt, if_neg (by omega)]
    exact ih fun y hy => h y (by simp [hy])

/-- The indices of a list in canonical form rise strictly. -/
def rising (units : List (Nat × Entry)) : Prop := (units.map Prod.fst).Pairwise (· < ·)

theorem rising_cons {x : Nat × Entry} {rest : List (Nat × Entry)} :
    rising (x :: rest) ↔ (∀ y ∈ rest, x.1 < y.1) ∧ rising rest := by
  simp [rising, List.pairwise_cons]

theorem tableWf_iff {units : List (Nat × Entry)} :
    tableWf units = true ↔ rising units ∧ ∀ x ∈ units, x.1 < 1024 ∧ x.2 ≠ emptyEntry := by
  simp [tableWf, rising, List.all_eq_true]

/-- What is listed after a write was listed before or is the entry written. -/
theorem mem_putEntry {units : List (Nat × Entry)} {i : Nat} {e : Entry} {x : Nat × Entry}
    (h : x ∈ putEntry units i e) : x ∈ units ∨ x = (i, e) ∧ e ≠ emptyEntry := by
  induction units with
  | nil =>
    rw [putEntry] at h
    split at h
    · exact absurd h (by simp)
    · exact .inr ⟨by simpa using h, ‹_›⟩
  | cons y rest ih =>
    obtain ⟨j, f⟩ := y
    rw [putEntry] at h
    split at h
    · split at h
      · exact .inl h
      · rcases List.mem_cons.1 h with h | h
        · exact .inr ⟨h, ‹_›⟩
        · exact .inl h
    · split at h
      · split at h
        · exact .inl (by simp [h])
        · rcases List.mem_cons.1 h with h | h
          · exact .inr ⟨h, ‹_›⟩
          · exact .inl (by simp [h])
      · rcases List.mem_cons.1 h with h | h
        · exact .inl (by simp [h])
        · rcases ih h with h | h
          · exact .inl (by simp [h])
          · exact .inr h

/-- A write leaves the index written reading as the entry written. -/
theorem entryAt_putEntry_self {units : List (Nat × Entry)} (h : rising units) (i : Nat) (e : Entry) :
    entryAt (putEntry units i e) i = e := by
  induction units with
  | nil =>
    rw [putEntry]
    split
    · simp_all [entryAt]
    · simp [entryAt]
  | cons y rest ih =>
    obtain ⟨j, f⟩ := y
    obtain ⟨hlt, hr⟩ := rising_cons.1 h
    have above : ∀ k, k ≤ j → ∀ x ∈ rest, k < x.1 := fun k hk x hx => Nat.lt_of_le_of_lt hk (hlt x hx)
    rw [putEntry]
    split
    · split
      · rename_i he
        rw [he, entryAt, if_neg (by omega)]
        exact entryAt_of_forall_lt (above i (by omega))
      · simp [entryAt]
    · split
      · split
        · rename_i he
          rw [he]
          exact entryAt_of_forall_lt (above i (by omega))
        · simp [entryAt]
      · rw [entryAt, if_neg ‹_›]
        exact ih hr

/-- A write leaves every other index reading as before. -/
theorem entryAt_putEntry_of_ne (units : List (Nat × Entry)) {i k : Nat} (e : Entry) (h : k ≠ i) :
    entryAt (putEntry units i e) k = entryAt units k := by
  induction units with
  | nil =>
    rw [putEntry]
    split
    · rfl
    · simp [entryAt, h]
  | cons y rest ih =>
    obtain ⟨j, f⟩ := y
    rw [putEntry]
    split
    · split
      · rfl
      · rw [entryAt, if_neg h]
    · split
      · rename_i hij
        have hkj : k ≠ j := fun hk => h (hk.trans hij.symm)
        split
        · rw [entryAt, if_neg hkj]
        · rw [entryAt, entryAt, if_neg h, if_neg hkj]
      · rw [entryAt, entryAt, ih]

theorem rising_putEntry {units : List (Nat × Entry)} (h : rising units) (i : Nat) (e : Entry) :
    rising (putEntry units i e) := by
  induction units with
  | nil =>
    rw [putEntry]
    split
    · exact h
    · simp [rising]
  | cons y rest ih =>
    obtain ⟨j, f⟩ := y
    obtain ⟨hlt, hr⟩ := rising_cons.1 h
    rw [putEntry]
    split
    · split
      · exact h
      · refine rising_cons.2 ⟨fun x hx => ?_, h⟩
        rcases List.mem_cons.1 hx with rfl | hx
        · assumption
        · exact Nat.lt_trans ‹_› (hlt x hx)
    · split
      · split
        · exact hr
        · rename_i hij _
          exact rising_cons.2 ⟨fun x hx => hij ▸ hlt x hx, hr⟩
      · refine rising_cons.2 ⟨fun x hx => ?_, ih hr⟩
        rcases mem_putEntry hx with hx | ⟨rfl, -⟩
        · exact hlt x hx
        · show j < i
          omega

/-- A write at an index of the table keeps the canonical form. -/
theorem tableWf_putEntry {units : List (Nat × Entry)} (h : tableWf units = true) {i : Nat} (hi : i < 1024) (e : Entry) :
    tableWf (putEntry units i e) = true := by
  obtain ⟨hr, hall⟩ := tableWf_iff.1 h
  refine tableWf_iff.2 ⟨rising_putEntry hr i e, fun x hx => ?_⟩
  rcases mem_putEntry hx with hx | ⟨rfl, he⟩
  · exact hall x hx
  · exact ⟨hi, he⟩

/-- The empty table, as a device reset leaves it, has the canonical form. -/
theorem tableWf_nil : tableWf [] = true := rfl

/-- The entry an index reads as, if it is not EMPTY, is listed at that index. -/
theorem mem_of_entryAt_ne {units : List (Nat × Entry)} {i : Nat} (h : entryAt units i ≠ emptyEntry) :
    (i, entryAt units i) ∈ units := by
  induction units with
  | nil => exact absurd rfl h
  | cons y rest ih =>
    obtain ⟨j, f⟩ := y
    rw [entryAt] at h ⊢
    split
    · rename_i hij
      simp [hij]
    · rw [if_neg ‹_›] at h
      exact List.mem_cons_of_mem _ (ih h)

/-- In canonical form a listed entry is what its index reads as. -/
theorem entryAt_of_mem {units : List (Nat × Entry)} (h : rising units) {x : Nat × Entry} (hx : x ∈ units) :
    entryAt units x.1 = x.2 := by
  induction units with
  | nil => cases hx
  | cons y rest ih =>
    obtain ⟨hlt, hr⟩ := rising_cons.1 h
    rcases List.mem_cons.1 hx with rfl | hx
    · simp [entryAt]
    · have := hlt x hx
      rw [entryAt, if_neg (by omega)]
      exact ih hr hx

end Sys2Proof.Machine
end

