-- ==== Sys2Proof/Laws/Uplink.lean ====
section
/-! SUPPORT. What the transmitter, the response queue, the intake and one step can do: one lemma for each shared
operation, which later proofs cite in place of its definition. -/

namespace Sys2Proof.Machine

/-! ### The transmitter (R151, R153) -/

/-- Nothing starts while a frame is in progress. -/
theorem transmit_busy {s : State} (h : s.uli.tx ≠ .free) : transmit s = s := by
  unfold transmit
  split
  · exact absurd ‹s.uli.tx = .free› h
  · rfl
  · rfl

/-- A free transmitter starts the oldest response (R151). -/
theorem transmit_response {s : State} {f : Frame} {fs : List Frame} (h : s.uli.tx = .free) (hr : s.uli.responses = f :: fs) :
    transmit s = startResponse f s := by
  simp [transmit, h, hr]

/-- A free transmitter with no response starts a NOTICE that is due (R151). -/
theorem transmit_notice {s : State} (h : s.uli.tx = .free) (hr : s.uli.responses = []) (hd : s.uli.noticeDue = true) :
    transmit s = startNotice s := by
  simp [transmit, h, hr, hd]

/-- A transmitter with nothing to send does nothing. -/
theorem transmit_idle {s : State} (hr : s.uli.responses = []) (hd : s.uli.noticeDue = false) : transmit s = s := by
  unfold transmit
  split
  · simp [hr, hd]
  · rfl
  · rfl

/-- All that the transmitter's choice can change: what is in progress, and notice-due. -/
theorem transmit_frame (s : State) :
    transmit s = { s with uli := { s.uli with tx := (transmit s).uli.tx, noticeDue := (transmit s).uli.noticeDue } } := by
  unfold transmit
  split
  · split
    · rfl
    · split <;> rfl
  · rfl
  · rfl

/-- The transmitter's choice marks no notice due. -/
theorem transmit_due {s : State} (h : (transmit s).uli.noticeDue = true) : s.uli.noticeDue = true := by
  revert h
  unfold transmit
  split
  · split
    · exact id
    · split
      · intro h
        cases h
      · exact id
  · exact id
  · exact id

/-- A response in progress is the oldest of the queue after the transmitter's choice, if it was before (R152). -/
theorem transmit_sendingOldest {s : State} (h : sendingOldest s.uli) : sendingOldest (transmit s).uli := by
  unfold transmit
  split
  · split
    · rename_i f fs hr
      intro g n hg
      simp only [startResponse, Transmitter.response.injEq] at hg
      simp [startResponse, hr, hg.1]
    · split
      · intro g n hg
        cases hg
      · exact h
  · exact h
  · exact h

/-! ### Responses (R150) -/

/-- A response enters at the newest end, and beside it only the transmitter, notice-due and the free-value counter can
change. -/
theorem respond_frame (f : Frame) (s : State) :
    respond f s = { s with
      uli := { s.uli with
        responses := s.uli.responses ++ [f]
        tx := (respond f s).uli.tx
        noticeDue := (respond f s).uli.noticeDue }
      draws := (respond f s).draws } := by
  unfold respond
  dsimp only
  split
  · split
    · split
      · rfl
      · rw [transmit_frame]
    · rw [transmit_frame]
  · rfl
  · rfl

/-- A busy transmitter leaves a new response waiting. -/
theorem respond_busy {f : Frame} {s : State} (h : s.uli.tx ≠ .free) :
    respond f s = { s with uli := { s.uli with responses := s.uli.responses ++ [f] } } := by
  unfold respond
  dsimp only
  split
  · exact absurd ‹s.uli.tx = .free› h
  · rfl
  · rfl

/-! ### One step -/

/-- The front command is carried out on the rest of the queue. -/
theorem step_cons {s : State} {c : Instr} {rest : List Instr} (h : s.pending = c :: rest) :
    step s = exec c { s with pending := rest } := by
  simp [step, h]

/-- An empty queue idles (log 5). -/
theorem step_nil {s : State} (h : s.pending = []) : step s = .next s := by
  simp [step, h]

end Sys2Proof.Machine
end

