-- ==== Sys2Proof/Tests/Slice0.lean ====
section
/-! SUPPORT. Tests of the model on small states, with values that the spec works out, and for every obligation that has
hypotheses one concrete state and operands that meet them (witness_ and the obligation's name). -/

set_option maxRecDepth 20000

open Sys2Proof Sys2Proof.Machine Sys2Proof.Claims

namespace Sys2Proof.Tests

/-! ### Well-formedness: each check refuses an ill-formed command -/

def submitFields : SubmitFields :=
  { id := 7, kind := 0, targetType := 0, target := 0x11, priority := 60, options := 0, budget := 3, rounds := 2
    windows := 0, release := 0, deadline := 0, payload := [1, 2] }

def writeFields : UnitWriteFields :=
  { index := 12, state := 1, address := 0x22, phase := 0, successor := 0, route := [5], groups := [7] }

theorem test_wellFormed_submit : (Instr.submit 0 submitFields).wellFormed = true ∧
    (Instr.submit 0 { submitFields with payload := List.replicate 215 0 }).wellFormed = false := by decide

theorem test_wellFormed_unitWrite : (Instr.unitWrite 0 writeFields).wellFormed = true ∧
    (Instr.unitWrite 0 { writeFields with groups := List.replicate 225 1 }).wellFormed = false := by decide

theorem test_wellFormed_profileWrite : (Instr.profileWrite 0 3 [48, 56]).wellFormed = true ∧
    (Instr.profileWrite 0 3 [48]).wellFormed = false := by decide

theorem test_wellFormed_badKind : (Instr.badKind 0x40 0 []).wellFormed = true ∧
    (Instr.badKind 0x32 0 []).wellFormed = false ∧
    (Instr.badKind 0x40 0 (List.replicate 239 0)).wellFormed = false := by decide

/-! ### Encodings and arithmetic, with the values the spec works out -/

/-- The CRC of "123456789" (R93). -/
theorem test_crc_check_value :
    crcOfBytes [0x31, 0x32, 0x33, 0x34, 0x35, 0x36, 0x37, 0x38, 0x39] = 0x29B1 := by decide +kernel

theorem test_cancel_frame : requestFrame 0x41 (.cancel 0x01020304) =
    { kind := 0x02, tag := 0x41, content := [0x01, 0x02, 0x03, 0x04] } := by decide

theorem test_frame_kinds_and_lengths : parseFrame { kind := 0x32, tag := 9, content := [0, 1] } = .badLength ∧
    parseFrame { kind := 0x32, tag := 9, content := [1] } = .request (.status 1) ∧
    parseFrame { kind := 0x40, tag := 0, content := [] } = .badKind := by decide

/-- The locking run of 1.2: the intervals 20,440 (seed), 20,444, 20,448 and an outlier. -/
theorem test_lock_update : lockUpdate 20480 0 20440 = (20440, 1) ∧ lockUpdate 20440 1 20444 = (20440, 2) ∧
    lockUpdate 20440 4 20448 = (20441, 5) ∧ lockUpdate 20440 4 21000 = (21000, 0) := by decide

/-- The late crossing of 1.4. -/
theorem test_late_crossing : filterStep 20480 20576 = 20492 := by decide

/-- The nominal grid of 1.4: windows 0, 1 and 2 of 10,240 ticks, and window 47. -/
theorem test_window_lengths :
    (beginWindow (newHalf true 0 10240 48)).window = some { index := 0, start := 0, length := 213 } ∧
    (beginWindow^[3] (newHalf true 0 10240 48)).window = some { index := 2, start := 426, length := 214 } ∧
    (beginWindow^[48] (newHalf true 0 10240 48)).window = some { index := 47, start := 10026, length := 214 } := by
  decide +kernel

/-- The floor of 7.8: up to 27, 61, 87 and 100, and down to 81, 61 and 46. -/
theorem test_noise_floor : noiseScore 20 46 = 111 ∧ noiseScore 30 46 = 166 ∧ floorStep 0 111 = 27 ∧
    floorStep 27 166 = 61 ∧ floorStep 61 166 = 87 ∧ floorStep 87 139 = 100 ∧ floorStep 100 22 = 81 ∧
    floorStep 81 0 = 61 ∧ floorStep 61 0 = 46 := by decide

theorem test_mode_thresholds : nextMode defaultProfile .normal 95 = .normal ∧ nextMode defaultProfile .normal 96 = .robust ∧
    nextMode defaultProfile .robust 49 = .robust ∧ nextMode defaultProfile .robust 46 = .normal := by decide

/-- R105's own cases. -/
theorem test_quality : qualityOf 5 = 15 ∧ qualityOf 6 = 14 ∧ qualityOf 11 = 13 ∧ qualityOf 83 = 0 := by decide

/-- Plan lengths: a direct POLL (T = 7), the relayed unicast of 4.8 (n = 5, h = 2: T = 27), a discovery round with R = 31
(T = 66). -/
theorem test_plan_lengths : unicastLength 0 (halfCyclesFor 104 46) (halfCyclesFor 88 46) = 7 ∧ unicastLength 2 5 2 = 27 ∧
    broadcastLength (halfCyclesFor 72 46) (halfCyclesFor 88 46) 31 = 66 ∧ broadcastLength 3 2 0 = 4 := by decide

/-! ### Small states -/

/-- A transmitter that is sending, so that nothing starts. -/
def busyUli : Uli := { resetUli 0 with tx := .notice { kind := 0xC0, tag := 0, content := [0, 1] } 0, noticeDue := false }

def liveUnit (address : Address) (phase : Option Phase) : Entry :=
  { emptyEntry with state := .active, address := some address, phase, groups := [7], quality := some 9 }

/-- Unit 5 on phase A, unit 6 redirected to it, unit 9 of unknown phase. -/
def table : List (Nat × Entry) :=
  [(5, liveUnit 0x11 (some .A)), (6, { emptyEntry with state := .redirected, address := some 0x16, successor := some 5 }),
    (9, liveUnit 0x19 none)]

def base : State := { State.reset with units := table, discovery := [0x99], uli := busyUli }

def put (r : Record) (s : State) : State := { s with records := [r], tagCounter := 2, nextSerial := 1 }

/-- A unicast TARIFF to unit 5. -/
def tariff : Record :=
  { serial := 0, id := 7, tag := 1, kind := .tariff, target := .unit 0x11
    targets := [{ unit := 5, outcome := .pending, attempts := 0, notBefore := none, inFlight := false }]
    priority := 60, enable := true, budget := 3, rounds := none, windows := 0, release := 0, deadline := 0
    payload := [1, 2], state := .ready, stage := .followUp, parts := [], roundsSent := 0, collided := 0, flights := 0
    lanesSeen := ⟨true, true, true⟩ }

/-- Its exchange on lane A. -/
def delivery : Exchange :=
  { exch := 0, serial := 0, lineTag := 1, work := .unicast 5, joined := false
    frame := lineFrame tariff (.unicast 5) 0x11 [] .normal, targets := [(5, 0x11)]
    plan := { kind := .unicast 0, n := 3, a := 2, t := 7, lanes := [] }
    position := 2, mode := .normal, boost := false, priority := 60, forced := false, abortDue := none, wholeAbort := none
    heard := [], decodes := [], collided := 0 }

def sending (x : Exchange) : Lane := { resetLane with state := .sending, exchange := some x, txen := true }

/-- The record in flight on lane A. -/
def flying : State :=
  { setLane (put { tariff with state := .active, flights := 1
                               targets := [{ unit := 5, outcome := .pending, attempts := 0, notBefore := none
                                             inFlight := true }] } base) .A (sending delivery) with
    nextExchange := 1, inFlight := [5] }

def quiet : Sample := { rxd := false, cd := false, lq := false }

def noisy : Sample := { rxd := false, cd := true, lq := false }

/-- A half-cycle of 10,240 ticks whose windows are over, `k` of them with carrier from window 1 on. -/
def overHalf (positive : Bool) (start k : Nat) : HalfCycle :=
  { positive, start, length := 10240, w := 48, acc := 0, window := some { index := 47, start := start + 10026, length := 214 }
    samples := quiet :: List.replicate k noisy ++ List.replicate (47 - k) quiet }

def cycleAt0 : Cycle := { start := 0, length := 20480, previous := none, missTested := true }

/-- A timing unit on its grid. -/
def gridUnit (timing : TimingState) (h : HalfCycle) : Ptu :=
  { timing, p := 20480, correction := none, lockCount := 8, missCount := if timing = .locked then 0 else 3
    anchor := some { time := 0, boundary := some 0 }, cycle := some cycleAt0, half := some h }

/-- The state at a boundary of phase A. -/
def atBoundary (k : Nat) (s : State) : State :=
  { s with
    now := 10240
    ptu := putPhase s.ptu .A (gridUnit .locked (overHalf true 0 k))
    lcm := putPhase s.lcm .A { resetLcm with start := some { state := .idle, gap := false } } }

theorem tableOk_base : base.tableOk := by
  refine ⟨by decide, ?_, ?_, ?_, ?_, by decide, by decide, ?_⟩ <;> intro i
  · intro j a hi hj
    simp only [base, table, entryAt] at hi hj
    split_ifs at hi hj <;> simp_all [liveUnit, emptyEntry] <;> subst hi <;> exact absurd hj (by decide)
  · intro h
    by_cases h6 : i = 6
    · subst h6; decide
    · simp only [base, table, entryAt] at h
      split_ifs at h <;> simp_all [liveUnit, emptyEntry]
  · simp only [base, table, entryAt]
    split_ifs <;> simp [liveUnit, emptyEntry]
  · simp only [base, table, entryAt]
    split_ifs <;> simp [liveUnit, emptyEntry]
  · simp only [base, List.mem_singleton, State.reset, stateAfterReset]
    rintro rfl j
    simp only [table, entryAt]
    split_ifs <;> simp [liveUnit, emptyEntry]

theorem queueOk_put (s : State) (r : Record) (h : r.serial = 0 ∧ 1 ≤ r.tag ∧ r.tag ≤ 65535) : (put r s).queueOk := by
  simp [put, State.queueOk, h]

theorem lanesOk_of {s : State} (a : laneOk s.lanes.a) (b : laneOk s.lanes.b) (c : laneOk s.lanes.c)
    (h : ∀ ph x, (laneOf s ph).exchange = some x → x.exch < s.nextExchange) : s.lanesOk := by
  intro ph
  cases ph
  · exact ⟨a, h .A⟩
  · exact ⟨b, h .B⟩
  · exact ⟨c, h .C⟩

theorem laneOk_reset : laneOk resetLane := by simp [laneOk, resetLane, isOccupied]

theorem laneOk_sending {x : Exchange} (h : x.position ≠ 0) : laneOk (sending x) := by
  simp [laneOk, sending, isOccupied, resetLane, h]

theorem lanesOk_base : base.lanesOk :=
  lanesOk_of laneOk_reset laneOk_reset laneOk_reset fun ph x h => by cases ph <;> cases h

theorem lanesOk_flying : flying.lanesOk :=
  lanesOk_of (laneOk_sending (by decide)) laneOk_reset laneOk_reset fun ph x h => by
    cases ph <;> cases h
    decide

theorem queueOk_flying : flying.queueOk := by simp [flying, put, setLane, State.queueOk, tariff]

/-- The record in flight, its plan's last half-cycle over, the boundary waiting to be commanded. -/
def rich : State :=
  { atBoundary 0 (setLane flying .A { sending { delivery with position := 7 } with state := .listening }) with
    pending := [.halfCycleBoundary .A true .neither] }

/-! ### The machine as a whole -/

theorem witness_StepRunsFrontCommand :
    rich.pending = .halfCycleBoundary .A true .neither :: [] ∧ State.reset.pending = [] := ⟨rfl, rfl⟩

theorem witness_FlagsClearedByStatusAlone : let c : Instr := .crossing .A
    c.wellFormed = true ∧ (∀ fsel baud, c ≠ .deviceReset fsel baud) ∧ (∀ tag o, c ≠ .status tag o) ∧
      (∀ b f, c ≠ .receivedByte b f) ∧ c ≠ .transmitterFree ∧ c ≠ .waitingSlotTaken ∧ ∀ tag m, c ≠ .maskWrite tag m := by
  simp [Instr.wellFormed]

theorem witness_PeriodEstimatesStayInWindow : rich.timingOk ∧ ∃ t, step rich = .next t := by
  refine ⟨fun ph => ?_, _, rfl⟩
  cases ph <;> simp [rich, atBoundary, gridUnit, periodOk, missesOk, ptuOf, atPhase, putPhase, setLane, flying, put, base,
    State.reset, stateAfterReset, resetPtu, gridRuns]

theorem witness_ClockProfileAndFloorsStayInRange :
    clockOk rich.clock ∧ profileOk rich.profile ∧ rich.floorsOk ∧ ∃ t, step rich = .next t := by
  refine ⟨⟨by decide, by decide, fun _ => by decide⟩, by unfold profileOk; decide, fun ph => ?_, _, rfl⟩
  cases ph <;> decide

theorem witness_TablePropertiesHoldAtAllTimes : base.tableOk ∧ ∃ t, step { base with pending := [.unitWrite 1 writeFields] } = .next t :=
  ⟨tableOk_base, _, rfl⟩

theorem witness_QueueIdentifiersStayApart : rich.queueOk ∧ ∃ t, step rich = .next t :=
  ⟨by simp [rich, atBoundary, flying, put, setLane, State.queueOk, tariff], _, rfl⟩

theorem witness_AttemptsNeverExceedBudget :
    (∃ r, r ∈ rich.records) ∧ (∀ r ∈ rich.records, withinBudget r) ∧ ∃ t, step rich = .next t :=
  ⟨⟨_, .head _⟩, by simp [rich, atBoundary, flying, put, setLane, withinBudget, targetWithin, tariff], _, rfl⟩

theorem witness_DoneRecordsAreSettled :
    rich.queueOk ∧ (∃ r, r ∈ rich.records) ∧ (∀ r ∈ rich.records, settled r) ∧ ∃ t, step rich = .next t :=
  ⟨by simp [rich, atBoundary, flying, put, setLane, State.queueOk, tariff], ⟨_, .head _⟩,
    by simp [rich, atBoundary, flying, put, setLane, settled, tariff, isDiscover, isDone], _, rfl⟩

theorem lanesOk_rich : rich.lanesOk :=
  lanesOk_of (by simp [laneOk, rich, atBoundary, setLane, putPhase, sending, isOccupied, resetLane, delivery]) laneOk_reset
    laneOk_reset fun ph x h => by
      cases ph <;> cases h
      decide

theorem witness_LaneStatesMatchWhatTheyHold : rich.lanesOk ∧ ∃ t, step rich = .next t := ⟨lanesOk_rich, _, rfl⟩

/-- A full response queue, its oldest response being sent, and the waiting slot in use. -/
def fullUli : Uli :=
  let f : Frame := { kind := 0x85, tag := 1, content := [0x00] }
  { resetUli 0 with slot := some { kind := 0x05, tag := 2, content := [] }, responses := [f, f, f, f], tx := .response f 0 }

theorem witness_NoticeOwedOnlyForReportableFlag :
    { base with uli := fullUli }.uplinkOk ∧
      ∃ t, step { base with uli := fullUli, pending := [.transmitterFree] } = .next t :=
  ⟨⟨by decide, fun _ => by decide, fun f n h => by cases h; decide, fun _ => by decide⟩, _, rfl⟩

theorem witness_RecordsKeepTheirTermsForLife :
    rich.queueOk ∧ (∃ t, step rich = .next t) ∧ ∃ r ∈ rich.records, r.serial < rich.nextSerial :=
  ⟨by simp [rich, atBoundary, flying, put, setLane, State.queueOk, tariff], ⟨_, rfl⟩, _, .head _, by decide⟩

/-! ### Phase timing units -/

def lockingAt (now lockCount : Nat) (anchor : Option Anchor) : State :=
  { setPtu base .A { resetPtu false with lockCount, anchor } with now }

def anchor1000 : Option Anchor := some { time := 1000, boundary := none }

/-- No anchor; an interval of 15,359, of 24,577, and, in the window, the seed, an agreeing sixth and a disagreeing
seventh. -/
theorem witness_LockingCrossingMeasured :
    let u := fun now lockCount anchor => ptuOf (lockingAt now lockCount anchor) .A
    (u 1000 0 none).timing = .locking ∧ (u 1000 0 none).anchor = none ∧
    (u 16359 3 anchor1000).anchor = anchor1000 ∧ (lockingAt 16359 3 anchor1000).now = 1000 + 15359 ∧ 15359 < 15360 ∧
    (lockingAt 25577 3 anchor1000).now = 1000 + 24577 ∧ 24576 < 24577 ∧
    (lockingAt 16360 0 anchor1000).now = 1000 + 15360 ∧ (u 16360 0 anchor1000).lockCount = 0 ∧
    (lockingAt 21800 6 anchor1000).now = 1000 + 20800 ∧ (u 21800 6 anchor1000).lockCount = 6 ∧
      (((20800 : Nat) : Int) - (u 21800 6 anchor1000).p).natAbs ≤ (u 21800 6 anchor1000).p / 64 ∧
    (lockingAt 21801 7 anchor1000).now = 1000 + 20801 ∧ (u 21801 7 anchor1000).lockCount = 7 ∧
      (u 21801 7 anchor1000).p / 64 < (((20801 : Nat) : Int) - (u 21801 7 anchor1000).p).natAbs := by
  decide

theorem witness_EighthIntervalLocksPhase : let s := lockingAt 21800 7 anchor1000
    (ptuOf s .A).timing = .locking ∧ (ptuOf s .A).anchor = some { time := 1000, boundary := none } ∧ s.now = 1000 + 20800 ∧
      15360 ≤ 20800 ∧ 20800 ≤ 24576 ∧ (ptuOf s .A).lockCount = 7 ∧
      (((20800 : Nat) : Int) - (ptuOf s .A).p).natAbs ≤ (ptuOf s .A).p / 64 := by
  decide

def gridAt (now : Nat) (timing : TimingState) (h : HalfCycle) : State :=
  { setPtu base .A (gridUnit timing h) with now }

theorem running_gridUnit {s : State} {timing : TimingState} {h : HalfCycle} (e : ptuOf s .A = gridUnit timing h)
    (ht : timing = .locked ∨ timing = .coasting) : running (ptuOf s .A) := by rw [e]; exact ht

/-- The crossing that ends a cycle, at the tolerance's edge, accepted in COASTING; and one tick beyond it, a glitch. -/
theorem witness_RunningCrossingCorrectsGrid :
    let s := gridAt 20800 .coasting (overHalf false 10240 0)
    let g := gridAt 20801 .coasting (overHalf false 10240 0)
    running (ptuOf s .A) ∧ (ptuOf s .A).cycle = some cycleAt0 ∧
      ((s.now : Int) - (cycleAt0.start + cycleAt0.length : Nat)).natAbs < ((s.now : Int) - cycleAt0.start).natAbs ∧
      ((s.now : Int) - (20480 : Nat)).natAbs ≤ (ptuOf s .A).p / 64 ∧
      (∀ an, (ptuOf s .A).anchor = some an → an.boundary ≠ some 20480) ∧ ¬(20480 = cycleAt0.start ∧ cycleAt0.missTested = true) ∧
      (ptuOf s .A).anchor = some { time := 0, boundary := some 0 } ∧ 15360 ≤ s.now - 0 ∧ s.now - 0 ≤ 24576 ∧
    ¬((g.now : Int) - (20480 : Nat)).natAbs ≤ (ptuOf g .A).p / 64 := by
  refine ⟨.inr rfl, rfl, by decide, by decide, fun an h => ?_, by decide, rfl, by decide, by decide, by decide⟩
  cases h
  decide

theorem witness_CrossingEndsLoss :
    let s := setPtu (put tariff base) .A { resetPtu false with timing := .lost, missCount := 50 }
    (ptuOf s .A).timing = .lost ∧ (laneOf s .A).state ≠ .stopped := by decide

def untested (missCount : Nat) (boundary : Nat) : State :=
  { setPtu base .A
      { gridUnit .locked (overHalf true 0 0) with
        cycle := some { cycleAt0 with missTested := false }, missCount
        anchor := some { time := 0, boundary := some boundary } } with
    now := 320 }

/-- The moment of the test exactly, with the boundary served and with it missed. -/
theorem witness_MissTestCountsMisses :
    let cyc : Cycle := { cycleAt0 with missTested := false }
    let s := untested 0 0
    let m := untested 48 7
    running (ptuOf s .A) ∧ (ptuOf s .A).cycle = some cyc ∧ cyc.missTested = false ∧
      cyc.start + (ptuOf s .A).p / 64 ≤ s.now ∧ (∃ an, (ptuOf s .A).anchor = some an ∧ an.boundary = some cyc.start) ∧
    running (ptuOf m .A) ∧ (ptuOf m .A).cycle = some cyc ∧ cyc.start + (ptuOf m .A).p / 64 ≤ m.now ∧
      ¬(∃ an, (ptuOf m .A).anchor = some an ∧ an.boundary = some cyc.start) ∧ (ptuOf m .A).missCount + 1 < 50 := by
  refine ⟨.inl rfl, rfl, rfl, by decide, ⟨_, rfl, rfl⟩, .inl rfl, rfl, by decide, ?_, by decide⟩
  rintro ⟨an, h, hb⟩
  cases h
  exact absurd hb (by decide)

/-- The fiftieth miss while the lane sends. -/
theorem witness_FiftiethMissLosesPhase :
    let s := setLane { untested 49 7 with nextExchange := 1 } .A (sending delivery)
    let cyc : Cycle := { cycleAt0 with missTested := false }
    s.lanesOk ∧ running (ptuOf s .A) ∧ (ptuOf s .A).cycle = some cyc ∧ cyc.missTested = false ∧
      cyc.start + (ptuOf s .A).p / 64 ≤ s.now ∧ (ptuOf s .A).missCount = 49 ∧
      (∀ an, (ptuOf s .A).anchor = some an → an.boundary ≠ some cyc.start) ∧ (laneOf s .A).exchange = some delivery ∧
      noOtherPart s .A delivery ∧ delivery.joined = false := by
  refine ⟨lanesOk_of (laneOk_sending (by decide)) laneOk_reset laneOk_reset fun ph x h => ?_, .inl rfl, rfl, rfl, by decide,
    rfl, fun an h => ?_, rfl, fun q y hq h => ?_, rfl⟩
  · cases ph <;> cases h
    decide
  · cases h
    decide
  · cases q
    · exact absurd rfl hq
    · cases h
    · cases h

theorem boundaryReady_at {s : State} {k : Nat} (positive : Bool) (start : Nat)
    (e : ptuOf s .A = gridUnit .locked (overHalf positive start k)) (hk : (overHalf positive start k).samples.length = 48)
    (hn : start + 10240 ≤ s.now) : boundaryReady s .A (overHalf positive start k) cycleAt0 := by
  refine ⟨.inl (by rw [e]; rfl), by rw [e]; rfl, by rw [e]; rfl, rfl, hk, hn⟩

/-- The end of each half of the cycle. -/
theorem witness_HalfCycleBoundaryMovesGrid :
    boundaryReady (atBoundary 0 base) .A (overHalf true 0 0) cycleAt0 ∧
      boundaryReady (gridAt 20480 .locked (overHalf false 10240 0)) .A (overHalf false 10240 0) cycleAt0 :=
  ⟨boundaryReady_at true 0 rfl (by decide) (by decide), boundaryReady_at false 10240 rfl (by decide) (by decide)⟩

theorem witness_WindowsFillTheHalfCycle : 1 ≤ 1 ∧ 1 ≤ 48 ∧ 1 ≤ 48 ∧ 48 ≤ 48 := by decide

/-- Window 1 of a half-cycle on a lane that sends, at the moment it begins; and window 0 at its midpoint. -/
theorem witness_WindowsDriveAndSampleTheLine :
    let first : HalfCycle := { newHalf true 0 10240 48 with acc := 16, window := some { index := 0, start := 0, length := 213 } }
    let h : HalfCycle := { first with samples := [quiet] }
    let s := setLane { gridAt 213 .locked h with nextExchange := 1 } .A (sending delivery)
    let m := gridAt 106 .locked first
    s.lanesOk ∧ running (ptuOf s .A) ∧ (ptuOf s .A).half = some h ∧
      (∃ v, h.window = some v ∧ h.samples.length = v.index + 1 ∧ 213 = v.start + v.length) ∧ h.samples.length < h.w ∧
      213 ≤ s.now ∧ (laneOf s .A).state = .sending ∧ delivery.position ≤ delivery.plan.n ∧ delivery.mode = .normal ∧
      delivery.frame[(delivery.position - 1) * (h.w - 2) + (1 - 1)]? = some false ∧
    running (ptuOf m .A) ∧ (ptuOf m .A).half = some first ∧
      (∃ v, first.window = some v ∧ first.samples.length = v.index ∧ v.start + v.length / 2 ≤ m.now) := by
  refine ⟨lanesOk_of (laneOk_sending (by decide)) laneOk_reset laneOk_reset fun ph x h => ?_, .inl rfl, rfl,
    ⟨_, rfl, rfl, rfl⟩, by decide, by decide, rfl, by decide, rfl, by decide +kernel, .inl rfl, rfl, ⟨_, rfl, rfl, by decide⟩⟩
  cases ph <;> cases h
  decide

/-! ### Network clock -/

theorem witness_TicksCountAndSecondsRollOver :
    let at' := fun sub => { put { tariff with state := .waiting, release := 8 } base with clock := { isSet := true, seconds := 7, sub } }
    base.queueOk ∧ base.clock.isSet = false ∧ (at' 1023998).queueOk ∧ (at' 1023998).clock.sub < 1023999 ∧
      (at' 1023999).queueOk ∧ (at' 1023999).clock.isSet = true ∧ (at' 1023999).clock.sub = 1023999 ∧
      late 8 { tariff with state := .waiting, deadline := 8 } ∧ ¬late 8 { tariff with deadline := 9 } := by
  simp [late, base, put, State.queueOk, tariff, State.reset, stateAfterReset, resetClock]

theorem witness_ClockSetActsAtOnce :
    (put tariff base).queueOk ∧ (put tariff base).uli.responses.length < 4 ∧ (1 : BitVec 32) ≠ 0 ∧
      late 1 { tariff with deadline := 1 } ∧ ¬late 1 tariff :=
  ⟨queueOk_put _ _ (by decide), by decide, by decide, by unfold late; decide, by unfold late; decide⟩

/-- R18's cases 1 and 2, and the second that has just been reached. -/
theorem witness_HalfCyclesRemainingBeforeSecond :
    let c : Clock := { isSet := true, seconds := 1000, sub := 512000 }
    c.isSet = true ∧ 0 < 2560000 ∧ 1003 * 1024000 = c.seconds * 1024000 + c.sub + 2560000 ∧
      1000 * 1024000 ≤ c.seconds * 1024000 + c.sub := by
  decide

theorem test_half_cycles_remaining :
    halfCyclesRemaining { base with clock := { isSet := true, seconds := 1000, sub := 512000 } } .A 1003 = 250 ∧
    halfCyclesRemaining { setPtu base .A { resetPtu true with timing := .locked } with
      clock := { isSet := true, seconds := 1002, sub := 24000 } } .A 1003 = 117 ∧
    halfCyclesRemaining { base with clock := { isSet := true, seconds := 1003, sub := 5 } } .A 1003 = 0 ∧
    halfCyclesRemaining { base with clock := { isSet := true, seconds := 0, sub := 0 } } .A 1003 = 65535 := by decide

/-! ### Monitors and lanes -/

/-- A quiet half-cycle with 5 busy windows and one with 6, and a half-cycle of the lane's own sending. -/
theorem witness_MonitorJudgesEndedHalfCycle :
    boundaryReady (atBoundary 5 base) .A (overHalf true 0 5) cycleAt0 ∧
      boundaryReady (atBoundary 6 base) .A (overHalf true 0 6) cycleAt0 ∧
      (lcmOf (atBoundary 6 base) .A).start = some { state := .idle, gap := false } ∧
      (let s := setLcm (atBoundary 6 base) .A { resetLcm with start := some { state := .sending, gap := false } }
       boundaryReady s .A (overHalf true 0 6) cycleAt0 ∧ (lcmOf s .A).start = some { state := .sending, gap := false }) ∧
      busy (overHalf true 0 5) = 5 ∧ busy (overHalf true 0 6) = 6 :=
  ⟨boundaryReady_at true 0 rfl (by decide) (by decide), boundaryReady_at true 0 rfl (by decide) (by decide), rfl,
    ⟨boundaryReady_at true 0 rfl (by decide) (by decide), rfl⟩, by decide, by decide⟩

/-- One record for unit 5 on phase A. -/
def offered (k : Nat) : State := atBoundary k (put tariff base)

theorem loneUnicast_offered (k : Nat) (hk : (overHalf true 0 k).samples.length = 48)
    (hc : candidates (offered k) .A = [{ serial := 0, work := .unicast 5, joined := false, priority := 60 }]) :
    loneUnicast (offered k) .A (overHalf true 0 k) cycleAt0 tariff 5 false :=
  ⟨boundaryReady_at true 0 rfl hk (by simp [offered, atBoundary]), rfl, rfl, rfl,
    lanesOk_of laneOk_reset laneOk_reset laneOk_reset (fun ph x h => by cases ph <;> cases h),
    by simp [offered, atBoundary, put, State.queueOk, tariff], by unfold profileOk; simp [offered, atBoundary, put, base, State.reset, stateAfterReset, defaultProfile],
    .head _, rfl, by decide, rfl, hc, fun q hq => by
      simp only [offered, atBoundary, put, List.mem_singleton] at hq
      subst hq
      simp [evaluationEnds, silentSpent, tariff]⟩

theorem witness_ClearLineGrantsUnicast :
    loneUnicast (offered 5) .A (overHalf true 0 5) cycleAt0 tariff 5 false ∧ busy (overHalf true 0 5) ≤ (48 - 2) / 8 :=
  ⟨loneUnicast_offered 5 (by decide) (by decide +kernel), by decide⟩

/-- One below the deferral limit, and at it. -/
theorem witness_BusyLineDefersThenForces :
    loneUnicast (offered 6) .A (overHalf true 0 6) cycleAt0 tariff 5 false ∧ (48 - 2) / 8 < busy (overHalf true 0 6) ∧
      (laneOf (offered 6) .A).deferral + 1 < (offered 6).profile.deferral ∧
      let s := { offered 6 with profile := { defaultProfile with deferral := 1 } }
      loneUnicast s .A (overHalf true 0 6) cycleAt0 tariff 5 false ∧ s.profile.deferral ≤ (laneOf s .A).deferral + 1 := by
  obtain ⟨h1, h2, h3, h4, h5, h6, h7, h8, h9, h10, h11, -, h13⟩ := loneUnicast_offered 6 (by decide) (by decide +kernel)
  exact ⟨loneUnicast_offered 6 (by decide) (by decide +kernel), by decide, by decide,
    ⟨h1, h2, h3, h4, h5, h6, by unfold profileOk; simp [defaultProfile], h8, h9, h10, h11, by decide +kernel, h13⟩, by decide⟩

/-- A poll of unit 9, whose phase is unknown, with lane B usable. -/
def joinedCall : Record :=
  { tariff with
    target := .unit 0x19
    targets := [{ unit := 9, outcome := .pending, attempts := 0, notBefore := none, inFlight := false }] }

def joinedItem : WorkItem := { serial := 0, work := .unicast 9, joined := true, priority := 60 }

def joinedState (b : Lane) : State :=
  let s := atBoundary 0 (put joinedCall base)
  setLane (setPtu s .B (gridUnit .locked (newHalf true 0 10240 48))) .B b

theorem loneUnicast_joined (b : Lane) (hb : laneOk b) (he : b.exchange = none)
    (hc : candidates (joinedState b) .A = [joinedItem]) :
    loneUnicast (joinedState b) .A (overHalf true 0 0) cycleAt0 joinedCall 9 true :=
  ⟨boundaryReady_at true 0 rfl (by decide) (by simp [joinedState, setLane, setPtu, atBoundary]), rfl, rfl, rfl,
    lanesOk_of laneOk_reset hb laneOk_reset (fun ph x h => by
      cases ph
      · cases h
      · exact absurd (he.symm.trans h) (by simp)
      · cases h),
    by simp [joinedState, setLane, setPtu, atBoundary, put, State.queueOk, joinedCall, tariff],
    by unfold profileOk; simp [joinedState, setLane, setPtu, atBoundary, put, base, State.reset, stateAfterReset, defaultProfile],
    .head _, rfl, by decide, rfl, hc, fun q hq => by
      simp only [joinedState, setLane, setPtu, atBoundary, put, List.mem_singleton] at hq
      subst hq
      simp [evaluationEnds, silentSpent, joinedCall, tariff]⟩

/-- Lane B usable and free, held for another item, and held for the item; an urgent priority, and none urgent. -/
theorem witness_JoinedUnicastReservesThenGrants :
    let lane := fun item : WorkItem => { resetLane with state := .reserved, reserved := some { item, forced := false } }
    let held := lane joinedItem
    let other := lane { joinedItem with work := .unicast 3 }
    let calm := { joinedState resetLane with profile := { defaultProfile with urgent := 61 } }
    loneUnicast (joinedState resetLane) .A (overHalf true 0 0) cycleAt0 joinedCall 9 true ∧
      busy (overHalf true 0 0) ≤ (48 - 2) / 8 ∧ (joinedState resetLane).profile.urgent ≤ joinedCall.priority ∧
      usable (joinedState resetLane) .B = true ∧ (laneOf (joinedState resetLane) .B).state ≠ .reserved ∧
    (∀ q, ∀ i ∈ candidates calm q, i.priority < calm.profile.urgent) ∧
    loneUnicast (joinedState other) .A (overHalf true 0 0) cycleAt0 joinedCall 9 true ∧
      usable (joinedState other) .B = true ∧ (laneOf (joinedState other) .B).reserved = other.reserved ∧
      (∀ v, other.reserved = some v → v.item.work ≠ .unicast 9) ∧
    loneUnicast (joinedState held) .A (overHalf true 0 0) cycleAt0 joinedCall 9 true ∧
      usable (joinedState held) .B = true ∧ usable (joinedState held) .C = false ∧
      (laneOf (joinedState held) .B).state = .reserved ∧
      (laneOf (joinedState held) .B).reserved = some { item := joinedItem, forced := false } :=
  ⟨loneUnicast_joined _ laneOk_reset rfl (by decide +kernel), by decide, by decide, by decide, by decide,
    fun q => by cases q <;> decide +kernel,
    loneUnicast_joined _ (by simp [laneOk, isOccupied, resetLane]) rfl (by decide +kernel), by decide, rfl,
    fun v h => by cases h; decide,
    loneUnicast_joined _ (by simp [laneOk, isOccupied, resetLane]) rfl (by decide +kernel), by decide, by decide, rfl, rfl⟩

def boundaryFlying (l : Lane) : State := atBoundary 0 (setLane flying .A l)

theorem lanesOk_boundaryFlying (l : Lane) (x : Exchange) (h : laneOk l) (hx : l.exchange = some x) (hn : x.exch = 0) :
    (boundaryFlying l).lanesOk :=
  lanesOk_of h laneOk_reset laneOk_reset fun ph y e => by
    cases ph
    · have : x = y := Option.some.inj (hx.symm.trans e)
      subst this
      rw [hn]
      exact Nat.zero_lt_one
    · cases e
    · cases e

def armed : Lane := { sending { delivery with position := 0 } with state := .armed, txen := false }

theorem laneOk_armed : laneOk armed := by simp [laneOk, armed, sending, isOccupied, resetLane]

/-- A lane before its part, one in its plan's last half-cycle but one, which ends the answer window, and the half-cycles
before it: the window's first, and the frame's last. -/
theorem witness_OccupiedLaneAdvances :
    boundaryReady (boundaryFlying armed) .A (overHalf true 0 0) cycleAt0 ∧ (boundaryFlying armed).lanesOk ∧
      (laneOf (boundaryFlying armed) .A).exchange = some { delivery with position := 0 } ∧
      (laneOf (boundaryFlying armed) .A).state = .armed ∧
    (let x := { delivery with position := 6 }
     boundaryReady (boundaryFlying (sending x)) .A (overHalf true 0 0) cycleAt0 ∧ (boundaryFlying (sending x)).lanesOk ∧
       (laneOf (boundaryFlying (sending x)) .A).exchange = some x ∧ x.abortDue = none ∧ x.position < x.plan.t ∧
       answerHalf x 1 ∧ 1 + 1 = x.plan.a) ∧
    answerHalf { delivery with position := 5 } 0 ∧ 0 + 1 ≠ delivery.plan.a ∧
      ∀ j, ¬answerHalf { delivery with position := 3 } j :=
  ⟨boundaryReady_at true 0 rfl (by decide) (by decide), lanesOk_boundaryFlying armed _ laneOk_armed rfl rfl, rfl, rfl,
    ⟨boundaryReady_at true 0 rfl (by decide) (by decide), lanesOk_boundaryFlying _ _ (laneOk_sending (by decide)) rfl rfl,
      rfl, rfl, by decide, ⟨by decide, rfl⟩, by decide⟩,
    ⟨by decide, rfl⟩, by decide, fun j h => by simp [answerHalf, delivery] at h; omega⟩

/-- The part of a joined exchange, running on lanes A and B. -/
def jointPart : Exchange := { delivery with position := 7, joined := true }

def jointFlying : State := setLane (boundaryFlying (sending jointPart)) .B (sending { jointPart with position := 6 })

theorem lanesOk_jointFlying : jointFlying.lanesOk :=
  lanesOk_of (laneOk_sending (by decide)) (laneOk_sending (by decide)) laneOk_reset fun ph x h => by
    cases ph <;> cases h <;> decide

/-- The plan's last half-cycle, with a STOP due and an abort due, and with a PAUSE due; and the first part of a joined
exchange to end, while lane B's runs on. -/
theorem witness_ExchangeEndFormsReports :
    let x := { delivery with position := 7, abortDue := some .stopped }
    let s := boundaryFlying { sending x with stopDue := true }
    boundaryReady s .A (overHalf true 0 0) cycleAt0 ∧ s.lanesOk ∧ s.queueOk ∧ (laneOf s .A).exchange = some x ∧
      (laneOf s .A).state ≠ .armed ∧ noOtherPart s .A x ∧ x.abortDue ≠ none ∧ x.plan.t ≤ x.position ∧
      (laneOf s .A).stopDue = true ∧ (∃ r ∈ s.records, r.serial = x.serial) ∧
    (let y := { delivery with position := 7 }
     let t := boundaryFlying { sending y with pauseDue := true }
     boundaryReady t .A (overHalf true 0 0) cycleAt0 ∧ t.lanesOk ∧ t.queueOk ∧ (laneOf t .A).exchange = some y ∧
       y.plan.t ≤ y.position ∧ (laneOf t .A).stopDue = false ∧ (laneOf t .A).pauseDue = true) ∧
    boundaryReady jointFlying .A (overHalf true 0 0) cycleAt0 ∧ jointFlying.lanesOk ∧ jointFlying.queueOk ∧
      (laneOf jointFlying .A).exchange = some jointPart ∧ jointPart.plan.t ≤ jointPart.position ∧
      ¬noOtherPart jointFlying .A jointPart ∧ ∀ q, (laneOf jointFlying q).state ≠ .armed := by
  have hq : ∀ l, (boundaryFlying l).queueOk := fun l => by
    simp [boundaryFlying, atBoundary, flying, put, setLane, State.queueOk, tariff]
  refine ⟨boundaryReady_at true 0 rfl (by decide) (by decide),
    lanesOk_boundaryFlying _ _ (by simp [laneOk, sending, isOccupied, resetLane]) rfl rfl, hq _, rfl, by decide,
    fun q y h0 h => ?_, by decide, by decide, rfl, ⟨_, .head _, rfl⟩,
    ⟨boundaryReady_at true 0 rfl (by decide) (by decide),
      lanesOk_boundaryFlying _ _ (by simp [laneOk, sending, isOccupied, resetLane]) rfl rfl, hq _, rfl, by decide, rfl, rfl⟩,
    boundaryReady_at true 0 rfl (by decide) (by decide), lanesOk_jointFlying, hq (sending jointPart), rfl, by decide,
    fun h => absurd (h .B _ (by decide) rfl) (by decide), fun q => by cases q <;> decide⟩
  cases q
  · exact absurd rfl h0
  · cases h
  · cases h

/-- Record 7 in flight on lane A in a lane state, and record 8 of priority 10 for unit 12 on phase A. -/
def preemptible7 : Record :=
  { tariff with
    state := .active, flights := 1
    targets := [{ unit := 5, outcome := .pending, attempts := 0, notBefore := none, inFlight := true }] }

def ordinary8 : Record :=
  { tariff with
    serial := 1, id := 8, tag := 2, priority := 10
    targets := [{ unit := 12, outcome := .pending, attempts := 0, notBefore := none, inFlight := false }] }

def contested (l : Lane) : State :=
  { setLane flying .A l with
    units := table ++ [(12, liveUnit 0x22 (some .A))], records := [preemptible7, ordinary8], nextSerial := 2 }

def weak (position : Nat) : Exchange := { delivery with priority := 20, position }

theorem lanesOk_contested (l : Lane) (x : Exchange) (h : laneOk l) (hx : l.exchange = some x) (hn : x.exch = 0) :
    (contested l).lanesOk :=
  lanesOk_of h laneOk_reset laneOk_reset fun ph y e => by
    cases ph
    · have : x = y := Option.some.inj (hx.symm.trans e)
      subst this
      rw [hn]
      exact Nat.zero_lt_one
    · cases e
    · cases e

/-- No request for the lane; one for another record; one for its own, SENDING and ARMED. Record 8 adjusted to priority 60
against an exchange of priority 20, SENDING and ARMED, and to priority 30. -/
theorem witness_AbortRequestReachesItsExchange :
    let ask := fun (serial : Nat) => { flying with abortRequests := [{ lane := .A, serial, cause := .expiry }] }
    let raised := fun (l : Lane) (p : Nat) => { contested l with records := [preemptible7, { ordinary8 with priority := p }] }
    let waiting : Lane := { sending (weak 0) with state := .armed, txen := false }
    (∀ a ∈ flying.abortRequests, a.lane ≠ .A) ∧ (ask 3).lanesOk ∧
      (ask 3).abortRequests.find? (fun a => a.lane == .A) = some { lane := .A, serial := 3, cause := .expiry } ∧
      (∀ x, (laneOf (ask 3) .A).exchange = some x → x.serial ≠ 3) ∧
    (ask 0).lanesOk ∧ (laneOf (ask 0) .A).exchange = some delivery ∧ delivery.serial = 0 ∧
      (laneOf (ask 0) .A).state ≠ .armed ∧
    (boundaryFlying armed).lanesOk ∧ (laneOf (boundaryFlying armed) .A).state = .armed ∧
      (laneOf (boundaryFlying armed) .A).stopDue = false ∧
    (contested (sending (weak 2))).queueOk ∧ (contested (sending (weak 2))).lanesOk ∧
      (contested (sending (weak 2))).uli.responses.length < 4 ∧ ordinary8 ∈ (contested (sending (weak 2))).records ∧
      isDone ordinary8 = false ∧ { ordinary8 with priority := 60 } ≠ ordinary8 ∧
      (contested (sending (weak 2))).records.map (fun q => if q.id = 8 then { ordinary8 with priority := 60 } else q) =
        (raised (sending (weak 2)) 60).records ∧
      (∀ q ∈ (raised (sending (weak 2)) 60).records, evaluationEnds (raised (sending (weak 2)) 60) q = false) ∧
      (∀ q, q ≠ .A → (laneOf (contested (sending (weak 2))) q).exchange = none) ∧
      urgentWaits (raised (sending (weak 2)) 60) .A ∧ preemptibleNow (contested (sending (weak 2))) .A (weak 2) ∧
    (contested waiting).lanesOk ∧ urgentWaits (raised waiting 60) .A ∧ preemptibleNow (contested waiting) .A (weak 0) ∧
    ¬urgentWaits (raised (sending (weak 2)) 30) .A := by
  refine ⟨by decide, lanesOk_flying, rfl, fun x h => ?_, lanesOk_flying, rfl, rfl, by decide,
    lanesOk_boundaryFlying armed _ laneOk_armed rfl rfl, rfl, rfl, by unfold State.queueOk; decide,
    lanesOk_contested _ _ (laneOk_sending (by decide)) rfl rfl, by decide, .tail _ (.head _), rfl, by decide, by decide,
    by decide +kernel, fun q h => by cases q <;> first | exact absurd rfl h | rfl,
    ⟨_, List.mem_of_mem_head? (a := { serial := 1, work := .unicast 12, joined := false, priority := 60 }) (by decide +kernel),
      by decide, _, .tail _ (.head _), rfl, by decide +kernel⟩,
    ⟨by decide, rfl, .inr (.inr (.inl rfl))⟩,
    lanesOk_contested _ _ (by simp [laneOk, sending, isOccupied, resetLane, weak]) rfl rfl,
    ⟨_, List.mem_of_mem_head? (a := { serial := 1, work := .unicast 12, joined := false, priority := 60 }) (by decide +kernel),
      by decide, _, .tail _ (.head _), rfl, by decide +kernel⟩,
    ⟨by decide, rfl, .inl rfl⟩, ?_⟩
  · cases h
    decide
  · rintro ⟨i, hi, hp, -⟩
    have hall : ∀ i ∈ candidates { contested (sending (weak 2)) with
        records := [preemptible7, { ordinary8 with priority := 30 }] } .A, i.priority < 56 := by decide +kernel
    exact absurd hp (Nat.not_le.2 (hall i hi))

/-- The masks 8 and 0; a stopped, a free, an ARMED and a SENDING lane. -/
theorem witness_StopTakesLaneOutAtOnce :
    base.uli.responses.length < 4 ∧ 7 < (8 : Byte).toNat ∧ maskLanes 1 = [.A] ∧ (1 : Byte).toNat ≤ 7 ∧
      (setLane base .A { resetLane with state := .stopped }).lanesOk ∧ base.lanesOk ∧ (laneOf base .A).state = .idle ∧
      flying.lanesOk ∧ (laneOf flying .A).exchange = some delivery ∧ (laneOf flying .A).state ≠ .armed ∧
      flying.uli.responses.length < 4 ∧
      (boundaryFlying armed).lanesOk ∧ (laneOf (boundaryFlying armed) .A).state = .armed ∧
      (boundaryFlying armed).uli.responses.length < 4 :=
  ⟨by decide, by decide, by decide, by decide,
    lanesOk_of (by simp [laneOk, setLane, putPhase, isOccupied, resetLane]) laneOk_reset laneOk_reset
      (fun ph x h => by cases ph <;> cases h),
    lanesOk_base, rfl, lanesOk_flying, rfl, by decide, by decide, lanesOk_boundaryFlying armed _ laneOk_armed rfl rfl, rfl,
    by decide⟩

theorem witness_PauseAndResumeSetLaneAside : maskLanes 4 = [.C] ∧ (4 : Byte).toNat ≤ 7 ∧ base.lanesOk ∧
    base.uli.responses.length < 4 ∧ (laneOf base .C).state = .idle ∧
    (let s := setLane base .C { resetLane with state := .stopped }
     s.lanesOk ∧ (laneOf s .C).state = .stopped) ∧
    maskLanes 1 = [.A] ∧ flying.lanesOk ∧ isOccupied (laneOf flying .A).state = true :=
  ⟨by decide, by decide, lanesOk_base, by decide, rfl,
    ⟨lanesOk_of laneOk_reset laneOk_reset (by simp [laneOk, setLane, putPhase, isOccupied, resetLane])
      (fun ph x h => by cases ph <;> cases h), rfl⟩, by decide, lanesOk_flying, rfl⟩

/-! ### Dispatch queue -/

theorem queueOk_base : base.queueOk := by
  unfold State.queueOk
  decide

/-- A SUBMIT for unit 5 with a release in the future. -/
theorem witness_SubmitAdmitsRecord :
    let s := { base with clock := { isSet := true, seconds := 7, sub := 0 } }
    let f := { submitFields with release := 8, deadline := 9 }
    s.queueOk ∧ s.uli.responses.length < 4 ∧ ¬submitBad f ∧ (∀ r ∈ s.records, r.id ≠ f.id) ∧ s.records.length < 64 ∧
      (f.release ≠ 0 ∨ f.deadline ≠ 0 → s.clock.isSet = true) ∧ (f.deadline ≠ 0 → s.clock.seconds < f.deadline.toNat) ∧
      (f.release ≠ 0 → f.deadline ≠ 0 → f.release.toNat < f.deadline.toNat) ∧
      expandTarget s.units (submitTarget f) = some [5] ∧ s.clock.seconds < f.release.toNat ∧ base.queueOk ∧
      ¬submitBad submitFields ∧ submitFields.release.toNat ≤ base.clock.seconds := by
  refine ⟨queueOk_base, by decide, by unfold submitBad; decide, by decide, by decide, fun _ => rfl, fun _ => by decide,
    fun _ _ => by decide, by decide, by decide, queueOk_base, by unfold submitBad; decide, by decide⟩

/-- Each check in turn at the edge: a payload of 17, an identifier in use, 64 records, no clock, a deadline just reached,
a release at the deadline, an address no entry holds, a group without units. -/
theorem witness_SubmitRefusedByFirstFailingCheck :
    let timed := { base with clock := { isSet := true, seconds := 9, sub := 0 } }
    base.uli.responses.length < 4 ∧ submitBad { submitFields with payload := List.replicate 17 0 } ∧ ¬submitBad submitFields ∧
      (∃ r ∈ (put tariff base).records, r.id = submitFields.id) ∧
      64 ≤ { base with records := List.replicate 64 { tariff with id := 1 } }.records.length ∧
      ({ submitFields with deadline := 9 }.deadline ≠ 0 ∧ base.clock.isSet = false) ∧
      (9 : BitVec 32).toNat ≤ timed.clock.seconds ∧ (11 : BitVec 32).toNat ≤ (11 : BitVec 32).toNat ∧
      expandTarget base.units (submitTarget { submitFields with target := 0x77 }) = none ∧
      expandTarget base.units (submitTarget { submitFields with targetType := 1, target := 0x55 }) = some [] := by
  refine ⟨by decide, by unfold submitBad; decide, by unfold submitBad; decide, ⟨tariff, .head _, rfl⟩, by decide, by decide,
    by decide, by decide, by decide, by decide⟩

/-- The table with a live unit, a redirected one and a free address; quality 9 is not below 9. -/
theorem witness_TargetsExpandToLiveUnits :
    base.tableOk ∧ (unitAt base 5).address = some 0x11 ∧ isLive (unitAt base 5) = true ∧
      (unitAt base 6).address = some 0x16 ∧ (unitAt base 6).state = .redirected ∧ (unitAt base 6).successor = some 5 ∧
      (TargetSpec.cond (.qualityBelow 9) = .cond (.qualityBelow 9) ∧
        ∀ e : Entry, (∀ v, e.quality = some v → v < 9) ↔ ∀ v, e.quality = some v → v < 9) ∧
      ∀ i, (unitAt base i).address ≠ some 0x77 := by
  refine ⟨tableOk_base, rfl, rfl, rfl, rfl, rfl, ⟨rfl, fun _ => Iff.rfl⟩, fun i => ?_⟩
  simp only [unitAt, base, table, entryAt]
  split_ifs <;> simp [liveUnit, emptyEntry]

theorem test_expand : expandTarget table (.unit 0x16) = some [5] ∧ expandTarget table .all = some [5, 9] ∧
    expandTarget table (.cond (.qualityBelow 9)) = some [] ∧ expandTarget table (.cond (.qualityBelow 10)) = some [5, 9] ∧
    expandTarget table (.cond .phaseUnknown) = some [9] := by decide

/-- A free identifier, and a record in each state. -/
theorem witness_CancelActsByRecordState :
    let s := fun st => put { tariff with state := st } base
    (∀ r ∈ base.records, r.id ≠ 7) ∧ base.queueOk ∧ (s .ready).queueOk ∧ (s .active).queueOk ∧ (s (.closing .expiry)).queueOk ∧
      (s (.done .complete)).queueOk ∧ (s .ready).uli.responses.length < 4 ∧
      { tariff with state := .ready } ∈ (s .ready).records ∧ { tariff with state := .active } ∈ (s .active).records ∧
      { tariff with state := .done .complete } ∈ (s (.done .complete)).records ∧ tariff.id = 7 :=
  ⟨by decide, queueOk_base, queueOk_put _ _ (by decide), queueOk_put _ _ (by decide), queueOk_put _ _ (by decide),
    queueOk_put _ _ (by decide), by decide, .head _, .head _, .head _, rfl⟩

theorem witness_AdjustSetsPriorityAndEnable :
    (∀ r ∈ base.records, r.id ≠ 7) ∧ base.queueOk ∧ (put tariff base).queueOk ∧ (put tariff base).uli.responses.length < 4 ∧
      tariff ∈ (put tariff base).records ∧ tariff.id = 7 ∧ isDone tariff = false ∧
      isDone { tariff with state := .done .complete } = true :=
  ⟨by decide, queueOk_base, queueOk_put _ _ (by decide), by decide, .head _, rfl, rfl, rfl⟩

/-- A class and a start position at their limits, a class of 33 targets, a release of a record that is DONE and of one that is not. -/
theorem witness_CollectReportsAndReleases :
    let d := { tariff with state := .done .complete, targets := [] }
    (∀ r ∈ base.records, r.id ≠ 7) ∧ base.queueOk ∧ (put d base).queueOk ∧ (put d base).uli.responses.length < 4 ∧
      d ∈ (put d base).records ∧ d.id = 7 ∧ 4 < (5 : Byte).toNat ∧ (4 : Byte).toNat ≤ 4 ∧ 1023 < (1024 : BitVec 16).toNat ∧
      (1023 : BitVec 16).toNat ≤ 1023 ∧ (1 : Byte).getLsbD 0 = true ∧ isDone d = true ∧ isDone tariff = false ∧
      tariff.targets.length ≤ 1024 ∧ tariff.roundsSent ≤ 4 ∧ tariff.collided ≤ 65535 ∧
      32 < (((List.range 33).map fun u =>
        ({ unit := u, outcome := .unconfirmed, attempts := 0, notBefore := none, inFlight := false } : Target)).filter
          fun g => classOf g.outcome == .unconfirmed && decide ((0 : BitVec 16).toNat ≤ g.unit)).length :=
  ⟨by decide, queueOk_base, queueOk_put _ _ (by decide), by decide, .head _, rfl, by decide, by decide, by decide, by decide,
    by decide, rfl, rfl, by decide, by decide, by decide, by decide⟩

theorem witness_RestartEmptiesQueueAlone : flying.lanesOk ∧ flying.uli.responses.length < 4 ∧ flying.records ≠ [] :=
  ⟨lanesOk_flying, by decide, by decide⟩

/-- The report of a unicast that unit 5 did not answer, between two others. -/
def silenceReport : EndReport :=
  { serial := 0, work := .unicast 5, lane := some .A, units := [5], answered := [], notAnswered := some 5, collided := 1
    endTime := 71680, cause := none, abortedWhole := false }

theorem witness_EndReportSettlesTargets :
    let s := { flying with endReports := [{ silenceReport with serial := 3 }, silenceReport, { silenceReport with serial := 4 }] }
    flying.endReports.length ≤ 0 ∧ s.queueOk ∧
      s.endReports = [{ silenceReport with serial := 3 }] ++ silenceReport :: [{ silenceReport with serial := 4 }] ∧
      (∃ r ∈ s.records, r.serial = silenceReport.serial ∧ r.flights = 1 ∧ r.state = .active ∧
        ∃ g ∈ r.targets, silenceReport.notAnswered = some g.unit ∧ g.outcome = .pending ∧ g.attempts + 1 ≠ r.budget) :=
  ⟨by decide, queueOk_flying, rfl, _, .head _, rfl, rfl, rfl, _, .head _, rfl, rfl, by decide⟩

def waitingTarget (passed : Bool) : Target :=
  { unit := 5, outcome := .pending, attempts := 1, notBefore := some { time := 500, passed }, inFlight := false }

/-- At the not-before time exactly, one tick before it, in a DONE record, and for an identifier that no record carries. -/
theorem witness_BackoffTimePasses :
    let r := { tariff with targets := [waitingTarget false] }
    let s := { put r base with now := 500 }
    s.queueOk ∧ s.lanesOk ∧ r ∈ s.records ∧ isDone r = false ∧
      (∃ g ∈ r.targets, g.unit = 5 ∧ g.outcome = .pending ∧
        ∃ nb, g.notBefore = some nb ∧ nb.passed = false ∧ nb.time ≤ s.now) ∧
      ¬(∃ nb, (waitingTarget false).notBefore = some nb ∧ nb.passed = false ∧ nb.time ≤ 499) ∧
      isDone { r with state := .done .cancelled } = true ∧ (put { r with state := .done .cancelled } base).queueOk ∧
      ∀ q ∈ s.records, q.id ≠ 8 := by
  refine ⟨queueOk_put base { tariff with targets := [waitingTarget false] } (by decide), lanesOk_base, .head _, rfl,
    ⟨_, .head _, rfl, rfl, _, rfl, rfl, by decide⟩, ?_, rfl,
    queueOk_put base { tariff with targets := [waitingTarget false], state := .done .cancelled } (by decide), by decide⟩
  rintro ⟨nb, h, -, h'⟩
  cases h
  exact absurd h' (by decide)

/-! ### Unit table -/

theorem writeAddressFree_base : writeAddressFree base writeFields := by
  refine .inr fun i _ => ?_
  simp only [unitAt, base, table, entryAt]
  split_ifs <;> simp [liveUnit, emptyEntry, writeFields]

theorem writeFieldsGood_writeFields : writeFieldsGood writeFields := by
  simp [writeFieldsGood, writesLive, writeFields]

theorem writeRouteGood_base : writeRouteGood base writeFields := by
  intro _ _
  refine ⟨by decide, fun r hr => ?_⟩
  simp only [writeFields, List.mem_singleton] at hr
  subst hr
  decide

theorem writeChainsGood_base : writeChainsGood base writeFields := by
  intro i h
  by_cases h6 : i = 6
  · subst h6; decide
  · exfalso
    have e : putEntry base.units writeFields.index.toNat (entryWritten (unitAt base writeFields.index.toNat) writeFields) =
        table ++ [(12, entryWritten emptyEntry writeFields)] := by decide
    rw [e] at h
    simp only [table, List.cons_append, List.nil_append, entryAt] at h
    split_ifs at h <;> simp_all [liveUnit, emptyEntry, entryWritten, writeFields]

theorem not_entryUsed_base (i : Nat) : ¬entryUsed base i := by
  rintro (⟨r, hr, -⟩ | h | ⟨ph, x, h, -⟩)
  · exact absurd hr (by simp [base, State.reset, stateAfterReset])
  · exact absurd h (by simp [base, State.reset, stateAfterReset])
  · cases ph <;> cases h

theorem witness_UnitWriteStoresEntry : base.tableOk ∧ base.uli.responses.length < 4 ∧ writeFieldsGood writeFields ∧
    writeAddressFree base writeFields ∧ writeRouteGood base writeFields ∧ writeChainsGood base writeFields ∧
    writeKeeps base writeFields :=
  ⟨tableOk_base, by decide, writeFieldsGood_writeFields, writeAddressFree_base, writeRouteGood_base, writeChainsGood_base,
    fun h => absurd h (not_entryUsed_base _)⟩

/-- Index 1024; an address that unit 5 holds; a relay on another phase; a chain onto an EMPTY entry; an entry in flight
emptied. -/
theorem witness_UnitWriteRefusedByFirstFailingCheck :
    let taken := { writeFields with address := 0x11 }
    let route := { writeFields with phase := 1 }
    let chain := { writeFields with state := 3, successor := 13 }
    let moved := { writeFields with index := 9, state := 0 }
    let s := { base with inFlight := [9] }
    base.tableOk ∧ base.uli.responses.length < 4 ∧ ¬writeFieldsGood { writeFields with index := 1024 } ∧
      (writeFieldsGood taken ∧ taken.state ≠ 0 ∧ 5 ≠ taken.index.toNat ∧ (unitAt base 5).address = some taken.address) ∧
      (writeFieldsGood route ∧ writeAddressFree base route ∧ ¬writeRouteGood base route) ∧
      (writeFieldsGood chain ∧ writeAddressFree base chain ∧ writeRouteGood base chain ∧ ¬writeChainsGood base chain) ∧
      s.tableOk ∧ s.uli.responses.length < 4 ∧ writeFieldsGood moved ∧ writeAddressFree s moved ∧ writeRouteGood s moved ∧
      writeChainsGood s moved ∧ ¬writeKeeps s moved := by
  refine ⟨tableOk_base, by decide, by simp [writeFieldsGood],
    ⟨by simp [writeFieldsGood, writesLive, writeFields], by decide, by decide, rfl⟩,
    ⟨by simp [writeFieldsGood, writesLive, writeFields], writeAddressFree_base, fun h => ?_⟩,
    ⟨by simp [writeFieldsGood, writesLive, writeFields], .inr fun i h => ?_, fun h => ?_, fun h => ?_⟩, tableOk_base,
    by decide, by simp [writeFieldsGood, writesLive, writeFields], .inl rfl, fun h => ?_, fun i h => ?_, fun h => ?_⟩
  · exact absurd ((h (.inl rfl) (by decide)).2 5 (by decide)).2 (by decide)
  · rcases writeAddressFree_base with h0 | hall
    · exact absurd h0 (by decide)
    · exact hall i h
  · exact absurd h (by simp [writesLive])
  · exact absurd (h 12 (by decide)) (by decide)
  · exact absurd h (by simp [writesLive])
  · by_cases h6 : i = 6
    · subst h6; decide
    · exfalso
      have e : putEntry base.units 9 emptyEntry = table.take 2 := by decide
      have h' : (entryAt (putEntry base.units 9 emptyEntry) i).state = .redirected := h
      rw [e] at h'
      simp only [table, List.take_succ_cons, List.take_zero, entryAt] at h'
      split_ifs at h' <;> simp_all [liveUnit, emptyEntry]
  · exact absurd (h (.inr (.inl (by decide)))).1 (by simp [writesLive])

theorem witness_ReadRequestsAnswerFromState :
    1023 ≤ 1023 ∧ entryFits (unitAt base 5) ∧ base.tableOk ∧ base.uli.responses.length < 4 ∧ 1023 < (1024 : BitVec 16).toNat ∧ (1023 : BitVec 16).toNat ≤ 1023 ∧
      (unitAt base 6).address = some 0x16 ∧ (∀ i, (unitAt base i).address ≠ some 0x77) ∧ 1 < (2 : Byte).toNat ∧
      (1 : Byte).toNat ≤ 1 := by
  refine ⟨by decide, by simp [entryFits, unitAt, base, table, entryAt, liveUnit, emptyEntry], tableOk_base, by decide,
    by decide, by decide, rfl, fun i => ?_, by decide, by decide⟩
  simp only [unitAt, base, table, entryAt]
  split_ifs <;> simp [liveUnit, emptyEntry]

/-- A read of the last entry alone: one entry, EMPTY, with R172's absent values. -/
theorem test_unit_read_last : serveUnitRead 0 1023 8 0 base = (base, 0x00 :: 1 ::
    ([0x03, 0xFF, 0, 0, 0, 0, 0, 3, 0xFF, 0xFF, 0, 0xFF, 0xFF, 0xFF, 0xFF, 0xFF, 0xFF, 0, 0, 0, 0, 0, 0xFF, 0, 0, 0] : List Byte)) := by
  decide

def answerFrom (address : Address) (lane : Phase) (hops : Nat) : KeptAnswer := { address, lane, hops, quality := 12 }

def learning (ans : KeptAnswer) (s : State) : State := { s with learningReports := [{ answers := [ans], silence := none }] }

/-- Nothing in transit; an answer of a live unit (relayed, on its phase, on another, of unknown phase), of a redirected
address, and of an address that no entry holds. -/
theorem witness_AnswerTeachesTable :
    let one := fun address => (learning (answerFrom address .A 0) base).learningReports =
      [] ++ { answers := [answerFrom address .A 0], silence := none } :: []
    base.learningReports.length ≤ 0 ∧ base.tableOk ∧ one 0x11 ∧ one 0x19 ∧ one 0x16 ∧ one 0x77 ∧
      (unitAt base 5).address = some 0x11 ∧ isLive (unitAt base 5) = true ∧ (unitAt base 5).phase = some .A ∧ Phase.A ≠ .B ∧
      (answerFrom 0x11 .B 2).hops ≠ 0 ∧ (unitAt base 9).address = some 0x19 ∧ (unitAt base 9).phase = none ∧
      (unitAt base 6).address = some 0x16 ∧ isLive (unitAt base 6) = false ∧
      (∀ i, (unitAt base i).address ≠ some 0x77) ∧ (0x77 : Address) ∉ base.discovery ∧ base.discovery.length < 32 := by
  refine ⟨by decide, tableOk_base, rfl, rfl, rfl, rfl, rfl, rfl, rfl, by decide, by decide, rfl, rfl, rfl, rfl, fun i => ?_,
    by decide, by decide⟩
  simp only [unitAt, base, table, entryAt]
  split_ifs <;> simp [liveUnit, emptyEntry]

theorem test_third_conflict_moves : (learnedEntry (answerFrom 0x11 .B 0) { liveUnit 0x11 (some .A) with conflict := 2 }) =
    ({ liveUnit 0x11 (some .B) with quality := some 12 }, true) := by decide

theorem witness_SilenceItemCountsTowardSilent :
    let s := fun a => { base with learningReports := [{ answers := [], silence := some (5, a) }] }
    base.tableOk ∧ (s 0x11).learningReports = [] ++ { answers := [], silence := some (5, 0x11) } :: [] ∧
      isLive (unitAt base 5) = true ∧ (unitAt base 5).address = some 0x11 ∧
      (s 0x12).learningReports = [] ++ { answers := [], silence := some (5, 0x12) } :: [] ∧
      (unitAt base 5).address ≠ some 0x12 :=
  ⟨tableOk_base, rfl, rfl, rfl, rfl, by decide⟩

/-! ### Profile store, snapshot, mask, unknown kind -/

/-- The mask 512; W changed while lane A is occupied; and three settings written with every lane free. -/
theorem witness_ProfileWriteStoresClampedSettings :
    base.queueOk ∧ base.uli.responses.length < 4 ∧ ([] : List Byte).length = namedSettings 512 ∧
      511 < (512 : BitVec 16).toNat ∧ ([24] : List Byte).length = namedSettings 1 ∧ (1 : BitVec 16).toNat ≤ 511 ∧
      settingWritten flying.profile 1 [24] 0 ≠ flying.profile.w ∧ (laneOf flying .A).state = .sending ∧ flying.queueOk ∧
      flying.uli.responses.length < 4 ∧
      ([0, 40, 50] : List Byte).length = namedSettings 0xC1 ∧ (0xC1 : BitVec 16).toNat ≤ 511 ∧
      (∀ ph, (laneOf base ph).state = .idle) :=
  ⟨queueOk_base, by decide, by decide, by decide, by decide, by decide, by decide, rfl, queueOk_flying, by decide,
    by decide, by decide, fun ph => by cases ph <;> rfl⟩

/-- W of 0 clamped to 24; robust enter 40 under a robust leave of 50 leaves 39 (R155). -/
theorem test_profile_write : (writtenProfile defaultProfile 0xC1 [0, 40, 50]) =
    { defaultProfile with w := 24, robustEnter := 40, robustLeave := 39 } := by decide

/-- Options 1 and 2; masks 4095 and 4096; a mask under which a set flag has its position set, and one that leaves none. -/
theorem witness_StatusAndMaskSettleNotices :
    snapshotFits base ∧ base.uli.responses.length < 4 ∧ 1 < (2 : Byte).toNat ∧ (1 : Byte).toNat ≤ 1 ∧
      4095 < (4096 : BitVec 16).toNat ∧ (4095 : BitVec 16).toNat ≤ 4095 ∧ base.uli.tx ≠ .free ∧
      (∃ f, flagSet base f = true ∧ unmasked base f = true) ∧ reportable (replaceMask 0 base) = 0 :=
  ⟨⟨by decide, by decide, by decide, fun ph => by cases ph <;> exact ⟨by decide, by decide, by decide, by decide, nofun, nofun⟩⟩,
    by decide, by decide, by decide, by decide, by decide, by decide, ⟨.started, by decide, by decide⟩, by decide⟩

/-- The mask written again over a flag that a NOTICE has carried makes a NOTICE due (R162). -/
theorem test_mask_write_again : (replaceMask 1 base).uli.noticeDue = true ∧ base.uli.noticeDue = false := by decide

/-- The snapshot after a device reset: A, B and C IDLE and LOCKING at 20,480, nothing counted, STARTED alone (R174). -/
theorem test_status_after_reset : statusBytes State.reset =
    let lane : List Byte := [0, 0, 0x50, 0, 0, 0, 0, 0, 0, 0, 0]
    lane ++ lane ++ lane ++ [0, 0, 0, 0, 0, 0, 0, 0, 0, 0, 0, 1, 0, 1] := by decide

/-- The kind 6; and a PROFILE READ with a content byte, a SUBMIT of 23 bytes and one whose payload length says 1 more than
there is. -/
theorem witness_UnknownKindAnsweredBadKind : base.uli.responses.length < 4 ∧ (0x06 : Byte) ∉ requestKinds ∧
    (0x21 : Byte) ∈ requestKinds ∧ ¬lengthFits 0x21 [0] ∧ ¬lengthFits 0x01 (List.replicate 23 0) ∧
    ¬lengthFits 0x01 (List.replicate 23 0 ++ [1]) ∧ [(0 : Byte)].length ≤ 238 ∧ base.uli.rx = .hunting ∧
    base.uli.partialFrame = none := by
  refine ⟨by decide, by decide, by decide, by unfold lengthFits; decide, by unfold lengthFits; decide,
    by unfold lengthFits; decide, by decide, rfl, rfl⟩

/-- A PROFILE READ with a content byte is answered BAD_LENGTH with kind 0xA1 and its tag. -/
theorem test_bad_length : (takeFrame { kind := 0x21, tag := 9, content := [0] } base).uli.responses =
    [{ kind := 0xA1, tag := 9, content := [0x02] }] := by decide

/-! ### Uplink -/

def receivingAt (now : Nat) (rx : RxState) (p : PartialFrame) : State :=
  { base with now, uli := { busyUli with rx, partialFrame := some p } }

def justBegun : PartialFrame := { length := none, body := [], crc := [], lastAt := 100 }

/-- The start byte and another; the lengths 2 and 240; a body byte that completes the body and one that does not; the
first CRC byte. -/
theorem witness_ReceiverCountsBytes :
    base.uli.rx = .hunting ∧ (0x13 : Byte) ≠ 0x5A ∧
      (receivingAt 100 .length justBegun).uli.partialFrame = some justBegun ∧
      (receivingAt 100 .length justBegun).uli.rx = .length ∧ 2 ≤ (2 : Byte).toNat ∧ (240 : Byte).toNat ≤ 240 ∧
    (let p := { justBegun with length := some 4, body := [0x32, 9, 0] }
     (receivingAt 100 .body p).uli.partialFrame = some p ∧ (receivingAt 100 .body p).uli.rx = .body ∧
       p.length = some 4 ∧ p.body.length + 1 = (4 : Byte).toNat) ∧
    (let p := { justBegun with length := some 4, body := [0x32, 9, 0, 1] }
     (receivingAt 100 .crc p).uli.partialFrame = some p ∧ (receivingAt 100 .crc p).uli.rx = .crc ∧ p.crc = []) := by
  decide

/-- A framing fault; the lengths 1 and 241; a wrong CRC; the inter-byte timer one tick late and just in time. -/
theorem witness_DamagedFrameIsDiscarded :
    let s := receivingAt 2149 .length justBegun
    let p := { justBegun with length := some 2, body := [0x21, 9], crc := [0] }
    s.uli.partialFrame = some justBegun ∧ s.uli.rx ≠ .hunting ∧ s.uli.rx = .length ∧ (1 : Byte).toNat < 2 ∧
      240 < (241 : Byte).toNat ∧ justBegun.lastAt + 2048 < s.now ∧ (receivingAt 2148 .length justBegun).now ≤ justBegun.lastAt + 2048 ∧
      (receivingAt 100 .crc p).uli.rx = .crc ∧ p.crc = [0] ∧ p.length = some 2 ∧ word2 0 0 ≠ crcOfBytes (2 :: p.body) := by
  decide +kernel

/-- A NOTICE of 8 bytes at 19,200 baud: one tick before its last stop bit is sent, and at it. -/
theorem witness_TransmitterFreeStartsNext :
    let f : Frame := { kind := 0xC0, tag := 0, content := [0, 1] }
    base.uli.tx = .notice f 0 ∧ (4266 - 0) * lineRate 0 < (f.content.length + 6) * 10 * 1024000 ∧
      (f.content.length + 6) * 10 * 1024000 ≤ (4267 - 0) * lineRate 0 ∧
      (∃ g, fullUli.tx = .response g 0 ∧ (g.content.length + 6) * 10 * 1024000 ≤ 5000 * lineRate fullUli.baud) ∧
      (∃ g, fullUli.slot = some g ∧ frameRuns g (.restart 2)) ∧ fullUli.responses.tail.length < 4 :=
  ⟨rfl, by decide, by decide, ⟨_, rfl, by decide⟩, ⟨_, rfl, .inl ⟨rfl, _, _, rfl, rfl⟩⟩, by decide⟩

theorem witness_FullQueueHoldsOneFrame :
    let s := { base with uli := fullUli }
    let empty := { base with uli := { fullUli with slot := none } }
    let room := { base with uli := { fullUli with responses := fullUli.responses.tail } }
    requestOf (.restart 3) = some (3, .restart) ∧ 4 ≤ s.uli.responses.length ∧ (∃ g, s.uli.slot = some g) ∧
      4 ≤ empty.uli.responses.length ∧ empty.uli.slot = none ∧ (∃ g, room.uli.slot = some g ∧ frameRuns g (.restart 2)) ∧
      room.uli.responses.length < 4 ∧ frameRuns { kind := 0x06, tag := 2, content := [] } (.badKind 0x06 2 []) :=
  ⟨rfl, by decide, ⟨_, rfl⟩, by decide, rfl, ⟨_, rfl, .inl ⟨rfl, _, _, rfl, rfl⟩⟩, by decide, .inr ⟨rfl, by decide⟩⟩

/-! ### Broadcast rounds -/

/-- A TARIFF to group 7 in round 1 of 2, with its part on lane A in a standing. -/
def groupCall (standing : Standing) : Record :=
  { tariff with
    target := .group 7, rounds := some 2, windows := 3, stage := .broadcast 1, parts := [{ lane := some .A, standing }] }

/-- The same as one joined part. -/
def joinedCall7 : Record := { groupCall .offered with parts := [{ lane := none, standing := .offered }] }

theorem lonePart_offered (r : Record) (joined : Bool) (h0 : r.serial = 0 ∧ r.tag = 1 ∧ r.deadline = 0 ∧ r.windows = 3)
    (hl : r.payload = [1, 2]) (he : evaluationEnds (atBoundary 0 (put r base)) r = false)
    (hc : candidates (atBoundary 0 (put r base)) .A = [{ serial := r.serial, work := .part 1, joined, priority := r.priority }]) :
    lonePart (atBoundary 0 (put r base)) .A (overHalf true 0 0) cycleAt0 r 1 joined :=
  ⟨boundaryReady_at true 0 rfl (by decide) (by simp [atBoundary]), rfl, rfl, rfl,
    lanesOk_of laneOk_reset laneOk_reset laneOk_reset (fun ph x h => by cases ph <;> cases h),
    by simp [atBoundary, put, State.queueOk, h0],
    by unfold profileOk; simp [atBoundary, put, base, State.reset, stateAfterReset, defaultProfile],
    .head _, h0.2.2.1, by simp [hl], by simp [h0], hc, fun q hq => by
      simp only [atBoundary, put, List.mem_singleton] at hq
      subst hq
      exact he, fun _ q h => by cases q <;> first | exact absurd rfl h | rfl⟩

/-- The end of lane A's part without an answer. -/
def partReport : EndReport :=
  { serial := 0, work := .part 1, lane := some .A, units := [5], answered := [], notAnswered := none, collided := 0
    endTime := 10240, cause := none, abortedWhole := false }

/-- A SUBMIT to ALL with every lane in reach and with none; a part offered on lane A and a joined one; the end of the
round's one part, ordinary and preempted; and a STOP of lane A, with another part left and with none. -/
theorem witness_BroadcastRoundsRun :
    let f := { submitFields with targetType := 2 }
    let stopped := { base with lanes := perPhase fun _ => { resetLane with state := .stopped } }
    let ended := { put { groupCall .inFlight with state := .active, flights := 1 } base with endReports := [partReport] }
    let two := { groupCall .offered with parts := [{ lane := some .A, standing := .offered }, { lane := some .B, standing := .offered }] }
    (base.queueOk ∧ base.lanesOk ∧ base.uli.responses.length < 4 ∧ submitPasses base f [5, 9] ∧
      f.release.toNat ≤ base.clock.seconds ∧ roundsFirst (submitTarget f) ∧
      laidOut base false [5, 9] = [{ lane := none, standing := .offered }] ∧
      laidOut base false [5] = [{ lane := some .A, standing := .offered }] ∧
      stopped.lanesOk ∧ submitPasses stopped f [5, 9] ∧ laidOut stopped false [5, 9] = [{ lane := none, standing := .ended }]) ∧
    (lonePart (atBoundary 0 (put (groupCall .offered) base)) .A (overHalf true 0 0) cycleAt0 (groupCall .offered) 1 false ∧
      lonePart (atBoundary 0 (put joinedCall7 base)) .A (overHalf true 0 0) cycleAt0 joinedCall7 1 true ∧
      busy (overHalf true 0 0) ≤ (48 - 2) / 8) ∧
    (ended.queueOk ∧ ended.lanesOk ∧ ended.endReports = [] ++ partReport :: [] ∧
      (∃ r ∈ ended.records, r.serial = partReport.serial ∧ r.state = .active ∧ r.rounds = some 2 ∧ r.roundsSent + 1 < 2) ∧
      (∀ ph, inReach ended ph = true) ∧
      (∀ p ∈ partsMoved (groupCall .inFlight).parts (some .A) .inFlight .ended, p.standing = .ended) ∧
      (∃ p ∈ partsMoved (groupCall .inFlight).parts (some .A) .inFlight .offered, p.standing ≠ .ended)) ∧
    ((put (groupCall .offered) base).queueOk ∧ (put (groupCall .offered) base).lanesOk ∧ maskLanes 1 = [.A] ∧
      (1 : Byte).toNat ≤ 7 ∧ isOccupied (laneOf (put (groupCall .offered) base) .A).state = false ∧
      (∀ q, inReach (put (groupCall .offered) base) q = true) ∧ (groupCall .offered).state = .ready ∧
      (∀ p ∈ partsMoved (groupCall .offered).parts (some .A) .offered .ended, p.standing = .ended) ∧
      ∃ p ∈ partsMoved two.parts (some .A) .offered .ended, p.standing ≠ .ended) :=
  ⟨⟨queueOk_base, lanesOk_base, by decide,
      ⟨by unfold submitBad; decide, by decide, by decide, by decide, by decide, by decide, by decide, .inl (by decide)⟩,
      by decide, .inl (by decide), by decide, by decide,
      lanesOk_of (by simp [laneOk, isOccupied, resetLane, perPhase]) (by simp [laneOk, isOccupied, resetLane, perPhase])
        (by simp [laneOk, isOccupied, resetLane, perPhase]) (fun ph x h => by cases ph <;> cases h),
      ⟨by unfold submitBad; decide, by decide, by decide, by decide, by decide, by decide, by decide, .inl (by decide)⟩,
      by decide⟩,
    ⟨lonePart_offered _ _ (by decide) rfl (by decide) (by decide +kernel),
      lonePart_offered _ _ (by decide) rfl (by decide) (by decide +kernel), by decide⟩,
    ⟨by simp [put, State.queueOk, groupCall, tariff], lanesOk_base, rfl, ⟨_, .head _, rfl, rfl, rfl, by decide⟩,
      fun ph => by cases ph <;> rfl, by decide, by decide⟩,
    ⟨queueOk_put _ _ (by decide), lanesOk_base, by decide, by decide, rfl, fun q => by cases q <;> rfl, rfl, by decide,
      by decide⟩⟩

/-! ### Encodings -/

theorem witness_RequestFramesReadBack :
    (Instr.submit 9 submitFields).wellFormed = true ∧
      requestOf (.submit 9 submitFields) = some (9, .submit submitFields) := ⟨by decide, rfl⟩

theorem witness_ReceivedFrameBytesRunTheRequest :
    (Instr.status 9 1).wellFormed = true ∧ requestOf (.status 9 1) = some (9, .status 1) ∧ base.uli.rx = .hunting ∧
      base.uli.partialFrame = none := ⟨rfl, rfl, rfl, rfl⟩

theorem witness_PlacedAnswerReadsBack : 24 ≤ 24 ∧ 24 ≤ 96 ∧ 65535 < 65536 := by decide

/-- The frame of 11.6: tag 42, GROUP(5), 6 payload bytes, R = 8, NORMAL: control 0x0850, 128 bits. -/
theorem test_group_frame :
    let r := { tariff with tag := 42, target := .group 5, windows := 8, payload := [1, 2, 3, 4, 5, 6] }
    controlField r (.part 1) 0 .normal = 0x0850 ∧ (lineFrame r (.part 1) 0 [] .normal).length = 128 ∧
      frameLength r (.part 1) 0 = 128 ∧ halfCyclesFor 128 46 = 3 := by decide +kernel

/-! ### Single commands -/

/-- The fields of a command's next state that a test looks at. -/
def nextOf {α : Type} (f : State → α) : Host.Outcome State Fault Refusal → Option α
  | .next t => some (f t)
  | .fault _ => none
  | .refused _ => none

theorem test_reset_clears : nextOf (fun t => (t.records, t.units, t.events.flags)) (exec (.deviceReset true 2) flying) =
    some ([], [], 1) := by decide

/-- A length byte of 247 is discarded with UPLINK_ERROR (8.2). -/
theorem test_length_out_of_range :
    nextOf (fun t => (t.uli.rx, t.events.flags)) (exec (.receivedByte 0xF7 false) (receivingAt 100 .length justBegun)) =
      some (.hunting, 0x801) := by decide

theorem test_clock_set : nextOf (fun t => (t.clock, t.uli.responses)) (exec (.clockSet 4 1000) base) =
    some ({ isSet := true, seconds := 1000, sub := 0 }, [{ kind := 0xB0, tag := 4, content := [0] }]) := by decide

/-- A SUBMIT that no check refuses is answered with line tag 1 and one target. -/
theorem test_submit : nextOf (fun t => (t.uli.responses, t.tagCounter)) (exec (.submit 2 submitFields) base) =
    some ([{ kind := 0x81, tag := 2, content := [0x00, 0x00, 0x01, 0x00, 0x01] }], 2) := by decide

theorem test_restart : nextOf (fun t => (t.records, t.inFlight, t.abortRequests)) (exec (.restart 2) flying) =
    some ([], [5], [{ lane := .A, serial := 0, cause := .restart }]) := by decide +kernel

/-- The fourth quiet boundary of a SETTLING lane brings it to IDLE (R85). -/
theorem test_settling : nextOf (fun t => (laneOf t .A).state)
    (exec (.halfCycleBoundary .A true .neither) (setLane (atBoundary 0 base) .A { resetLane with state := .settling, settling := 3 })) =
      some .idle := by decide +kernel

/-- The end of the plan of a unicast that unit 5 did not answer. -/
theorem test_exchange_ends : nextOf (fun t => t.endReports) (exec (.halfCycleBoundary .A true .neither) rich) =
    some [{ serial := 0, work := .unicast 5, lane := some .A, units := [5], answered := [], notAnswered := some 5, collided := 0
            endTime := 10240, cause := none, abortedWhole := false }] := by decide +kernel

/-- Its report consumes an attempt and sets the backoff of 2 x 1 x 10,240 ticks (R59). -/
theorem test_no_answer : nextOf (fun t => t.records.flatMap Record.targets)
    (exec (.endReport 0) { flying with endReports := [silenceReport] }) =
    some [{ unit := 5, outcome := .pending, attempts := 1, notBefore := some { time := 92160, passed := false }
            inFlight := false }] := by decide +kernel

theorem test_grant_on_clear_line : nextOf (fun t => ((laneOf t .A).state, t.inFlight))
    (exec (.halfCycleBoundary .A true .neither) (offered 5)) = some (.sending, [5]) := by decide +kernel

end Sys2Proof.Tests
end

/-! ## Facts about the shared operations

What the transmitter's choice, a response, a raised flag and a changed timing unit leave of the state: said once here,
and cited by the proofs below. -/

namespace Sys2Proof.Machine

open Sys2Proof.Claims

/-! ### The transmitter's choice (R151), field by field -/

@[simp] theorem transmit_now (s : State) : (transmit s).now = s.now := by rw [transmit_frame]
@[simp] theorem transmit_ptu (s : State) : (transmit s).ptu = s.ptu := by rw [transmit_frame]
@[simp] theorem transmit_clock (s : State) : (transmit s).clock = s.clock := by rw [transmit_frame]
@[simp] theorem transmit_profile (s : State) : (transmit s).profile = s.profile := by rw [transmit_frame]
@[simp] theorem transmit_units (s : State) : (transmit s).units = s.units := by rw [transmit_frame]
@[simp] theorem transmit_discovery (s : State) : (transmit s).discovery = s.discovery := by rw [transmit_frame]
@[simp] theorem transmit_records (s : State) : (transmit s).records = s.records := by rw [transmit_frame]
@[simp] theorem transmit_tagCounter (s : State) : (transmit s).tagCounter = s.tagCounter := by rw [transmit_frame]
@[simp] theorem transmit_inFlight (s : State) : (transmit s).inFlight = s.inFlight := by rw [transmit_frame]
@[simp] theorem transmit_nextExchange (s : State) : (transmit s).nextExchange = s.nextExchange := by rw [transmit_frame]
@[simp] theorem transmit_lanes (s : State) : (transmit s).lanes = s.lanes := by rw [transmit_frame]
@[simp] theorem transmit_endReports (s : State) : (transmit s).endReports = s.endReports := by rw [transmit_frame]
@[simp] theorem transmit_learningReports (s : State) : (transmit s).learningReports = s.learningReports := by
  rw [transmit_frame]
@[simp] theorem transmit_abortRequests (s : State) : (transmit s).abortRequests = s.abortRequests := by
  rw [transmit_frame]
@[simp] theorem transmit_lcm (s : State) : (transmit s).lcm = s.lcm := by rw [transmit_frame]
@[simp] theorem transmit_events (s : State) : (transmit s).events = s.events := by rw [transmit_frame]
@[simp] theorem transmit_pending (s : State) : (transmit s).pending = s.pending := by rw [transmit_frame]
@[simp] theorem transmit_laneOf (s : State) (ph : Phase) : laneOf (transmit s) ph = laneOf s ph := by
  unfold laneOf
  rw [transmit_lanes]
@[simp] theorem transmit_ptuOf (s : State) (ph : Phase) : ptuOf (transmit s) ph = ptuOf s ph := by
  unfold ptuOf
  rw [transmit_ptu]
@[simp] theorem transmit_lcmOf (s : State) (ph : Phase) : lcmOf (transmit s) ph = lcmOf s ph := by
  unfold lcmOf
  rw [transmit_lcm]
@[simp] theorem transmit_flagSet (s : State) (f : Flag) : flagSet (transmit s) f = flagSet s f := by
  unfold flagSet
  rw [transmit_events]

/-- The transmitter's choice apart, the state is as it was. -/
theorem transmit_rest (s : State) : transmit s = { s with uli := (transmit s).uli } := by
  conv_lhs => rw [transmit_frame]
  rw [transmit_frame]

/-- The transmitter's choice is all that happens to the uplink. -/
theorem transmit_uplinkKept (s : State) : uplinkKept s.uli (transmit s).uli := by
  refine ⟨?_, transmit_due, fun h => by rw [transmit_busy h]⟩
  rw [transmit_frame]

/-- A command that leaves the uplink alone but for the transmitter's choice. -/
theorem becomes_of_transmit {c : Instr} {s r : State} (h : exec c s = .next (transmit r)) (hu : r.uli = s.uli) :
    becomes c s r := by
  refine ⟨(transmit r).uli, ?_, hu ▸ transmit_uplinkKept r⟩
  rw [h]
  congr 1
  conv_lhs => rw [transmit_frame]
  rw [transmit_frame]

/-- Notice-due marked at most, and then the transmitter's choice, leave the uplink with flags raised at most. -/
theorem uplinkFlagged_transmit {u : Uli} {t : State} (h : t.uli = { u with noticeDue := t.uli.noticeDue }) :
    uplinkFlagged u (transmit t).uli := by
  refine ⟨?_, fun hb => ?_⟩
  · rw [transmit_frame, h]
  · have hb' : t.uli.tx ≠ .free := by
      rw [h]
      exact hb
    rw [transmit_busy hb', h]

/-- What the lanes' choosing again leaves alone, the transmitter's choice leaves alone too. -/
theorem LaneWork.outside {s t : State} (h : LaneWork s t) : outsideKept s (transmit t) := by
  unfold outsideKept
  simp only [transmit_now, transmit_ptu, transmit_clock, transmit_profile, transmit_units, transmit_discovery,
    transmit_tagCounter, transmit_inFlight, transmit_nextExchange, transmit_abortRequests, transmit_lcm,
    transmit_events, transmit_pending]
  exact ⟨h.now, h.ptu, h.clock, h.profile, h.units, h.discovery, h.tagCounter, h.inFlight, h.nextExchange,
    h.abortRequests, h.lcm, h.mask, h.flags, h.pending⟩

/-! ### Responses (R150) -/

theorem respond_fields (f : Frame) (s : State) :
    (respond f s).now = s.now ∧ (respond f s).clock = s.clock ∧ (respond f s).ptu = s.ptu ∧
      (respond f s).units = s.units ∧ (respond f s).profile = s.profile ∧ (respond f s).inFlight = s.inFlight ∧
      (respond f s).records = s.records ∧ (respond f s).events = s.events ∧
      (respond f s).abortRequests = s.abortRequests := by
  rw [respond_frame]
  exact ⟨rfl, rfl, rfl, rfl, rfl, rfl, rfl, rfl, rfl⟩

/-- A refused request changes nothing but the uplink and the counter of free values. -/
theorem answered_rest (f : Frame) (s : State) :
    transmit (respond f (transmit s)) =
      { s with uli := (transmit (respond f (transmit s))).uli, draws := (respond f (transmit s)).draws } := by
  generalize hu : (transmit (respond f (transmit s))).uli = u
  rw [transmit_rest (respond f (transmit s)), hu, respond_frame f (transmit s), transmit_frame s]

/-- A response queued after notice-due was marked at most, and the transmitter's choice before and after it. -/
theorem responseQueued_respond {s t : State} (f : Frame)
    (h : t.uli = { (transmit s).uli with noticeDue := t.uli.noticeDue }) :
    responseQueued s.uli (transmit (respond f t)).uli f := by
  obtain ⟨hkept, -, hbusy⟩ := transmit_uplinkKept s
  refine ⟨?_, fun hb => ?_⟩
  · rw [transmit_frame, respond_frame, h, hkept]
  · have hsame : (transmit s).uli = s.uli := hbusy hb
    have ht : t.uli.tx = s.uli.tx := by rw [h, hsame]
    have hr : (respond f t).uli.tx = t.uli.tx := by rw [respond_busy (by rw [ht]; exact hb)]
    rw [transmit_busy (by rw [hr, ht]; exact hb), hr, ht]

/-- A request that finds room is taken whole: its owner acts on the state after the transmitter's choice, and its response
enters the queue (R148 to R150). -/
theorem intakeRequest_room {tag : Byte} {rq : Request} {s : State} (h : s.uli.responses.length < 4) :
    intakeRequest tag rq s = perform tag rq s := by
  simp only [intakeRequest, hasRoom, h, decide_true, ↓reduceIte]

/-! ### Flags, one by one (R159, R160) -/

/-- The flags in the order of their bits (R159). -/
def flagOrder : List Flag :=
  [.started, .recordDone, .phaseLocked, .gridCoast, .phaseLost, .foreignCarrier, .lineBusy, .modeChange, .phaseMoved,
    .discovery, .discoveryFull, .uplinkError]

theorem flagOrder_flagBit (f : Flag) : flagOrder[flagBit f]? = some f := by cases f <;> rfl

theorem flagBit_ne {f g : Flag} (h : f ≠ g) : flagBit f ≠ flagBit g := fun hb =>
  h (Option.some.inj ((flagOrder_flagBit f).symm.trans (hb ▸ flagOrder_flagBit g)))

theorem getLsbD_flagWord_of_ne {f g : Flag} (h : f ≠ g) : (flagWord f).getLsbD (flagBit g) = false := by
  show (BitVec.twoPow 12 (flagBit f)).getLsbD (flagBit g) = false
  rw [BitVec.getLsbD_twoPow]
  simp [flagBit_ne h]

/-- STARTED alone is bit 0 of a flag word of 1. -/
theorem getLsbD_started (f : Flag) : (1 : BitVec 12).getLsbD (flagBit f) = (f == .started) := by cases f <;> decide

/-- Raising a flag changes the flags and notice-due, and nothing else of the state. -/
theorem raise_frame (f : Flag) (s : State) :
    raise f s = { s with events := (raise f s).events, uli := (raise f s).uli } := by
  unfold raise
  split <;> rfl

theorem raiseIf_frame (c : Bool) (f : Flag) (s : State) :
    raiseIf c f s = { s with events := (raiseIf c f s).events, uli := (raiseIf c f s).uli } := by
  unfold raiseIf
  split
  · exact raise_frame f s
  · rfl

/-- Records put back change the records, the flags and notice-due, and nothing else. -/
theorem commitRecords_frame (rs : List Record) (s : State) :
    commitRecords rs s =
      { s with records := rs, events := (commitRecords rs s).events, uli := (commitRecords rs s).uli } :=
  raiseIf_frame _ _ _

@[simp] theorem flagSet_raise_self (f : Flag) (s : State) : flagSet (raise f s) f = true := by
  unfold raise
  split
  · assumption
  · show (s.events.flags ||| flagWord f).getLsbD (flagBit f) = true
    rw [BitVec.getLsbD_or, getLsbD_flagWord_self, Bool.or_true]

theorem flagSet_raise_of_ne {f g : Flag} (s : State) (h : f ≠ g) : flagSet (raise f s) g = flagSet s g := by
  unfold raise
  split
  · rfl
  · show (s.events.flags ||| flagWord f).getLsbD (flagBit g) = _
    rw [BitVec.getLsbD_or, getLsbD_flagWord_of_ne h, Bool.or_false]
    rfl

theorem flagSet_raiseIf_of_ne {f g : Flag} (c : Bool) (s : State) (h : f ≠ g) :
    flagSet (raiseIf c f s) g = flagSet s g := by
  unfold raiseIf
  split
  · exact flagSet_raise_of_ne s h
  · rfl

/-- A flag that is set stays set where flags are kept. -/
theorem flagSet_of_kept {s t : State} {f : Flag} (h : flagsKept s.events t.events) (hs : flagSet s f = true) :
    flagSet t f = true := by
  unfold flagSet flagsKept at *
  rw [← h, BitVec.getLsbD_and, Bool.and_eq_true] at hs
  exact hs.2

/-! ### Timing units, monitors and usability -/

@[simp] theorem putPhase_putPhase {α : Type} (x : PerPhase α) (ph : Phase) (v w : α) :
    putPhase (putPhase x ph v) ph w = putPhase x ph w := by cases ph <;> rfl

theorem ptuOf_of_setPtu {s t : State} {ph : Phase} {u : Ptu} (h : t.ptu = putPhase s.ptu ph u) : ptuOf t ph = u := by
  unfold ptuOf
  rw [h, atPhase_putPhase_self]

theorem setPtu_self (s : State) (ph : Phase) : setPtu s ph (ptuOf s ph) = s := by
  unfold setPtu ptuOf
  rw [putPhase_atPhase_self]

theorem lcmOf_of_lcm {s t : State} (h : t.lcm = s.lcm) (ph : Phase) : lcmOf t ph = lcmOf s ph := by
  unfold lcmOf
  rw [h]

/-- The state that the lane reports at a half-cycle's start, and the monitor that it reports to (R130). -/
theorem reportStart_lcm (ph : Phase) (s : State) :
    ∃ gap, lcmOf (reportStart ph s) ph = { lcmOf s ph with start := some { state := (laneOf s ph).state, gap } } := by
  unfold reportStart
  exact ⟨_, lcmOf_setLcm_self ..⟩

theorem gridRuns_of_running {u : Ptu} (h : running u) : gridRuns u = true := by
  rcases h with h | h <;> simp [gridRuns, h]

/-- Lanes that are as usable after as before have nothing to choose again (R68). -/
theorem usabilityChanged_nil {s t : State} (h : ∀ ph, usable t ph = usable s ph) : usabilityChanged s t = [] := by
  unfold usabilityChanged
  simp [h]

theorem tell_nil (s : State) : tell [] s = s := rfl

end Sys2Proof.Machine

/-! ## Ranges that every step keeps (R9, R16, R134, R154)

Two relations between the state before and after an operation: `RangesKept` carries the ranges of the clock, the settings
and the noise floors over, and `GridKept` says in addition that no timing unit has changed. Every command is in the
first; every command but those of the mains and the device reset is in the second. -/

namespace Sys2Proof.Machine

open Sys2Proof.Claims

/-! ### The relations -/

/-- The ranges of the clock, the settings and the noise floors are carried from one state to another. -/
structure RangesKept (s t : State) : Prop where
  clock : clockOk s.clock → clockOk t.clock
  profile : profileOk s.profile → profileOk t.profile
  floors : s.floorsOk → t.floorsOk

/-- The same, where no timing unit has changed. -/
structure GridKept (s t : State) : Prop extends RangesKept s t where
  ptu : t.ptu = s.ptu

theorem RangesKept.trans {a b c : State} (h : RangesKept a b) (k : RangesKept b c) : RangesKept a c :=
  ⟨k.clock ∘ h.clock, k.profile ∘ h.profile, k.floors ∘ h.floors⟩

theorem GridKept.trans {a b c : State} (h : GridKept a b) (k : GridKept b c) : GridKept a c :=
  ⟨h.toRangesKept.trans k.toRangesKept, k.ptu.trans h.ptu⟩

theorem floorsOk_congr {s t : State} (h : t.lcm = s.lcm) (hs : s.floorsOk) : t.floorsOk := fun ph => by
  unfold lcmOf
  rw [h]
  exact hs ph

theorem rangesKept_of_eq {s t : State} (hc : t.clock = s.clock) (hp : t.profile = s.profile) (hl : t.lcm = s.lcm) :
    RangesKept s t := ⟨fun h => hc ▸ h, fun h => hp ▸ h, floorsOk_congr hl⟩

theorem gridKept_of_eq {s t : State} (hu : t.ptu = s.ptu) (hc : t.clock = s.clock) (hp : t.profile = s.profile)
    (hl : t.lcm = s.lcm) : GridKept s t := ⟨rangesKept_of_eq hc hp hl, hu⟩

theorem GridKept.refl (s : State) : GridKept s s := gridKept_of_eq rfl rfl rfl rfl

/-- All that the queue and the lanes do leaves the grids and the ranged values alone. -/
theorem LaneSide.grid {s t : State} (h : LaneSide s t) : GridKept s t := gridKept_of_eq h.ptu h.clock h.profile h.lcm

theorem LaneWork.grid {s t : State} (h : LaneWork s t) : GridKept s t := h.toLaneSide.grid

theorem transmit_grid (s : State) : GridKept s (transmit s) := gridKept_of_eq (by simp) (by simp) (by simp) (by simp)

theorem respond_grid (f : Frame) (s : State) : GridKept s (respond f s) := by
  rw [respond_frame]
  exact gridKept_of_eq rfl rfl rfl rfl

theorem raise_grid (f : Flag) (s : State) : GridKept s (raise f s) := (raise_work f s).grid

/-! ### The clock (R16, R17) -/

theorem commitRecords_grid (rs : List Record) (s : State) : GridKept s (commitRecords rs s) :=
  GridKept.trans (b := { s with records := rs }) (gridKept_of_eq rfl rfl rfl rfl) (raiseIf_work _ _ _).grid

/-- Abort requests put in transit behind those that are there. -/
def askAborts (qs : List AbortRequest) (s : State) : State := { s with abortRequests := s.abortRequests ++ qs }

/-- The aborts asked for a list of records add to the requests in transit alone. -/
theorem foldl_askAbort (cause : AbortCause) : ∀ (rs : List Record) (s : State),
    rs.foldl (fun st r => askAbort cause r.serial st) s =
      askAborts (rs.flatMap fun r => (lanesHolding s r.serial).map fun ph => { lane := ph, serial := r.serial, cause }) s
  | [], s => by simp [askAborts]
  | r :: rs, s => by
    have hl : ∀ n, lanesHolding (askAbort cause r.serial s) n = lanesHolding s n := fun _ => rfl
    rw [List.foldl_cons, foldl_askAbort cause rs]
    simp only [hl]
    simp only [List.flatMap_cons, askAbort, askAborts, List.append_assoc]

/-- The queue's own part of a second event (R48, R49), before the lanes are told. -/
def secondApplied (s : State) : State :=
  askAborts
    ((s.records.filter fun r => r.state == .active && deadlineReached s r).flatMap fun r =>
      (lanesHolding s r.serial).map fun ph => { lane := ph, serial := r.serial, cause := .expiry })
    (commitRecords (s.records.map (clockRecord s)) s)

theorem clockEvent_eq (s : State) :
    clockEvent s =
      if s.records.map (clockRecord s) = s.records then secondApplied s else tell allPhases (secondApplied s) := by
  have hl : ∀ n, lanesHolding (commitRecords (s.records.map (clockRecord s)) s) n = lanesHolding s n := fun n => by
    unfold lanesHolding laneOf
    rw [(commitRecords_kept _ s).2.2]
  unfold clockEvent secondApplied
  simp only [foldl_askAbort, hl]

theorem secondApplied_grid (s : State) : GridKept s (secondApplied s) :=
  (commitRecords_grid _ s).trans (gridKept_of_eq rfl rfl rfl rfl)

theorem clockEvent_grid (s : State) : GridKept s (clockEvent s) := by
  rw [clockEvent_eq]
  split
  · exact secondApplied_grid s
  · exact (secondApplied_grid s).trans (tell_work _ _).grid

theorem rolledClock_ok {c : Clock} (hr : rollsOver c = true) : clockOk (rolledClock c) := by
  simp only [rollsOver, Bool.and_eq_true] at hr
  refine ⟨?_, ?_, fun hn => ?_⟩
  · exact Nat.min_le_left ..
  · exact Nat.zero_le _
  · exact absurd (hr.1.symm.trans hn) (by decide)

/-- A clock that has not come to its rollover counts one more sub-second tick. -/
theorem countedClock_ok {c : Clock} (h : clockOk c) (hr : rollsOver c = false) :
    clockOk (if c.isSet then { c with sub := c.sub + 1 } else c) := by
  obtain ⟨hs, hb, hu⟩ := h
  split
  · rename_i hi
    have hlt : ¬1023999 ≤ c.sub := by simpa [rollsOver, hi] using hr
    exact ⟨hs, by show c.sub + 1 ≤ 1023999; omega, fun hn => absurd (hi.symm.trans hn) (by decide)⟩
  · exact ⟨hs, hb, hu⟩

theorem setClock_ok (seconds : BitVec 32) : clockOk { isSet := true, seconds := seconds.toNat, sub := 0 } :=
  ⟨Nat.le_pred_of_lt seconds.isLt, Nat.zero_le _, fun h => nomatch h⟩

theorem secondTick_grid {s : State} (hr : rollsOver s.clock = true) : GridKept s (secondTick s) :=
  GridKept.trans (b := { s with now := s.now + 1, clock := rolledClock s.clock })
    ⟨⟨fun _ => rolledClock_ok hr, id, id⟩, rfl⟩ (clockEvent_grid _)

/-! ### The settings (R154, R155) -/

/-- Every setting in its own range, robust leave not yet held below robust enter. -/
def settingsInRange (p : Profile) : Prop :=
  (24 ≤ p.w ∧ p.w ≤ 96) ∧ (1 ≤ p.urgent ∧ p.urgent ≤ 64) ∧ p.coast ≤ 16 ∧ (1 ≤ p.silence ∧ p.silence ≤ 255) ∧
    (1 ≤ p.retry ∧ p.retry ≤ 63) ∧ (1 ≤ p.deferral ∧ p.deferral ≤ 255) ∧ (1 ≤ p.robustEnter ∧ p.robustEnter ≤ 255) ∧
    p.robustLeave ≤ 254 ∧ p.boost ≤ 15

theorem settingsInRange_of_profileOk {p : Profile} (h : profileOk p) : settingsInRange p := by
  unfold profileOk at h
  unfold settingsInRange
  omega

theorem putSetting_inRange {p : Profile} (k v : Nat) (h : settingsInRange p) : settingsInRange (putSetting p k v) := by
  unfold settingsInRange at h
  unfold putSetting
  split <;> simp only [settingsInRange, clamp] <;> omega

theorem foldl_putSetting_inRange : ∀ (kvs : List (Nat × Byte)) (p : Profile), settingsInRange p →
    settingsInRange (kvs.foldl (fun q kv => putSetting q kv.1 kv.2.toNat) p)
  | [], _, h => h
  | kv :: kvs, _, h => foldl_putSetting_inRange kvs _ (putSetting_inRange kv.1 kv.2.toNat h)

/-- Step 4 of a write puts robust leave below robust enter again. -/
theorem leaveBelowEnter_ok {p : Profile} (h : settingsInRange p) : profileOk (leaveBelowEnter p) := by
  unfold settingsInRange at h
  unfold leaveBelowEnter
  split <;> simp only [profileOk] <;> omega

theorem writtenProfile_ok {p : Profile} (mask : BitVec 16) (values : List Byte) (h : profileOk p) :
    profileOk (writtenProfile p mask values) :=
  leaveBelowEnter_ok (foldl_putSetting_inRange _ _ (settingsInRange_of_profileOk h))

/-! ### The noise floors (R134) -/

theorem floorsOk_setLcm {s : State} {ph : Phase} {m : Lcm} (h : s.floorsOk) (hm : m.floor ≤ 252) :
    (setLcm s ph m).floorsOk := fun q => by
  by_cases hq : q = ph
  · subst hq
    rwa [lcmOf_setLcm_self]
  · rw [lcmOf_setLcm_of_ne _ _ hq]
    exact h q

theorem setLcm_ranges (s : State) (ph : Phase) (m : Lcm) (h : (lcmOf s ph).floor ≤ 252 → m.floor ≤ 252) :
    RangesKept s (setLcm s ph m) := ⟨id, id, fun hf => floorsOk_setLcm hf (h (hf ph))⟩

/-- A difference divided and rounded toward zero keeps its sign, and multiplied back does not pass it. -/
theorem tdiv_between (x k : Int) (hk : 0 < k) :
    (0 ≤ x → 0 ≤ x.tdiv k ∧ k * x.tdiv k ≤ x) ∧ (x ≤ 0 → x.tdiv k ≤ 0 ∧ x ≤ k * x.tdiv k) := by
  have forward : ∀ y : Int, 0 ≤ y → 0 ≤ y.tdiv k ∧ k * y.tdiv k ≤ y := fun y hy => by
    have hsum := Int.mul_tdiv_add_tmod y k
    have hrem := Int.tmod_nonneg k hy
    exact ⟨Int.tdiv_nonneg hy hk.le, by omega⟩
  refine ⟨forward x, fun h => ?_⟩
  obtain ⟨hq, hle⟩ := forward (-x) (by omega)
  rw [Int.neg_tdiv] at hq hle
  rw [Int.mul_neg] at hle
  omega

/-- A quarter of the way toward a score of at most 255 does not lead past 252. -/
theorem floorStep_le {floor score : Nat} (hf : floor ≤ 252) (hs : score ≤ 255) : floorStep floor score ≤ 252 := by
  have h := tdiv_between ((score : Int) - floor) 4 (by decide)
  unfold floorStep
  omega

theorem noiseScore_le (busy d : Nat) : noiseScore busy d ≤ 255 := Nat.min_le_left ..

theorem measured_floor_le {m : Lcm} (p : Profile) (ended : EndedHalf) (h : m.floor ≤ 252) :
    (measured p ended m).floor ≤ 252 := by
  unfold measured
  dsimp only
  split
  · exact floorStep_le h (noiseScore_le ..)
  · exact h

theorem setLcm_grid {s : State} {ph : Phase} {m : Lcm} (h : (lcmOf s ph).floor ≤ 252 → m.floor ≤ 252) :
    GridKept s (setLcm s ph m) := ⟨setLcm_ranges s ph m h, rfl⟩

theorem measure_grid (ph : Phase) (ended : EndedHalf) (s : State) : GridKept s (measure ph ended s) :=
  ((setLcm_grid (measured_floor_le s.profile ended)).trans (raiseIf_work _ _ _).grid).trans (raiseIf_work _ _ _).grid

theorem monitorLoss_grid (ph : Phase) (s : State) : GridKept s (monitorLoss ph s) := setLcm_grid id

theorem reportStart_grid (ph : Phase) (s : State) : GridKept s (reportStart ph s) := setLcm_grid id

/-! ### Requests (R149): each owner leaves the grids alone -/

theorem admitNew_grid (r : Record) (s : State) : GridKept s (admitNew r s) := by
  unfold admitNew
  dsimp only
  have h : GridKept s { commitRecords (s.records ++ [admittedRecord s r]) s with
      tagCounter := nextTag r.tag, nextSerial := s.nextSerial + 1 } :=
    (commitRecords_grid _ s).trans (gridKept_of_eq rfl rfl rfl rfl)
  split
  · exact h.trans (tell_work _ _).grid
  · exact h

theorem serveSubmit_grid (f : SubmitFields) (s : State) : GridKept s (serveSubmit f s).1 := by
  unfold serveSubmit
  split
  · exact .refl s
  · exact admitNew_grid _ s

theorem serveCancel_grid (id : BitVec 32) (s : State) : GridKept s (serveCancel id s).1 := by
  unfold serveCancel
  have h : ∀ r, GridKept s (tell allPhases (putRecord r s)) := fun r =>
    (commitRecords_grid _ s).trans (tell_work _ _).grid
  split
  · exact .refl s
  · split
    · exact h _
    · exact h _
    · exact h _
    · exact .refl s
    · exact .refl s

theorem serveAdjust_grid (id : BitVec 32) (priority options : Byte) (s : State) :
    GridKept s (serveAdjust id priority options s).1 := by
  unfold serveAdjust
  split
  · exact .refl s
  · split
    · exact .refl s
    · dsimp only
      split
      · exact (commitRecords_grid _ s).trans (tell_work _ _).grid
      · exact commitRecords_grid _ s

theorem serveCollect_grid (id : BitVec 32) (cls : Byte) (start : BitVec 16) (options : Byte) (s : State) :
    GridKept s (serveCollect id cls start options s).1 := by
  unfold serveCollect
  split
  · exact .refl s
  · split
    · exact .refl s
    · split
      · exact .refl s
      · split
        · exact .refl s
        · dsimp only
          split
          · exact gridKept_of_eq rfl rfl rfl rfl
          · exact .refl s

theorem serveRestart_grid (s : State) : GridKept s (serveRestart s).1 := by
  unfold serveRestart
  dsimp only
  refine GridKept.trans ?_ (tell_work _ _).grid
  exact gridKept_of_eq rfl rfl rfl rfl

theorem serveUnitWrite_grid (f : UnitWriteFields) (s : State) : GridKept s (serveUnitWrite f s).1 := by
  unfold serveUnitWrite
  split
  · exact .refl s
  · exact .refl s
  · exact .refl s
  · exact .refl s
  · exact .refl s
  · exact gridKept_of_eq rfl rfl rfl rfl

theorem serveUnitRead_state (form : Byte) (start : BitVec 16) (count : Byte) (address : Address) (s : State) :
    (serveUnitRead form start count address s).1 = s := by
  unfold serveUnitRead
  split
  · split <;> rfl
  · split
    · split <;> rfl
    · rfl

theorem serveDiscoveryRead_grid (option : Byte) (s : State) : GridKept s (serveDiscoveryRead option s).1 := by
  unfold serveDiscoveryRead
  split
  · exact .refl s
  · dsimp only
    split
    · exact gridKept_of_eq rfl rfl rfl rfl
    · exact .refl s

theorem serveProfileWrite_grid (mask : BitVec 16) (values : List Byte) (s : State) :
    GridKept s (serveProfileWrite mask values s).1 := by
  unfold serveProfileWrite
  split
  · exact .refl s
  · dsimp only
    split
    · exact .refl s
    · have h : GridKept s { s with profile := writtenProfile s.profile mask values } :=
        ⟨⟨id, writtenProfile_ok mask values, id⟩, rfl⟩
      exact h.trans (tell_work _ _).grid

theorem serveClockSet_grid (seconds : BitVec 32) (s : State) : GridKept s (serveClockSet seconds s).1 := by
  unfold serveClockSet
  split
  · exact .refl s
  · have h : GridKept s { s with clock := { isSet := true, seconds := seconds.toNat, sub := 0 } } :=
      ⟨⟨fun _ => setClock_ok seconds, id, id⟩, rfl⟩
    exact h.trans (clockEvent_grid _)

theorem serveLaneControl_grid (mask action : Byte) (s : State) : GridKept s (serveLaneControl mask action s).1 := by
  unfold serveLaneControl
  have h : ∀ (act : State → Phase → State), (∀ s ph, LaneWork s (act s ph)) → ∀ asked,
      GridKept s (tell asked ((maskLanes mask).foldl act s)) := fun act ha asked =>
    ((LaneWork.foldl act ha _ s).trans (tell_work _ _)).grid
  split
  · exact .refl s
  · dsimp only
    split
    · exact h _ stopLane_work _
    · split
      · exact h _ pauseLane_work _
      · split
        · exact h _ resumeLane_work _
        · exact .refl s

theorem clearAfterStatus_grid (latches : Bool) (s : State) : GridKept s (clearAfterStatus latches s) := by
  refine ⟨⟨id, id, fun h ph => ?_⟩, rfl⟩
  unfold clearAfterStatus lcmOf
  cases latches with
  | false => exact h ph
  | true =>
    simp only [↓reduceIte, atPhase_perPhase]
    exact h ph

theorem serveStatus_grid (option : Byte) (s : State) : GridKept s (serveStatus option s).1 := by
  unfold serveStatus
  split
  · exact .refl s
  · exact clearAfterStatus_grid _ s

theorem serveMaskWrite_grid (mask : BitVec 16) (s : State) : GridKept s (serveMaskWrite mask s).1 := by
  unfold serveMaskWrite
  split
  · exact .refl s
  · exact gridKept_of_eq rfl rfl rfl rfl

theorem serve_grid (rq : Request) (s : State) : GridKept s (serve rq s).1 := by
  cases rq with
  | submit f => exact serveSubmit_grid f s
  | cancel id => exact serveCancel_grid id s
  | adjust id priority options => exact serveAdjust_grid id priority options s
  | collect id cls start options => exact serveCollect_grid id cls start options s
  | restart => exact serveRestart_grid s
  | unitWrite f => exact serveUnitWrite_grid f s
  | unitRead form start count address =>
    have h : (serve (.unitRead form start count address) s).1 = s := serveUnitRead_state form start count address s
    rw [h]
    exact .refl s
  | discoveryRead option => exact serveDiscoveryRead_grid option s
  | profileWrite mask values => exact serveProfileWrite_grid mask values s
  | profileRead => exact .refl s
  | clockSet seconds => exact serveClockSet_grid seconds s
  | laneControl mask action => exact serveLaneControl_grid mask action s
  | status option => exact serveStatus_grid option s
  | maskWrite mask => exact serveMaskWrite_grid mask s

/-! ### The uplink's receiver, intake and transmitter (R144 to R152) -/

theorem uli_grid (s : State) (u : Uli) : GridKept s { s with uli := u } := gridKept_of_eq rfl rfl rfl rfl

theorem perform_grid (tag : Byte) (rq : Request) (s : State) : GridKept s (perform tag rq s) :=
  ((transmit_grid s).trans (serve_grid rq _)).trans (respond_grid _ _)

theorem takeFrame_grid (f : Frame) (s : State) : GridKept s (takeFrame f s) := by
  unfold takeFrame
  split
  · exact perform_grid _ _ s
  · exact (transmit_grid s).trans (respond_grid _ _)
  · exact (transmit_grid s).trans (respond_grid _ _)

theorem holdFrame_grid (f : Frame) (s : State) : GridKept s (holdFrame f s) := by
  unfold holdFrame
  split
  · exact uli_grid s _
  · exact (raise_grid _ s).trans (transmit_grid _)

theorem intakeFrame_grid (f : Frame) (s : State) : GridKept s (intakeFrame f s) := by
  unfold intakeFrame
  split
  · exact takeFrame_grid f s
  · exact holdFrame_grid f s

theorem intakeRequest_grid (tag : Byte) (rq : Request) (s : State) : GridKept s (intakeRequest tag rq s) := by
  unfold intakeRequest
  split
  · exact perform_grid tag rq s
  · exact holdFrame_grid _ s

theorem takeSlot_grid (s : State) : GridKept s (takeSlot s) := by
  unfold takeSlot
  split
  · exact .refl s
  · split
    · exact (uli_grid s _).trans (takeFrame_grid _ _)
    · exact .refl s

theorem discardFrame_grid (s : State) : GridKept s (discardFrame s) :=
  ((uli_grid s _).trans (raise_grid _ _)).trans (transmit_grid _)

theorem checkFrame_grid (length : Byte) (body : List Byte) (crc1 crc2 : Byte) (s : State) :
    GridKept s (checkFrame length body crc1 crc2 s) := by
  unfold checkFrame
  split
  · exact (uli_grid s _).trans (intakeFrame_grid _ _)
  · exact discardFrame_grid s

theorem takeByte_grid (b : Byte) (s : State) : GridKept s (takeByte b s) := by
  unfold takeByte
  split
  · split
    · exact uli_grid s _
    · exact .refl s
  · split
    · exact uli_grid s _
    · exact discardFrame_grid s
  · dsimp only
    split <;> exact uli_grid s _
  · split
    · exact uli_grid s _
    · exact checkFrame_grid _ _ _ _ s
  · exact uli_grid s _
  · exact uli_grid s _
  · exact uli_grid s _

theorem takeFault_grid (s : State) : GridKept s (takeFault s) := by
  unfold takeFault
  split
  · exact .refl s
  all_goals exact discardFrame_grid s

theorem frameSent_grid (s : State) : GridKept s (frameSent s) := by
  unfold frameSent
  split
  · exact .refl s
  · exact (uli_grid s _).trans (transmit_grid _)
  · exact ((uli_grid s _).trans (takeSlot_grid _)).trans (transmit_grid _)

/-! ### Deliveries between the blocks -/

theorem passNotBefore_grid (r : Record) (unit : Nat) (s : State) : GridKept s (passNotBefore r unit s) :=
  (commitRecords_grid _ s).trans (tell_work _ _).grid

theorem abortRequestTaken_grid (q : AbortRequest) (s : State) : GridKept s (abortRequestTaken q s) := by
  have h : GridKept s { s with abortRequests := s.abortRequests.erase q } := gridKept_of_eq rfl rfl rfl rfl
  exact (h.trans (takeAbortRequest_work q _).grid).trans (tell_work _ _).grid

/-- The reference tick counts the clock on, or takes the second event. -/
theorem tick_grid (s : State) :
    GridKept s
      (if rollsOver s.clock then secondTick s
      else { s with now := s.now + 1, clock := if s.clock.isSet then { s.clock with sub := s.clock.sub + 1 } else s.clock }) := by
  split
  · exact secondTick_grid ‹_›
  · exact ⟨⟨fun h => countedClock_ok h (Bool.eq_false_iff.2 ‹_›), id, id⟩, rfl⟩

/-! ### Every command -/

/-- The commands that start a grid, stop it or move it on: those of the mains, and the device reset. -/
def movesGrids : Instr → Bool
  | .deviceReset _ _ | .crossing _ | .missTest _ | .halfCycleBoundary _ _ _ | .windowBoundary _
  | .windowSample _ _ _ _ => true
  | _ => false

theorem intake_outcome {c : Instr} {s : State} {tag : Byte} {rq : Request}
    (h : exec c s = .next (transmit (intakeRequest tag rq s))) : ∃ t, exec c s = .next t ∧ GridKept s t :=
  ⟨_, h, (intakeRequest_grid tag rq s).trans (transmit_grid _)⟩

/-- Every other command leaves all three grids as they are, and keeps the ranges. -/
theorem exec_grid (c : Instr) (s : State) (hc : movesGrids c = false) : ∃ t, exec c s = .next t ∧ GridKept s t := by
  cases c with
  | deviceReset fsel baud => cases hc
  | crossing ph => cases hc
  | missTest ph => cases hc
  | halfCycleBoundary ph mf reports => cases hc
  | windowBoundary ph => cases hc
  | windowSample ph rxd cd lq => cases hc
  | secondEvent =>
    refine ⟨_, rfl, GridKept.trans ?_ (transmit_grid _)⟩
    split
    · exact secondTick_grid ‹_›
    · exact .refl s
  | referenceTick => exact ⟨_, rfl, (tick_grid s).trans (transmit_grid _)⟩
  | notBeforeTimePasses id unit =>
    refine ⟨_, rfl, GridKept.trans ?_ (transmit_grid _)⟩
    split
    · exact .refl s
    · split
      · exact passNotBefore_grid _ unit s
      · exact .refl s
  | endReport which => exact ⟨_, rfl, (takeQueueReport_work which s).toLaneSide.grid.trans (transmit_grid _)⟩
  | learningReport which => exact ⟨_, rfl, (takeTableReport_side which s).grid.trans (transmit_grid _)⟩
  | abortRequest lane =>
    refine ⟨_, rfl, GridKept.trans ?_ (transmit_grid _)⟩
    split
    · exact .refl s
    · exact abortRequestTaken_grid _ s
  | receivedByte byte fault =>
    refine ⟨_, rfl, GridKept.trans ?_ (transmit_grid _)⟩
    split
    · exact takeFault_grid s
    · exact takeByte_grid byte s
  | interByteTimeout =>
    refine ⟨_, rfl, GridKept.trans ?_ (transmit_grid _)⟩
    split
    · exact discardFrame_grid s
    · exact .refl s
  | transmitterFree =>
    refine ⟨_, rfl, GridKept.trans ?_ (transmit_grid _)⟩
    split
    · exact frameSent_grid s
    · exact .refl s
  | waitingSlotTaken => exact ⟨_, rfl, (takeSlot_grid s).trans (transmit_grid _)⟩
  | badKind kind tag content => exact ⟨_, rfl, (intakeFrame_grid _ s).trans (transmit_grid _)⟩
  | submit tag fields => exact intake_outcome rfl
  | cancel tag id => exact intake_outcome rfl
  | adjust tag id priority options => exact intake_outcome rfl
  | collect tag id cls start options => exact intake_outcome rfl
  | restart tag => exact intake_outcome rfl
  | unitWrite tag fields => exact intake_outcome rfl
  | unitReadByIndex tag start count => exact intake_outcome rfl
  | unitReadByAddress tag address => exact intake_outcome rfl
  | discoveryRead tag option => exact intake_outcome rfl
  | profileWrite tag mask values => exact intake_outcome rfl
  | profileRead tag => exact intake_outcome rfl
  | clockSet tag seconds => exact intake_outcome rfl
  | stop tag mask => exact intake_outcome rfl
  | pause tag mask => exact intake_outcome rfl
  | resume tag mask => exact intake_outcome rfl
  | status tag option => exact intake_outcome rfl
  | maskWrite tag mask => exact intake_outcome rfl

/-- A property that every command keeps is kept by every step: an idle step changes nothing. -/
theorem step_keeps {P : State → Prop} (hw : ∀ s cs, P s → P { s with pending := cs })
    (he : ∀ c s, P s → ∃ t, exec c s = .next t ∧ P t) {s t : State} (hs : P s) (h : step s = .next t) : P t := by
  cases hq : s.pending with
  | nil =>
    rw [step_nil hq] at h
    cases h
    exact hs
  | cons c rest =>
    rw [step_cons hq] at h
    obtain ⟨u, hu, hp⟩ := he c _ (hw s rest hs)
    rw [hu] at h
    cases h
    exact hp

end Sys2Proof.Machine

/-! ## The timing unit's own operations (R2 to R11) and O5, O6 -/

namespace Sys2Proof.Machine

open Sys2Proof.Claims

/-! ### Estimates and miss counts of one timing unit -/

/-- An estimate filtered toward an interval of the absolute window stays in the window (R4, R8, R9). -/
theorem filterStep_inWindow {p m : Nat} (hp : 15360 ≤ p ∧ p ≤ 24576) (hm : 15360 ≤ m ∧ m ≤ 24576) :
    15360 ≤ filterStep p m ∧ filterStep p m ≤ 24576 := by
  have h := tdiv_between ((m : Int) - p) 8 (by decide)
  unfold filterStep
  omega

theorem lockUpdate_inWindow {p m : Nat} (n : Nat) (hp : 15360 ≤ p ∧ p ≤ 24576) (hm : 15360 ≤ m ∧ m ≤ 24576) :
    15360 ≤ (lockUpdate p n m).1 ∧ (lockUpdate p n m).1 ≤ 24576 := by
  unfold lockUpdate
  split
  · exact hm
  · split
    · exact filterStep_inWindow hp hm
    · exact hm

/-- The estimate and the miss count of one timing unit are in range. -/
def unitTimingOk (u : Ptu) : Prop := periodOk u ∧ missesOk u

/-- A miss count of 0 is in range, whether the grid runs or not. -/
theorem missesOk_of_zero {u : Ptu} (h : u.missCount = 0) : missesOk u := by
  unfold missesOk
  omega

theorem periodOk_of_none {u : Ptu} (hp : 15360 ≤ u.p ∧ u.p ≤ 24576) (hc : u.correction = none) : periodOk u :=
  ⟨hp.1, hp.2, fun _ hk => nomatch hc.symm.trans hk⟩

/-- The newest estimate, the pending one or else the one in force, lies in the window (R8 step 3). -/
theorem newestEstimate_inWindow {u : Ptu} (h : periodOk u) :
    15360 ≤ (u.correction.map Correction.p).getD u.p ∧ (u.correction.map Correction.p).getD u.p ≤ 24576 := by
  obtain ⟨hlo, hhi, hk⟩ := h
  cases hc : u.correction with
  | none => exact ⟨hlo, hhi⟩
  | some k => exact hk k hc

theorem startCycle_ok {u : Ptu} (b : Nat) (previous : Option Nat) (w : Nat) (h : unitTimingOk u) :
    unitTimingOk (startCycle b previous w u) :=
  ⟨periodOk_of_none (newestEstimate_inWindow h.1) rfl, h.2⟩

theorem crossLocking_ok {u : Ptu} (t w : Nat) (hu : u.timing = .locking) (h : unitTimingOk u) :
    unitTimingOk (crossLocking t w u).1 := by
  obtain ⟨⟨hlo, hhi, hk⟩, hm, -⟩ := h
  have stopped : ∀ v : Ptu, v.timing = .locking → v.missCount = u.missCount → missesOk v := fun v ht hc => by
    refine ⟨hc ▸ hm, fun hr => ?_⟩
    simp [gridRuns, ht] at hr
  have hs := stopped u hu rfl
  unfold crossLocking
  split
  · exact ⟨⟨hlo, hhi, hk⟩, stopped _ hu rfl⟩
  · dsimp only
    split
    · exact ⟨⟨hlo, hhi, hk⟩, hs⟩
    · split
      · have hw := lockUpdate_inWindow u.lockCount ⟨hlo, hhi⟩ (m := t - ‹Anchor›.time) (by omega)
        split
        · exact startCycle_ok _ _ _ ⟨periodOk_of_none hw rfl, missesOk_of_zero rfl⟩
        · exact ⟨⟨hw.1, hw.2, hk⟩, stopped _ hu rfl⟩
      · exact ⟨⟨hlo, hhi, hk⟩, stopped _ hu rfl⟩

theorem proposedEstimate_inWindow {u : Ptu} (cyc : Cycle) (t b : Nat) (h : periodOk u) :
    15360 ≤ proposedEstimate u cyc t b ∧ proposedEstimate u cyc t b ≤ 24576 := by
  have hn := newestEstimate_inWindow h
  unfold proposedEstimate
  dsimp only
  split
  · split
    · rename_i hw
      simp only [inWindow, Bool.and_eq_true, decide_eq_true_eq] at hw
      exact filterStep_inWindow hn hw.2
    · exact hn
  · exact hn

theorem crossRunning_ok {u : Ptu} (t : Nat) (h : unitTimingOk u) : unitTimingOk (crossRunning t u) := by
  unfold crossRunning
  split
  · exact h
  · dsimp only
    split
    · refine ⟨⟨h.1.1, h.1.2.1, fun k hk => ?_⟩, missesOk_of_zero rfl⟩
      cases hk
      exact proposedEstimate_inWindow _ _ _ h.1
    · exact h

theorem crossLost_ok {u : Ptu} (t : Nat) (h : unitTimingOk u) : unitTimingOk (crossLost t u) :=
  ⟨periodOk_of_none ⟨h.1.1, h.1.2.1⟩ rfl, missesOk_of_zero rfl⟩

/-- The timing unit after its miss test, the loss at the fiftieth miss included (R10, R11). -/
def missTaken (u : Ptu) : Ptu :=
  if boundaryServed u then takeMissTest u
  else if 50 ≤ (takeMissTest u).missCount then losePhase (takeMissTest u) else takeMissTest u

theorem takeMissTest_served {u : Ptu} (h : boundaryServed u = true) :
    takeMissTest u = { u with cycle := u.cycle.map fun cyc => { cyc with missTested := true } } := by
  simp [takeMissTest, h]

theorem takeMissTest_missed {u : Ptu} (h : boundaryServed u = false) :
    takeMissTest u = { u with
      cycle := u.cycle.map fun cyc => { cyc with missTested := true }, timing := .coasting
      missCount := u.missCount + 1 } := by
  simp [takeMissTest, h]

theorem missTaken_ok {u : Ptu} (hr : gridRuns u = true) (h : unitTimingOk u) : unitTimingOk (missTaken u) := by
  obtain ⟨hp, -, hm⟩ := h
  have hlt := hm hr
  unfold missTaken
  split
  · rw [takeMissTest_served ‹_›]
    exact ⟨hp, hlt.le, fun _ => hlt⟩
  · rw [takeMissTest_missed (Bool.eq_false_iff.2 ‹_›)]
    split
    · exact ⟨periodOk_of_none ⟨hp.1, hp.2.1⟩ rfl, hlt, fun hn => nomatch hn⟩
    · exact ⟨hp, hlt, fun _ => Nat.lt_of_not_le ‹_›⟩

theorem nextHalf_ok {u : Ptu} (w : Nat) (h : unitTimingOk u) : unitTimingOk (nextHalf w u) := by
  unfold nextHalf
  split
  · split
    · exact h
    · exact startCycle_ok _ _ _ h
  · exact h

theorem resetPtu_ok (fsel : Bool) : unitTimingOk (resetPtu fsel) := by
  refine ⟨periodOk_of_none ?_ rfl, missesOk_of_zero rfl⟩
  cases fsel <;> decide

/-! ### What the mains' commands make of the three timing units -/

theorem timingOk_putPtu {s t : State} {ph : Phase} {u : Ptu} (ht : t.ptu = putPhase s.ptu ph u) (hs : s.timingOk)
    (hu : unitTimingOk u) : t.timingOk := fun q => by
  unfold ptuOf
  rw [ht]
  by_cases hq : q = ph
  · subst hq
    rwa [atPhase_putPhase_self]
  · rw [atPhase_putPhase_of_ne _ _ hq]
    exact hs q

theorem setPtu_ranges (s : State) (ph : Phase) (u : Ptu) : RangesKept s (setPtu s ph u) := rangesKept_of_eq rfl rfl rfl

/-- The timing unit of a phase after a crossing (R2 to R8). -/
def crossed (t w : Nat) (u : Ptu) : Ptu :=
  match u.timing with
  | .locking => (crossLocking t w u).1
  | .locked | .coasting => crossRunning t u
  | .lost => crossLost t u

theorem crossed_ok {u : Ptu} (t w : Nat) (h : unitTimingOk u) : unitTimingOk (crossed t w u) := by
  unfold crossed
  split
  · exact crossLocking_ok t w ‹_› h
  · exact crossRunning_ok t h
  · exact crossRunning_ok t h
  · exact crossLost_ok t h

theorem laneFirstBoundary_grid (ph : Phase) (s : State) : GridKept s (laneFirstBoundary ph s) := by
  unfold laneFirstBoundary
  dsimp only
  refine GridKept.trans (LaneWork.grid ?_) (reportStart_grid ph _)
  refine LaneWork.trans ?_ (tell_work _ _)
  split
  · exact settleLane_work ph s
  · exact .refl s

theorem exec_crossing_locking {ph : Phase} {s : State} (h : (ptuOf s ph).timing = .locking) :
    exec (.crossing ph) s = .next (transmit (crossingLocking ph s)) := by
  simp only [exec, execCrossing, h]

theorem exec_crossing_running {ph : Phase} {s : State} (h : running (ptuOf s ph)) :
    exec (.crossing ph) s = .next (transmit (crossingRunning ph s)) := by
  rcases h with h | h <;> simp only [exec, execCrossing, h]

theorem exec_crossing_lost {ph : Phase} {s : State} (h : (ptuOf s ph).timing = .lost) :
    exec (.crossing ph) s = .next (transmit (crossingLost ph s)) := by
  simp only [exec, execCrossing, h]

theorem crossingLocking_grid (ph : Phase) (s : State) :
    GridKept (setPtu s ph (crossLocking s.now s.profile.w (ptuOf s ph)).1) (crossingLocking ph s) := by
  unfold crossingLocking
  dsimp only
  split
  · exact (raise_grid _ _).trans (laneFirstBoundary_grid ph _)
  · exact .refl _

theorem crossing_grid (ph : Phase) (s : State) :
    ∃ t, exec (.crossing ph) s = .next t ∧
      GridKept (setPtu s ph (crossed s.now s.profile.w (ptuOf s ph))) t := by
  unfold crossed
  cases h : (ptuOf s ph).timing with
  | locking => exact ⟨_, exec_crossing_locking h, (crossingLocking_grid ph s).trans (transmit_grid _)⟩
  | locked => exact ⟨_, exec_crossing_running (.inl h), (tell_work _ _).grid.trans (transmit_grid _)⟩
  | coasting => exact ⟨_, exec_crossing_running (.inr h), (tell_work _ _).grid.trans (transmit_grid _)⟩
  | lost => exact ⟨_, exec_crossing_lost h, (laneSeen_work ph _).grid.trans (transmit_grid _)⟩

/-- A timing unit set again, after work that touches no grid, is set once to the later value. -/
theorem setPtu_again {s t : State} {ph : Phase} {u : Ptu} (f : Ptu → Ptu) (h : GridKept (setPtu s ph u) t) :
    GridKept (setPtu s ph (f u)) (setPtu t ph (f (ptuOf t ph))) := by
  refine ⟨⟨h.clock, h.profile, h.floors⟩, ?_⟩
  rw [ptuOf_of_setPtu h.ptu, setPtu_ptu, h.ptu, setPtu_ptu, setPtu_ptu, putPhase_putPhase]

/-- A phase loss stops the grid of its phase and changes no other. -/
theorem phaseLost_grid (ph : Phase) (time : Nat) (s : State) :
    GridKept (setPtu s ph (losePhase (ptuOf s ph))) (phaseLost ph time s) :=
  (((raise_grid _ _).trans (monitorLoss_grid ph _)).trans (laneLoss_work ph time _).grid).trans (tell_work _ _).grid

theorem takeMiss_grid (ph : Phase) (s : State) : GridKept (setPtu s ph (missTaken (ptuOf s ph))) (takeMiss ph s) := by
  unfold takeMiss missTaken
  dsimp only
  have hraise := (raiseIf_work ((ptuOf s ph).timing == .locked) .gridCoast
    (setPtu s ph (takeMissTest (ptuOf s ph)))).grid
  split
  · exact .refl _
  · split
    · exact (setPtu_again losePhase hraise).trans (phaseLost_grid ph _ _)
    · exact hraise.trans (tell_work _ _).grid

theorem missTest_grid (ph : Phase) (s : State) :
    ∃ t, exec (.missTest ph) s = .next t ∧
      GridKept (if missTestDue s.now (ptuOf s ph) then setPtu s ph (missTaken (ptuOf s ph)) else s) t := by
  refine ⟨_, rfl, GridKept.trans ?_ (transmit_grid _)⟩
  split
  · exact takeMiss_grid ph s
  · exact .refl s

/-- At a boundary the timing unit moves to its next half-cycle, and nothing else happens to a grid (R6, R13). -/
theorem takeBoundary_grid (ph : Phase) (mf : Bool) (o : ReportOrder) (s : State) :
    GridKept (setPtu s ph (nextHalf s.profile.w (ptuOf s ph))) (takeBoundary ph mf o s) := by
  unfold takeBoundary
  dsimp only
  refine GridKept.trans ?_ (reportStart_grid ph _)
  split
  · exact (measure_grid ph _ _).trans (laneBoundary_side ph _ _ o _).grid
  · exact (laneBoundary_side ph _ _ o _).grid.trans (measure_grid ph _ _)

theorem halfCycleBoundary_grid (ph : Phase) (mf : Bool) (o : ReportOrder) (s : State) :
    ∃ t, exec (.halfCycleBoundary ph mf o) s = .next t ∧
      GridKept (if boundaryDue s.now (ptuOf s ph) then setPtu s ph (nextHalf s.profile.w (ptuOf s ph)) else s) t := by
  refine ⟨_, rfl, GridKept.trans ?_ (transmit_grid _)⟩
  split
  · exact takeBoundary_grid ph mf o s
  · exact .refl s

theorem driveWindow_grid (ph : Phase) (w index : Nat) (s : State) : GridKept s (driveWindow ph w index s) := by
  unfold driveWindow
  dsimp only
  split <;> exact gridKept_of_eq rfl rfl rfl rfl

/-- What windows and samples change of a half-cycle bears on no estimate and no count. -/
theorem half_ok {u : Ptu} (h : Option HalfCycle) (hu : unitTimingOk u) : unitTimingOk { u with half := h } := hu

theorem setPtu_self_grid (s : State) (ph : Phase) : GridKept (setPtu s ph (ptuOf s ph)) s :=
  gridKept_of_eq (putPhase_atPhase_self s.ptu ph).symm rfl rfl rfl

theorem exec_windowBoundary_due {ph : Phase} {s : State} {h : HalfCycle} (hd : windowDue s.now (ptuOf s ph) = true)
    (hh : (ptuOf s ph).half = some h) :
    exec (.windowBoundary ph) s = .next (transmit (driveWindow ph h.w (nextWindowIndex h)
      (setPtu s ph { ptuOf s ph with half := some (beginWindow h) }))) := by
  simp only [exec, execWindowBoundary, hd, ↓reduceIte, takeWindow, hh]

theorem exec_windowBoundary_idle {ph : Phase} {s : State} (hd : ¬windowDue s.now (ptuOf s ph) = true) :
    exec (.windowBoundary ph) s = .next (transmit s) := by
  simp only [exec, execWindowBoundary, hd, Bool.false_eq_true, ↓reduceIte]

theorem windowBoundary_grid (ph : Phase) (s : State) :
    ∃ t h, exec (.windowBoundary ph) s = .next t ∧ GridKept (setPtu s ph { ptuOf s ph with half := h }) t := by
  by_cases hd : windowDue s.now (ptuOf s ph) = true
  · cases hh : (ptuOf s ph).half with
    | none => simp [windowDue, hh] at hd
    | some h => exact ⟨_, _, exec_windowBoundary_due hd hh, (driveWindow_grid ..).trans (transmit_grid _)⟩
  · exact ⟨_, (ptuOf s ph).half, exec_windowBoundary_idle hd, (setPtu_self_grid s ph).trans (transmit_grid s)⟩

theorem exec_windowSample_due {ph : Phase} {rxd cd lq : Bool} {s : State} (hd : sampleDue s.now (ptuOf s ph) = true) :
    exec (.windowSample ph rxd cd lq) s = .next (transmit (setPtu s ph
      { ptuOf s ph with half := (ptuOf s ph).half.map (takeSample { rxd, cd, lq }) })) := by
  simp only [exec, execWindowSample, hd, ↓reduceIte, takeWindowSample]

theorem exec_windowSample_idle {ph : Phase} {rxd cd lq : Bool} {s : State}
    (hd : ¬sampleDue s.now (ptuOf s ph) = true) : exec (.windowSample ph rxd cd lq) s = .next (transmit s) := by
  simp only [exec, execWindowSample, hd, Bool.false_eq_true, ↓reduceIte]

theorem windowSample_grid (ph : Phase) (rxd cd lq : Bool) (s : State) :
    ∃ t h, exec (.windowSample ph rxd cd lq) s = .next t ∧
      GridKept (setPtu s ph { ptuOf s ph with half := h }) t := by
  by_cases hd : sampleDue s.now (ptuOf s ph) = true
  · exact ⟨_, _, exec_windowSample_due hd, transmit_grid _⟩
  · exact ⟨_, (ptuOf s ph).half, exec_windowSample_idle hd, (setPtu_self_grid s ph).trans (transmit_grid s)⟩

/-! ### O5 and O6 -/

theorem stateAfterReset_ranges (fsel : Bool) (baud : BitVec 2) :
    clockOk (stateAfterReset fsel baud).clock ∧ profileOk (stateAfterReset fsel baud).profile ∧
      (stateAfterReset fsel baud).floorsOk ∧ (stateAfterReset fsel baud).timingOk := by
  refine ⟨?_, ?_, fun ph => ?_, fun ph => ?_⟩
  · simp [clockOk, stateAfterReset, resetClock]
  · simp [profileOk, stateAfterReset, defaultProfile]
  · cases ph <;> exact Nat.zero_le _
  · cases ph <;> exact resetPtu_ok fsel

theorem timingOk_of_ptu {s t : State} (h : t.ptu = s.ptu) (hs : s.timingOk) : t.timingOk := fun ph => by
  unfold ptuOf
  rw [h]
  exact hs ph

theorem timingOk_of_setPtu {s t : State} {ph : Phase} {u : Ptu} (ht : GridKept (setPtu s ph u) t) (hs : s.timingOk)
    (hu : unitTimingOk u) : t.timingOk := timingOk_putPtu ht.ptu hs hu

/-- Every command keeps the estimates in the absolute window and the miss counts in range. -/
theorem exec_keeps_timing (c : Instr) (s : State) (hs : s.timingOk) : ∃ t, exec c s = .next t ∧ t.timingOk := by
  by_cases hc : movesGrids c = false
  · obtain ⟨t, ht, hg⟩ := exec_grid c s hc
    exact ⟨t, ht, timingOk_of_ptu hg.ptu hs⟩
  cases c with
  | deviceReset fsel baud => exact ⟨_, rfl, (stateAfterReset_ranges fsel baud).2.2.2⟩
  | crossing ph =>
    obtain ⟨t, ht, hg⟩ := crossing_grid ph s
    exact ⟨t, ht, timingOk_of_setPtu hg hs (crossed_ok _ _ (hs ph))⟩
  | missTest ph =>
    obtain ⟨t, ht, hg⟩ := missTest_grid ph s
    refine ⟨t, ht, ?_⟩
    split at hg
    · rename_i hd
      have hr : gridRuns (ptuOf s ph) = true := by
        unfold missTestDue at hd
        split at hd
        · cases hd
        · simp only [Bool.and_eq_true] at hd
          exact hd.1.1
      exact timingOk_of_setPtu hg hs (missTaken_ok hr (hs ph))
    · exact timingOk_of_ptu hg.ptu hs
  | halfCycleBoundary ph mf o =>
    obtain ⟨t, ht, hg⟩ := halfCycleBoundary_grid ph mf o s
    refine ⟨t, ht, ?_⟩
    split at hg
    · exact timingOk_of_setPtu hg hs (nextHalf_ok _ (hs ph))
    · exact timingOk_of_ptu hg.ptu hs
  | windowBoundary ph =>
    obtain ⟨t, h, ht, hg⟩ := windowBoundary_grid ph s
    exact ⟨t, ht, timingOk_of_setPtu hg hs (half_ok h (hs ph))⟩
  | windowSample ph rxd cd lq =>
    obtain ⟨t, h, ht, hg⟩ := windowSample_grid ph rxd cd lq s
    exact ⟨t, ht, timingOk_of_setPtu hg hs (half_ok h (hs ph))⟩
  | _ => exact absurd rfl hc

/-- Every command keeps the ranges of the clock, the settings and the noise floors. -/
theorem exec_keeps_ranges (c : Instr) (s : State) : ∃ t, exec c s = .next t ∧ RangesKept s t := by
  by_cases hc : movesGrids c = false
  · obtain ⟨t, ht, hg⟩ := exec_grid c s hc
    exact ⟨t, ht, hg.toRangesKept⟩
  cases c with
  | deviceReset fsel baud =>
    obtain ⟨hc, hp, hf, -⟩ := stateAfterReset_ranges fsel baud
    exact ⟨_, rfl, fun _ => hc, fun _ => hp, fun _ => hf⟩
  | crossing ph =>
    obtain ⟨t, ht, hg⟩ := crossing_grid ph s
    exact ⟨t, ht, (setPtu_ranges s ph _).trans hg.toRangesKept⟩
  | missTest ph =>
    obtain ⟨t, ht, hg⟩ := missTest_grid ph s
    refine ⟨t, ht, RangesKept.trans ?_ hg.toRangesKept⟩
    split
    · exact setPtu_ranges s ph _
    · exact (GridKept.refl s).toRangesKept
  | halfCycleBoundary ph mf o =>
    obtain ⟨t, ht, hg⟩ := halfCycleBoundary_grid ph mf o s
    refine ⟨t, ht, RangesKept.trans ?_ hg.toRangesKept⟩
    split
    · exact setPtu_ranges s ph _
    · exact (GridKept.refl s).toRangesKept
  | windowBoundary ph =>
    obtain ⟨t, h, ht, hg⟩ := windowBoundary_grid ph s
    exact ⟨t, ht, (setPtu_ranges s ph _).trans hg.toRangesKept⟩
  | windowSample ph rxd cd lq =>
    obtain ⟨t, h, ht, hg⟩ := windowSample_grid ph rxd cd lq s
    exact ⟨t, ht, (setPtu_ranges s ph _).trans hg.toRangesKept⟩
  | _ => exact absurd rfl hc

/-- Settles O5: every command keeps the window, timing unit by timing unit, so every step does. -/
theorem periodEstimatesStayInWindow : Obligations.PeriodEstimatesStayInWindow := fun _ _ hs h =>
  step_keeps (P := State.timingOk) (fun _ _ => id) exec_keeps_timing hs h

/-- Settles O6: each of the three ranges is carried over by every command, so by every step. -/
theorem clockProfileAndFloorsStayInRange : Obligations.ClockProfileAndFloorsStayInRange := fun _ _ hc hp hf h =>
  step_keeps (P := fun s => clockOk s.clock ∧ profileOk s.profile ∧ s.floorsOk) (fun _ _ => id)
    (fun c s ⟨hc, hp, hf⟩ => by
      obtain ⟨t, ht, hr⟩ := exec_keeps_ranges c s
      exact ⟨t, ht, hr.clock hc, hr.profile hp, hr.floors hf⟩)
    ⟨hc, hp, hf⟩ h

end Sys2Proof.Machine

/-! ## Reset (R1) and the clock's question (R18): O3, O4, O25 -/

namespace Sys2Proof.Machine

open Sys2Proof.Claims

/-- Settles O3: the values of the state after reset, block by block. -/
theorem deviceResetRestoresResetValues : Obligations.DeviceResetRestoresResetValues := by
  intro fsel baud s
  refine ⟨_, rfl, fun ph => ?_, rfl, rfl, fun i => rfl, rfl, rfl, rfl, rfl, fun ph => ⟨false, ?_⟩, fun ph => ?_, rfl,
    fun f => ⟨getLsbD_started f, getLsbD_started f⟩, rfl, rfl, rfl, rfl⟩
  · cases ph <;> rfl
  · cases ph <;> rfl
  · cases ph <;> rfl

theorem emptyTable_ok {s : State} (hu : s.units = []) (hd : s.discovery = []) : s.tableOk := by
  refine ⟨?_, ?_, ?_, ?_, ?_, ?_⟩
  · rw [hu]
    rfl
  · intro i j a h
    rw [hu] at h
    cases h
  · intro i h
    rw [hu] at h
    cases h
  · intro i
    rw [hu]
    exact ⟨Nat.zero_le _, List.not_mem_nil⟩
  · intro i
    rw [hu]
    exact ⟨fun _ => rfl, fun h => absurd rfl h⟩
  · unfold discoveryOk
    rw [hd]
    exact ⟨Nat.zero_le _, List.nodup_nil, fun a ha => absurd ha List.not_mem_nil⟩

theorem emptyQueue_ok {s : State} (hr : s.records = []) (ht : s.tagCounter = 1) : s.queueOk := by
  unfold State.queueOk
  rw [hr, ht]
  simp

theorem resetLane_ok : laneOk resetLane := by
  refine ⟨?_, ?_, ?_, ?_, ?_⟩ <;> simp [resetLane, isOccupied]

/-- Settles O4: each invariant read off the state after reset. -/
theorem resetMeetsEveryInvariant : Obligations.ResetMeetsEveryInvariant := by
  obtain ⟨hc, hp, hf, ht⟩ := stateAfterReset_ranges false 0
  refine ⟨ht, hc, hp, hf, emptyTable_ok rfl rfl, emptyQueue_ok rfl rfl, fun r hr => ?_, fun ph => ?_, ?_⟩
  · cases hr
  · have hl : laneOf State.reset ph = resetLane := by cases ph <;> rfl
    rw [hl]
    exact ⟨resetLane_ok, fun x hx => nomatch hx⟩
  · exact ⟨Nat.zero_le _, fun h => absurd rfl h, fun f n h => (nomatch h), fun _ => by decide⟩

/-- Settles O25: the remaining time is taken in whole ticks, and its sign decides. -/
theorem halfCyclesRemainingBeforeSecond : Obligations.HalfCyclesRemainingBeforeSecond := by
  intro s ph deadline
  refine ⟨fun h0 => ?_, fun h0 hc => ?_, fun h0 hc => ⟨fun hle => ?_, fun rt hrt heq => ?_⟩⟩
  · simp [halfCyclesRemaining, h0]
  · simp [halfCyclesRemaining, h0, hc]
  · have hpast : ((deadline : Int) - s.clock.seconds) * 1024000 - s.clock.sub ≤ 0 := by omega
    simp only [halfCyclesRemaining, h0, hc, Bool.true_eq_false, ↓reduceIte, hpast]
  · have hrem : ((deadline : Int) - s.clock.seconds) * 1024000 - s.clock.sub = rt := by omega
    have hpos : ¬(rt : Int) ≤ 0 := by omega
    have htwo : (2 * (rt : Int)).toNat = 2 * rt := by omega
    simp only [halfCyclesRemaining, h0, hc, Bool.true_eq_false, ↓reduceIte, hrem, hpos, htwo]

end Sys2Proof.Machine

/-! ## The windows of a half-cycle (R14): O21 -/

namespace Sys2Proof.Machine

/-- What the half-cycle holds after `k` windows have begun: the accumulator, and where the next window begins. -/
structure WindowsBegun (start length w k : Nat) (h : HalfCycle) : Prop where
  lengthOf : h.length = length
  wOf : h.w = w
  acc : h.acc = k * (length % w) % w
  index : nextWindowIndex h = k
  next : nextWindowStart h = start + k * (length / w) + k * (length % w) / w

/-- A window's length carries the accumulator's overflow: the remainders of `k + 1` windows hold one more whole `w` than
those of `k` just when the accumulator passes `w`. -/
theorem remainders_succ {w r k : Nat} (hr : r < w) :
    (k + 1) * r / w = k * r / w + (if w ≤ k * r % w + r then 1 else 0) ∧
      (k + 1) * r % w = if w ≤ k * r % w + r then k * r % w + r - w else k * r % w + r := by
  have hw : 0 < w := by omega
  have hlt := Nat.mod_lt (k * r) hw
  have hsplit : (k + 1) * r = w * (k * r / w) + (k * r % w + r) := by
    rw [← Nat.add_assoc, Nat.div_add_mod, Nat.succ_mul]
  refine (Nat.div_mod_unique hw).2 ?_
  rw [hsplit]
  generalize k * r % w = q at *
  split
  · rw [Nat.mul_succ]
    omega
  · rw [Nat.add_zero]
    omega

theorem newHalf_windowsBegun (positive : Bool) (start length w : Nat) :
    WindowsBegun start length w 0 (newHalf positive start length w) :=
  ⟨rfl, rfl, by simp [newHalf], rfl, by simp [newHalf, nextWindowStart]⟩

/-- The window that begins after `k` others, and what the half-cycle holds then (R14). -/
theorem beginWindow_windowsBegun {start length w k : Nat} {h : HalfCycle} (hw : 0 < w)
    (hb : WindowsBegun start length w k h) :
    WindowsBegun start length w (k + 1) (beginWindow h) ∧
      ∃ v, (beginWindow h).window = some v ∧ v.index = k ∧
        v.start = start + k * (length / w) + k * (length % w) / w ∧
        v.start + v.length = start + (k + 1) * (length / w) + (k + 1) * (length % w) / w ∧
        (v.length = length / w ∨ v.length = length / w + 1) := by
  obtain ⟨hl, hW, hacc, hidx, hnext⟩ := hb
  obtain ⟨hdiv, hmod⟩ := remainders_succ (k := k) (Nat.mod_lt length hw)
  have hbase : (k + 1) * (length / w) = k * (length / w) + length / w := Nat.succ_mul ..
  have hbegun : beginWindow h = { h with
      acc := (k + 1) * (length % w) % w
      window := some { index := k, start := start + k * (length / w) + k * (length % w) / w
                       length := if w ≤ k * (length % w) % w + length % w then length / w + 1 else length / w } } := by
    simp only [beginWindow, hl, hW, hacc, hidx, hnext, hmod, decide_eq_true_eq]
  rw [hbegun]
  refine ⟨⟨hl, hW, rfl, rfl, ?_⟩, _, rfl, rfl, rfl, ?_, ?_⟩
  · simp only [nextWindowStart, hdiv, hbase]
    split <;> omega
  · simp only [hdiv, hbase]
    split <;> omega
  · dsimp only
    split
    · exact .inr rfl
    · exact .inl rfl

theorem iterate_windowsBegun (positive : Bool) (start length : Nat) {w : Nat} (hw : 0 < w) :
    ∀ k, WindowsBegun start length w k (beginWindow^[k] (newHalf positive start length w))
  | 0 => newHalf_windowsBegun positive start length w
  | k + 1 => by
    rw [Function.iterate_succ_apply']
    exact (beginWindow_windowsBegun hw (iterate_windowsBegun positive start length hw k)).1

/-- Settles O21, by induction on the windows begun. -/
theorem windowsFillTheHalfCycle : Obligations.WindowsFillTheHalfCycle := by
  intro positive start length w k hk hkw
  obtain ⟨j, rfl⟩ : ∃ j, k = j + 1 := ⟨k - 1, by omega⟩
  have hw : 0 < w := by omega
  obtain ⟨hnext, v, hv, hidx, hs, he, hlen⟩ :=
    beginWindow_windowsBegun hw (iterate_windowsBegun positive start length hw j)
  rw [Function.iterate_succ_apply']
  refine ⟨v, hv, hidx, hnext.acc, hs, he, hlen, fun hall => ?_⟩
  rw [he, hall, Nat.mul_div_cancel_left _ hw, Nat.add_assoc, Nat.div_add_mod]

end Sys2Proof.Machine

/-! ## Crossings (R2 to R8): O14 to O17 -/

namespace Sys2Proof.Machine

open Sys2Proof.Claims

/-! ### LOCKING (R3 to R5) -/

theorem crossLocking_first {t w : Nat} {u : Ptu} (h : u.anchor = none) :
    crossLocking t w u = ({ u with anchor := some { time := t, boundary := none } }, false) := by
  simp [crossLocking, h]

theorem crossLocking_early {t w : Nat} {u : Ptu} {an : Anchor} (h : u.anchor = some an) (hm : t - an.time < 15360) :
    crossLocking t w u = (u, false) := by
  simp [crossLocking, h, hm]

theorem crossLocking_late {t w : Nat} {u : Ptu} {an : Anchor} (h : u.anchor = some an) (hm : 24576 < t - an.time) :
    crossLocking t w u = ({ u with lockCount := 0, anchor := some { time := t, boundary := none } }, false) := by
  have h1 : ¬t - an.time < 15360 := by omega
  have h2 : ¬t - an.time ≤ 24576 := by omega
  simp only [crossLocking, h, h1, h2, ↓reduceIte]

/-- An interval of the absolute window that completes no run moves the estimate and the lock count (R4). -/
theorem crossLocking_counted {t w : Nat} {u : Ptu} {an : Anchor} (h : u.anchor = some an) (hlo : 15360 ≤ t - an.time)
    (hhi : t - an.time ≤ 24576) (h8 : (lockUpdate u.p u.lockCount (t - an.time)).2 ≠ 8) :
    crossLocking t w u =
      ({ u with
          p := (lockUpdate u.p u.lockCount (t - an.time)).1
          lockCount := (lockUpdate u.p u.lockCount (t - an.time)).2
          anchor := some { time := t, boundary := none } }, false) := by
  have h1 : ¬t - an.time < 15360 := by omega
  simp only [crossLocking, h, h1, hhi, h8, ↓reduceIte]

/-- The interval that completes the run locks the phase (R5). -/
theorem crossLocking_eighth {t w : Nat} {u : Ptu} {an : Anchor} (h : u.anchor = some an) (hlo : 15360 ≤ t - an.time)
    (hhi : t - an.time ≤ 24576) (h8 : (lockUpdate u.p u.lockCount (t - an.time)).2 = 8) :
    crossLocking t w u =
      (startCycle t none w
        { u with
          timing := .locked, p := (lockUpdate u.p u.lockCount (t - an.time)).1, lockCount := 8, missCount := 0
          correction := none, anchor := some { time := t, boundary := some t } }, true) := by
  have h1 : ¬t - an.time < 15360 := by omega
  simp only [crossLocking, h, h1, hhi, h8, ↓reduceIte]

theorem lockUpdate_first (p m : Nat) : lockUpdate p 0 m = (m, 1) := rfl

theorem lockUpdate_near {p n m : Nat} (hn : 1 ≤ n) (h : ((m : Int) - p).natAbs ≤ p / 64) :
    lockUpdate p n m = (filtered p m, n + 1) := by
  have h0 : n ≠ 0 := by omega
  simp only [lockUpdate, h0, toleranceOf, h, ↓reduceIte]
  rfl

theorem lockUpdate_far {p n m : Nat} (hn : 1 ≤ n) (h : p / 64 < ((m : Int) - p).natAbs) : lockUpdate p n m = (m, 0) := by
  have h0 : n ≠ 0 := by omega
  have h1 : ¬((m : Int) - p).natAbs ≤ p / 64 := by omega
  simp only [lockUpdate, h0, toleranceOf, h1, ↓reduceIte]

/-- A crossing in LOCKING that does not lock the phase changes its timing unit alone. -/
theorem crossing_locking_becomes {ph : Phase} {s : State} {v : Ptu} (ht : (ptuOf s ph).timing = .locking)
    (hv : crossLocking s.now s.profile.w (ptuOf s ph) = (v, false)) :
    becomes (.crossing ph) s { s with ptu := putPhase s.ptu ph v } := by
  refine becomes_of_transmit (r := setPtu s ph v) ?_ rfl
  rw [exec_crossing_locking ht]
  simp only [crossingLocking, hv, Bool.false_eq_true, ↓reduceIte]

/-- Settles O14, by the rows of R4's table. -/
theorem lockingCrossingMeasured : Obligations.LockingCrossingMeasured := by
  intro ph s ht u here after
  refine ⟨fun ha => crossing_locking_becomes ht (crossLocking_first ha), fun an m ha hm => ?_⟩
  obtain rfl : s.now - an.time = m := by omega
  refine ⟨fun h => crossing_locking_becomes ht (crossLocking_early ha h),
    fun h => crossing_locking_becomes ht (crossLocking_late ha h), fun hlo hhi => ⟨fun h0 => ?_, fun h1 h6 hn => ?_,
      fun h1 h7 hf => ?_⟩⟩
  · have hr : lockUpdate u.p u.lockCount (s.now - an.time) = (s.now - an.time, 1) := by rw [h0, lockUpdate_first]
    have h := crossing_locking_becomes ht (crossLocking_counted ha hlo hhi (by rw [hr]; dsimp only; omega))
    rwa [hr] at h
  · have hr := lockUpdate_near h1 hn
    have h := crossing_locking_becomes ht (crossLocking_counted ha hlo hhi (by rw [hr]; dsimp only; omega))
    rwa [hr] at h
  · have hr := lockUpdate_far h1 hf
    have h := crossing_locking_becomes ht (crossLocking_counted ha hlo hhi (by rw [hr]; dsimp only; omega))
    rwa [hr] at h

end Sys2Proof.Machine

namespace Sys2Proof.Machine

open Sys2Proof.Claims

/-! ### The lock (R5): O15 -/

/-- The lane's work at the first boundary: the lane's own, and then its report to the monitor alone (R5, R130). -/
theorem laneFirstBoundary_eq (ph : Phase) (s : State) :
    ∃ r, LaneWork s r ∧ laneFirstBoundary ph s = reportStart ph r := by
  refine ⟨_, LaneWork.trans ?_ (tell_work [ph] _), rfl⟩
  split
  · exact settleLane_work ph s
  · exact .refl s

/-- Settles O15: the crossing starts the first cycle, and all that follows is the lanes' work and the lane's report. -/
theorem eighthIntervalLocksPhase : Obligations.EighthIntervalLocksPhase := by
  intro ph s an m ht ha hm hlo hhi h7 hn p
  obtain rfl : s.now - an.time = m := by omega
  have hr := lockUpdate_near (n := (ptuOf s ph).lockCount) (by omega) hn
  have hlock := crossLocking_eighth (w := s.profile.w) ha hlo hhi (by rw [hr, h7])
  rw [hr] at hlock
  obtain ⟨r, hwork, hfirst⟩ := laneFirstBoundary_eq ph
    (raise .phaseLocked (setPtu s ph (crossLocking s.now s.profile.w (ptuOf s ph)).1))
  have hside := ((raise_work .phaseLocked (setPtu s ph (crossLocking s.now s.profile.w (ptuOf s ph)).1)).trans hwork)
  have hexec : exec (.crossing ph) s = .next (transmit (reportStart ph r)) := by
    rw [exec_crossing_locking ht, ← hfirst]
    simp only [crossingLocking, hlock, ↓reduceIte]
  refine ⟨_, hexec, ?_, fun q hq => ⟨?_, ?_⟩, ?_, ?_, ?_, ?_, ?_, ?_, ?_, ?_, ?_⟩
  · rw [transmit_ptuOf]
    refine (ptuOf_of_setPtu hside.ptu).trans ?_
    rw [hlock]
    rfl
  · rw [transmit_ptuOf]
    show atPhase r.ptu q = _
    rw [hside.ptu]
    exact ptuOf_setPtu_of_ne s _ hq
  · rw [transmit_lcmOf]
    refine (lcmOf_setLcm_of_ne r _ hq).trans (lcmOf_of_lcm hside.lcm q)
  · rw [transmit_flagSet]
    exact flagSet_of_kept (s := raise .phaseLocked (setPtu s ph _)) hwork.flags (flagSet_raise_self ..)
  · obtain ⟨gap, hgap⟩ := reportStart_lcm ph r
    refine ⟨gap, ?_⟩
    rw [transmit_lcmOf, transmit_laneOf, hgap, lcmOf_of_lcm hside.lcm]
    rfl
  · rw [transmit_now]
    exact hside.now
  · rw [transmit_clock]
    exact hside.clock
  · rw [transmit_profile]
    exact hside.profile
  · rw [transmit_units]
    exact hside.units
  · rw [transmit_discovery]
    exact hside.discovery
  · rw [transmit_inFlight]
    exact hside.inFlight
  · exact uplinkFlagged_transmit hside.uli

/-! ### The grid running (R7, R8): O16 -/

/-- A timing unit that is LOCKED before and after leaves every lane as usable as it was. -/
theorem usable_setPtu_locked {s : State} {ph : Phase} {u : Ptu} (hs : (ptuOf s ph).timing = .locked)
    (hu : u.timing = .locked) (q : Phase) : usable (setPtu s ph u) q = usable s q := by
  unfold usable phaseTrusted
  by_cases hq : q = ph
  · subst hq
    rw [ptuOf_setPtu_self, laneOf_setPtu, hs, hu]
  · rw [ptuOf_setPtu_of_ne _ _ hq, laneOf_setPtu, setPtu_profile]

/-- The nearer of two boundaries, where one is nearer (R7). -/
theorem nearestBoundary_eq {cyc : Cycle} {t b : Nat}
    (h : b = cyc.start ∧ ((t : Int) - cyc.start).natAbs < ((t : Int) - (cyc.start + cyc.length : Nat)).natAbs ∨
      b = cyc.start + cyc.length ∧ ((t : Int) - (cyc.start + cyc.length : Nat)).natAbs < ((t : Int) - cyc.start).natAbs) :
    nearestBoundary cyc t = b := by
  unfold nearestBoundary
  split <;> omega

theorem crossingAccepted_iff (u : Ptu) (cyc : Cycle) (t b : Nat) :
    crossingAccepted u cyc t b = true ↔
      ((t : Int) - b).natAbs ≤ u.p / 64 ∧ (∀ an, u.anchor = some an → an.boundary ≠ some b) ∧
        ¬(b = cyc.start ∧ cyc.missTested = true) := by
  have hb : u.anchor.bind Anchor.boundary ≠ some b ↔ ∀ an, u.anchor = some an → an.boundary ≠ some b := by
    cases u.anchor <;> simp
  have hm : (!(decide (b = cyc.start) && cyc.missTested)) = true ↔ ¬(b = cyc.start ∧ cyc.missTested = true) := by
    simp [imp_iff_not_or]
  unfold crossingAccepted
  rw [Bool.and_eq_true, Bool.and_eq_true, decide_eq_true_iff, decide_eq_true_iff, hb, hm, and_assoc]
  rfl

/-- The interval that ends at an accepted crossing measures a whole cycle: it began at the crossing accepted for the
boundary before, and lies in the absolute window (R8 step 3). -/
def wholeCycle (u : Ptu) (cyc : Cycle) (t b : Nat) (an : Anchor) : Prop :=
  u.anchor = some an ∧ (∃ x, boundaryBefore cyc b = some x ∧ an.boundary = some x) ∧
    15360 ≤ t - an.time ∧ t - an.time ≤ 24576

/-- The newest estimate: the one proposed by a pending correction, or else the one in force. -/
def newestEstimate (u : Ptu) : Nat :=
  match u.correction with
  | some k => k.p
  | none => u.p

theorem newestEstimate_eq (u : Ptu) : (u.correction.map Correction.p).getD u.p = newestEstimate u := by
  unfold newestEstimate
  cases u.correction <;> rfl

theorem inWindow_iff (m : Nat) : inWindow m = true ↔ 15360 ≤ m ∧ m ≤ 24576 := by
  simp [inWindow]

theorem proposedEstimate_measured {u : Ptu} {cyc : Cycle} {t b : Nat} {an : Anchor} (h : wholeCycle u cyc t b an) :
    proposedEstimate u cyc t b = filtered (newestEstimate u) (t - an.time) := by
  obtain ⟨ha, ⟨x, hx, hb⟩, hw⟩ := h
  simp only [proposedEstimate, ha, hx, hb, (inWindow_iff _).2 hw, newestEstimate_eq, and_self, ↓reduceIte]
  rfl

theorem proposedEstimate_kept {u : Ptu} {cyc : Cycle} {t b : Nat} (h : ∀ an, ¬wholeCycle u cyc t b an) :
    proposedEstimate u cyc t b = newestEstimate u := by
  unfold proposedEstimate
  rw [newestEstimate_eq]
  dsimp only
  split
  · rename_i an before ha hb
    rw [if_neg fun hc => h an ⟨ha, ⟨before, hb, hc.1⟩, (inWindow_iff _).1 hc.2⟩]
  · rfl

/-- The timing unit after an accepted crossing (R8). -/
def correctedGrid (u : Ptu) (cyc : Cycle) (t b : Nat) : Ptu :=
  { u with
    timing := .locked, correction := some { c := (t : Int) - b, p := proposedEstimate u cyc t b }
    anchor := some { time := t, boundary := some b }, missCount := 0 }

theorem crossRunning_accepted {u : Ptu} {cyc : Cycle} {t : Nat} (hc : u.cycle = some cyc)
    (h : crossingAccepted u cyc t (nearestBoundary cyc t) = true) :
    crossRunning t u = correctedGrid u cyc t (nearestBoundary cyc t) := by
  simp only [crossRunning, hc, h, ↓reduceIte, correctedGrid]

theorem crossRunning_ignored {u : Ptu} {cyc : Cycle} {t : Nat} (hc : u.cycle = some cyc)
    (h : ¬crossingAccepted u cyc t (nearestBoundary cyc t) = true) : crossRunning t u = u := by
  simp only [crossRunning, hc, h, Bool.false_eq_true, ↓reduceIte]

/-- A crossing that the running grid ignores changes nothing. -/
theorem crossingRunning_ignored {ph : Phase} {s : State} (h : crossRunning s.now (ptuOf s ph) = ptuOf s ph) :
    crossingRunning ph s = s := by
  unfold crossingRunning
  dsimp only
  rw [h, setPtu_self, usabilityChanged_nil fun _ => rfl, tell_nil]

/-- Settles O16: the nearest boundary, the three conditions of acceptance, and the estimate by its two cases. -/
theorem runningCrossingCorrectsGrid : Obligations.RunningCrossingCorrectsGrid := by
  intro ph s cyc b hr hc u toStart toEnd hnear accepted newest before measured
  have hb : nearestBoundary cyc s.now = b := nearestBoundary_eq hnear
  have hacc := crossingAccepted_iff u cyc s.now b
  refine ⟨fun hn => ?_, fun ha => ?_⟩
  · have hkeep : crossRunning s.now u = u := crossRunning_ignored hc (by rw [hb, hacc]; exact hn)
    exact becomes_of_transmit (by rw [exec_crossing_running hr, crossingRunning_ignored hkeep]) rfl
  · have hcross : crossRunning s.now u = correctedGrid u cyc s.now b := by
      rw [crossRunning_accepted hc (by rw [hb, hacc]; exact ha), hb]
    have hexec : exec (.crossing ph) s = .next (transmit
        (tell (usabilityChanged s (setPtu s ph (correctedGrid u cyc s.now b)))
          (setPtu s ph (correctedGrid u cyc s.now b)))) := by
      rw [exec_crossing_running hr, ← hcross]
      rfl
    have hwork := tell_work (usabilityChanged s (setPtu s ph (correctedGrid u cyc s.now b)))
      (setPtu s ph (correctedGrid u cyc s.now b))
    have hptu := (transmit_ptu _).trans hwork.ptu
    refine ⟨_, proposedEstimate u cyc s.now b, hexec, fun an hm => proposedEstimate_measured hm,
      fun hm => proposedEstimate_kept hm, hptu, ?_, fun hl => ?_⟩
    · rw [hptu]
      exact hwork.outside
    · rw [usabilityChanged_nil fun q => usable_setPtu_locked hl rfl q, tell_nil]
      refine ⟨?_, transmit_uplinkKept (setPtu s ph _)⟩
      rw [transmit_ptu]
      exact transmit_rest _

/-! ### The end of a loss (R2, R50): O17 -/

/-- Settles O17: LOCKING puts the phase in reach again unless its lane is STOPPED. -/
theorem crossingEndsLoss : Obligations.CrossingEndsLoss := by
  intro ph s ht
  have hreach : outOfReach (setPtu s ph (crossLost s.now (ptuOf s ph))) ph = true ↔ (laneOf s ph).state = .stopped := by
    unfold outOfReach
    rw [ptuOf_setPtu_self, laneOf_setPtu, Bool.or_eq_true, beq_iff_eq, beq_iff_eq]
    exact or_iff_left (by simp [crossLost])
  refine becomes_of_transmit ?_ rfl
  rw [exec_crossing_lost ht]
  congr 2
  unfold crossingLost laneSeen
  by_cases hs : (laneOf s ph).state = .stopped
  · rw [if_pos (hreach.2 hs), if_pos hs]
    rfl
  · rw [if_neg (fun hn => hs (hreach.1 hn)), if_neg hs]
    rfl

end Sys2Proof.Machine

/-! ## Boundaries and windows of the running grid (R6, R12 to R15): O20, O22 -/

namespace Sys2Proof.Machine

open Sys2Proof.Claims

/-! ### The half-cycle boundary -/

theorem boundaryDue_of_ready {s : State} {ph : Phase} {h : HalfCycle} {cyc : Cycle} (hb : boundaryReady s ph h cyc) :
    boundaryDue s.now (ptuOf s ph) = true := by
  obtain ⟨hr, hh, hc, hm, hs, ht⟩ := hb
  simp only [boundaryDue, hh, hc, gridRuns_of_running hr, hm, hs, ht, decide_true, Bool.and_self]

/-- The monitor's work at a boundary changes its monitor and raises flags, and nothing else. -/
theorem measure_work (ph : Phase) (ended : EndedHalf) (s : State) :
    LaneWork (setLcm s ph (measured s.profile ended (lcmOf s ph))) (measure ph ended s) :=
  (raiseIf_work _ _ _).trans (raiseIf_work _ _ _)

/-- The time, the clock and the settings are no matter of a boundary. -/
theorem takeBoundary_kept (ph : Phase) (mf : Bool) (o : ReportOrder) (s : State) :
    (takeBoundary ph mf o s).now = s.now ∧ (takeBoundary ph mf o s).clock = s.clock ∧
      (takeBoundary ph mf o s).profile = s.profile := by
  cases mf with
  | true =>
    have hm := measure_work ph (endedHalf (ptuOf s ph)) (setPtu s ph (nextHalf s.profile.w (ptuOf s ph)))
    have hl := laneBoundary_side ph (endedHalf (ptuOf s ph)) (verdictOn (lcmOf s ph) (endedHalf (ptuOf s ph))) o
      (measure ph (endedHalf (ptuOf s ph)) (setPtu s ph (nextHalf s.profile.w (ptuOf s ph))))
    exact ⟨hl.now.trans hm.now, hl.clock.trans hm.clock, hl.profile.trans hm.profile⟩
  | false =>
    have hl := laneBoundary_side ph (endedHalf (ptuOf s ph)) (verdictOn (lcmOf s ph) (endedHalf (ptuOf s ph))) o
      (setPtu s ph (nextHalf s.profile.w (ptuOf s ph)))
    have hm := measure_work ph (endedHalf (ptuOf s ph)) (laneBoundary ph (endedHalf (ptuOf s ph))
      (verdictOn (lcmOf s ph) (endedHalf (ptuOf s ph))) o (setPtu s ph (nextHalf s.profile.w (ptuOf s ph))))
    exact ⟨hm.now.trans hl.now, hm.clock.trans hl.clock, hm.profile.trans hl.profile⟩

theorem exec_halfCycleBoundary_due {ph : Phase} {mf : Bool} {o : ReportOrder} {s : State}
    (h : boundaryDue s.now (ptuOf s ph) = true) :
    exec (.halfCycleBoundary ph mf o) s = .next (transmit (takeBoundary ph mf o s)) := by
  simp only [exec, execHalfCycleBoundary, h, ↓reduceIte]

/-- After the positive half comes the negative half of the same cycle (R13). -/
theorem nextHalf_negative {w : Nat} {u : Ptu} {h : HalfCycle} {cyc : Cycle} (hh : u.half = some h)
    (hc : u.cycle = some cyc) (hp : h.positive = true) :
    nextHalf w u = { u with half := some (newHalf false (cyc.start + h.length) (cyc.length - h.length) w) } := by
  simp only [nextHalf, hh, hc, hp, ↓reduceIte]

/-- After the negative half a cycle starts (R6). -/
theorem nextHalf_cycle {w : Nat} {u : Ptu} {h : HalfCycle} {cyc : Cycle} (hh : u.half = some h)
    (hc : u.cycle = some cyc) (hp : h.positive = false) :
    nextHalf w u = startCycle (cyc.start + cyc.length) (some cyc.start) w u := by
  simp only [nextHalf, hh, hc, hp, Bool.false_eq_true, ↓reduceIte]

theorem nextCycleLength_eq (u : Ptu) :
    nextCycleLength u = match u.correction with
      | some k => ((u.p : Int) + k.c).toNat
      | none => u.p := by
  unfold nextCycleLength
  cases u.correction <;> rfl

/-- Settles O20: the two half-cycles that can follow, and the frame of all that happens at a boundary. -/
theorem halfCycleBoundaryMovesGrid : Obligations.HalfCycleBoundaryMovesGrid := by
  intro ph mf o s h cyc hready u start length
  have hdue := boundaryDue_of_ready hready
  obtain ⟨-, hh, hc, -⟩ := hready
  obtain ⟨hnow, hclock, hprofile⟩ := takeBoundary_kept ph mf o s
  have hptu := (takeBoundary_grid ph mf o s).ptu
  refine ⟨_, exec_halfCycleBoundary_due hdue, (transmit_now _).trans hnow,
    (transmit_clock _).trans hclock, (transmit_profile _).trans hprofile, fun hp => ?_, fun hp => ?_⟩
  · rw [transmit_ptu, hptu, nextHalf_negative hh hc hp]
    rfl
  · have hlen : nextCycleLength (ptuOf s ph) = length := nextCycleLength_eq _
    rw [transmit_ptu, hptu, nextHalf_cycle hh hc hp]
    simp only [startCycle, newestEstimate_eq, hlen, setPtu_ptu]
    rfl

/-! ### Windows -/

/-- The first `n` half-cycles of a plan send its frame, and no other does (R98, R99). -/
theorem roleAt_send_iff (p : Plan) {pos : Nat} (h0 : pos ≠ 0) : roleAt p pos = .send ↔ pos ≤ p.n := by
  unfold roleAt
  cases p.kind with
  | unicast hops =>
    dsimp only
    have hfirst : p.n + 1 ≤ (hops + 1) * (p.n + 1) := Nat.le_mul_of_pos_left _ (by omega)
    by_cases hle : pos ≤ p.n
    · have hmod : (pos - 1) % (p.n + 1) = pos - 1 := Nat.mod_eq_of_lt (by omega)
      have hdiv : (pos - 1) / (p.n + 1) = 0 := Nat.div_eq_of_lt (by omega)
      rw [if_pos (by omega), hmod, if_neg (by omega), if_pos hdiv]
      exact iff_of_true rfl hle
    · refine iff_of_false ?_ hle
      split
      · split
        · nofun
        · rename_i hgap
          have hdiv : (pos - 1) / (p.n + 1) ≠ 0 := fun hz => by
            have hlt := (Nat.div_eq_zero_iff_lt (Nat.succ_pos p.n)).1 hz
            rw [Nat.mod_eq_of_lt hlt] at hgap
            omega
          rw [if_neg hdiv]
          nofun
      · split
        · nofun
        · split <;> nofun
  | broadcast windows =>
    dsimp only
    by_cases hle : pos ≤ p.n
    · rw [if_pos (by omega)]
      exact iff_of_true rfl hle
    · refine iff_of_false ?_ hle
      rw [if_neg (by omega)]
      split
      · nofun
      · split <;> nofun

/-- The frame bit of a data window, in both modes (R95). -/
theorem bitIndexAt_eq_some_iff {mode : Mode} {d half window j : Nat} :
    bitIndexAt mode d half window = some j ↔
      1 ≤ window ∧ window ≤ d ∧
        (mode = .normal ∧ half * d + (window - 1) = j ∨
          mode = .robust ∧ (window - 1) / 2 < d / 2 ∧ half * (d / 2) + (window - 1) / 2 = j) := by
  unfold bitIndexAt
  by_cases hw : window = 0 ∨ d < window
  · rw [if_pos hw]
    refine iff_of_false nofun fun h => ?_
    omega
  · have h1 : 1 ≤ window := by omega
    have hd : window ≤ d := by omega
    rw [if_neg hw]
    cases mode <;> simp [h1, hd]

/-- The lane's own frame has bit `b` in window `k` of `w` (R95). -/
def carriesBit (l : Lane) (w k : Nat) (b : Bool) : Prop :=
  l.state = .sending ∧ ∃ x, l.exchange = some x ∧ x.position ≤ x.plan.n ∧ 1 ≤ k ∧ k ≤ w - 2 ∧
    (x.mode = .normal ∧ x.frame[(x.position - 1) * (w - 2) + (k - 1)]? = some b ∨
      x.mode = .robust ∧ (k - 1) / 2 < (w - 2) / 2 ∧ x.frame[(x.position - 1) * ((w - 2) / 2) + (k - 1) / 2]? = some b)

theorem drivenBit_eq_some_iff {l : Lane} {w k : Nat} {b : Bool} :
    drivenBit l w k = some b ↔ l.state = .sending ∧ ∃ x, l.exchange = some x ∧ roleAt x.plan x.position = .send ∧
      ∃ j, bitIndexAt x.mode (w - 2) (x.position - 1) k = some j ∧ x.frame[j]? = some b := by
  unfold drivenBit
  by_cases hs : l.state = .sending
  · rw [if_pos hs]
    cases l.exchange with
    | none => simp
    | some x =>
      simp only [hs, true_and, Option.some.injEq, exists_eq_left']
      show (match roleAt x.plan x.position, bitIndexAt x.mode (w - 2) (x.position - 1) k with
        | .send, some j => x.frame[j]?
        | _, _ => none) = some b ↔ _
      cases roleAt x.plan x.position <;> cases bitIndexAt x.mode (w - 2) (x.position - 1) k <;> simp
  · rw [if_neg hs]
    exact iff_of_false nofun fun h => hs h.1

/-- A lane drives just the bits of its own frame: a SENDING lane stands within its plan (R67). -/
theorem drivenBit_iff_carriesBit {l : Lane} (hl : laneOk l) {w k : Nat} {b : Bool} :
    drivenBit l w k = some b ↔ carriesBit l w k b := by
  obtain ⟨-, -, hpos, -⟩ := hl
  rw [drivenBit_eq_some_iff]
  refine and_congr_right fun hs => exists_congr fun x => and_congr_right fun hx => ?_
  have h0 : x.position ≠ 0 := fun h => by
    have harmed := (hpos x hx).2 h
    rw [hs] at harmed
    cases harmed
  rw [roleAt_send_iff _ h0]
  refine and_congr_right fun _ => ⟨?_, ?_⟩
  · rintro ⟨j, hj, hb⟩
    obtain ⟨h1, hd, ⟨hm, rfl⟩ | ⟨hm, hlt, rfl⟩⟩ := bitIndexAt_eq_some_iff.1 hj
    · exact ⟨h1, hd, .inl ⟨hm, hb⟩⟩
    · exact ⟨h1, hd, .inr ⟨hm, hlt, hb⟩⟩
  · rintro ⟨h1, hd, ⟨hm, hb⟩ | ⟨hm, hlt, hb⟩⟩
    · exact ⟨_, bitIndexAt_eq_some_iff.2 ⟨h1, hd, .inl ⟨hm, rfl⟩⟩, hb⟩
    · exact ⟨_, bitIndexAt_eq_some_iff.2 ⟨h1, hd, .inr ⟨hm, hlt, rfl⟩⟩, hb⟩

theorem driveWindow_bit {ph : Phase} {w k : Nat} {s : State} {b : Bool} (h : drivenBit (laneOf s ph) w k = some b) :
    driveWindow ph w k s = setLane s ph { laneOf s ph with
      txd := b, txen := true, drv := ((laneOf s ph).exchange.map Exchange.boost).getD false } := by
  simp only [driveWindow, h]

theorem driveWindow_none {ph : Phase} {w k : Nat} {s : State} (h : drivenBit (laneOf s ph) w k = none) :
    driveWindow ph w k s = setLane { s with draws := s.draws + 1 } ph { laneOf s ph with
      txd := Config.undrivenTxd s.draws, txen := false, drv := false } := by
  simp only [driveWindow, h]

theorem windowDue_of {now : Nat} {u : Ptu} {h : HalfCycle} (hr : running u) (hh : u.half = some h)
    (hk : h.samples.length = nextWindowIndex h) (hw : h.samples.length < h.w) (ht : nextWindowStart h ≤ now) :
    windowDue now u = true := by
  simp only [windowDue, hh, gridRuns_of_running hr, ← hk, hw, ht, decide_true, Bool.and_self]

theorem sampleDue_of {now : Nat} {u : Ptu} {h : HalfCycle} {v : Window} (hr : running u) (hh : u.half = some h)
    (hv : h.window = some v) (hk : h.samples.length = v.index) (ht : v.start + v.length / 2 ≤ now) :
    sampleDue now u = true := by
  simp only [sampleDue, hh, hv, gridRuns_of_running hr, hk, ht, decide_true, Bool.and_self]

/-- Settles O22: the window by the accumulator, the pins by the frame's bit, and the sample at the midpoint. -/
theorem windowsDriveAndSampleTheLine : Obligations.WindowsDriveAndSampleTheLine := by
  refine ⟨?_, ?_⟩
  · intro ph s h start hl hr hh k l d acc hplace hk ht carries begun
    obtain ⟨hidx, hstart⟩ : nextWindowIndex h = k ∧ nextWindowStart h = start := by
      rcases hplace with ⟨hn, h0, hs⟩ | ⟨v, hv, hi, hs⟩
      · exact ⟨by simp only [nextWindowIndex, hn, h0], by simp only [nextWindowStart, hn, hs]⟩
      · exact ⟨by simp only [nextWindowIndex, hv, hi], by simp only [nextWindowStart, hv, hs]⟩
    have hbegun : beginWindow h = begun := by
      simp only [beginWindow, hidx, hstart, decide_eq_true_eq]
      rfl
    have hexec := exec_windowBoundary_due (windowDue_of hr hh hidx.symm hk (hstart ▸ ht)) hh
    rw [hidx, hbegun] at hexec
    have hbit : ∀ b, drivenBit l h.w k = some b ↔ carries b := fun b => drivenBit_iff_carriesBit (hl ph).1
    cases hd : drivenBit l h.w k with
    | some b =>
      rw [driveWindow_bit (s := setPtu s ph _) hd] at hexec
      refine ⟨_, _, _, s.draws, becomes_of_transmit hexec rfl, fun c hc => ?_, fun hn => absurd ((hbit b).1 hd) (hn b)⟩
      have hbc : b = c := Option.some.inj (hd.symm.trans ((hbit c).2 hc))
      obtain ⟨-, x, hx, -⟩ := hc
      refine ⟨hbc, rfl, x, hx, ?_⟩
      show (l.exchange.map Exchange.boost).getD false = x.boost
      rw [hx]
      rfl
    | none =>
      rw [driveWindow_none (s := setPtu s ph _) hd] at hexec
      refine ⟨_, _, _, _, becomes_of_transmit hexec rfl, fun c hc => ?_, fun _ => ⟨rfl, rfl⟩⟩
      exact nomatch hd.symm.trans ((hbit c).2 hc)
  · intro ph rxd cd lq s h v hr hh hv hk ht sampled
    refine becomes_of_transmit ?_ rfl
    rw [exec_windowSample_due (sampleDue_of hr hh hv hk ht), hh]
    rfl

end Sys2Proof.Machine

/-! ## What choosing again can do beside the lanes' own work (R55, R69, R80)

`LaneWork` says what `tell` leaves alone. `ChoiceWork` adds what it can do to the rest: it raises no flag but RECORD_DONE,
adds reports behind those in transit, ends no record but a READY one that is COMPLETE, and gives a lane that is free
nothing but a pending winner. -/

namespace Sys2Proof.Machine

open Sys2Proof.Claims

/-! ### Records -/

/-- What choosing again can do to a record: nothing to one that is neither READY nor ACTIVE, and a READY one that it ends is
COMPLETE. -/
structure RecordSettles (r r' : Record) : Prop where
  continues : recordContinues r r'
  rests : r.state ≠ .ready → r.state ≠ .active → r' = r
  ready : r.state = .ready → r'.state = .ready ∨ r'.state = .done .complete

theorem RecordSettles.refl (r : Record) : RecordSettles r r := ⟨recordContinues_refl r, fun _ _ => rfl, .inl⟩

theorem RecordSettles.trans {a b c : Record} (h : RecordSettles a b) (k : RecordSettles b c) : RecordSettles a c := by
  refine ⟨recordContinues_trans h.continues k.continues, fun hr ha => ?_, fun hr => ?_⟩
  · obtain rfl := h.rests hr ha
    exact k.rests hr ha
  · rcases h.ready hr with hb | hb
    · exact k.ready hb
    · rw [k.rests (by simp [hb]) (by simp [hb])]
      exact .inr hb

/-- A READY or ACTIVE record that keeps its state. -/
theorem settles_of_state {r r' : Record} (hw : RecordWorks r r') (hr : r.state = .ready ∨ r.state = .active)
    (hs : r'.state = r.state) : RecordSettles r r' :=
  ⟨hw.continues, fun h1 h2 => absurd hr (not_or.2 ⟨h1, h2⟩), fun h => .inl (hs.trans h)⟩

theorem completeIfFinished_settles (s : State) (r : Record) : RecordSettles r (completeIfFinished s r) := by
  have hw := (completeIfFinished_works s r).continues
  unfold completeIfFinished at hw ⊢
  split at hw
  · rename_i h
    rw [if_pos h]
    exact ⟨hw, fun hn => absurd h.1 hn, fun _ => .inr rfl⟩
  · rename_i h
    rw [if_neg h]
    exact .refl r

theorem endBroadcast_settles {s : State} {r : Record} (hr : r.state = .ready ∨ r.state = .active) :
    RecordSettles r (endBroadcast s r) := by
  have hw := endBroadcast_works s r
  unfold endBroadcast at hw ⊢
  refine ⟨hw.continues, fun h1 h2 => absurd hr (not_or.2 ⟨h1, h2⟩), fun h => ?_⟩
  exact (completeIfFinished_settles s _).ready h

theorem settleRounds_settles (s : State) : ∀ (fuel : Nat) (r : Record), RecordSettles r (settleRounds s fuel r)
  | 0, r => .refl r
  | fuel + 1, r => by
    unfold settleRounds
    split
    · rename_i hr
      have laid : ∀ (st : Stage) (ps : List Part) (n : Nat),
          RecordSettles r { r with stage := st, parts := ps, roundsSent := n } := fun st ps n =>
        settles_of_state (works_of_stage r st ps n r.collided r.lanesSeen) hr rfl
      dsimp only
      split
      · split
        · split
          · exact (laid _ _ _).trans (settleRounds_settles s fuel _)
          · exact (laid r.stage [] _).trans (completeIfFinished_settles s _)
        · split
          · exact (laid _ _ _).trans (settleRounds_settles s fuel _)
          · exact (laid r.stage _ _).trans (endBroadcast_settles hr)
      · exact laid r.stage _ r.roundsSent
    · exact .refl r

theorem evaluateRecord_settles (s : State) (r : Record) : RecordSettles r (evaluateRecord s r) := by
  have hw := evaluateRecord_works s r
  unfold evaluateRecord at hw ⊢
  split at hw
  · rename_i h
    rw [if_pos h]
    have hr : r.state = .ready ∨ r.state = .active := by
      simp only [evaluationEnds, Bool.and_eq_true, Bool.or_eq_true, beq_iff_eq] at h
      exact h.1.1
    refine ⟨hw.continues, fun h1 h2 => absurd hr (not_or.2 ⟨h1, h2⟩), fun h => ?_⟩
    exact (completeIfFinished_settles s _).ready h
  · rename_i h
    rw [if_neg h]
    exact .refl r

theorem beginStage_settles {s : State} {r : Record} (hr : r.state = .ready) : RecordSettles r (beginStage s r) := by
  have laid : ∀ (st : Stage) (ps : List Part), RecordSettles r { r with stage := st, parts := ps } := fun st ps =>
    settles_of_state (works_of_stage r st ps r.roundsSent r.collided r.lanesSeen) (.inl hr) rfl
  unfold beginStage
  split
  · exact completeIfFinished_settles s r
  · split
    · exact (laid r.stage _).trans (settleRounds_settles s _ _)
    · exact (laid .followUp []).trans (completeIfFinished_settles s _)

/-! ### The relation -/

/-- A lane that holds no exchange and no reservation, and is in a state that goes with that. -/
def freeLane (l : Lane) : Prop := l.exchange = none ∧ isOccupied l.state = false ∧ l.state ≠ .reserved

/-- What choosing again, preemption and the settling of rounds can do beside what they leave alone. -/
structure ChoiceWork (s t : State) : Prop where
  flags : ∀ f, f ≠ .recordDone → flagSet t f = flagSet s f
  ends : ∃ more, t.endReports = s.endReports ++ more
  learned : ∃ more, t.learningReports = s.learningReports ++ more
  records : List.Forall₂ RecordSettles s.records t.records
  free : ∀ ph, freeLane (laneOf s ph) → ∃ w, laneOf t ph = { laneOf s ph with winner := w }

theorem forall₂_settles_refl (rs : List Record) : List.Forall₂ RecordSettles rs rs :=
  List.forall₂_same.2 fun r _ => RecordSettles.refl r

theorem forall₂_settles_trans : ∀ {a b c : List Record}, List.Forall₂ RecordSettles a b →
    List.Forall₂ RecordSettles b c → List.Forall₂ RecordSettles a c
  | _, _, _, .nil, .nil => .nil
  | _, _, _, .cons h hs, .cons k ks => .cons (h.trans k) (forall₂_settles_trans hs ks)

theorem ChoiceWork.trans {a b c : State} (h : ChoiceWork a b) (k : ChoiceWork b c) : ChoiceWork a c where
  flags f hf := (k.flags f hf).trans (h.flags f hf)
  ends := by
    obtain ⟨xs, hx⟩ := h.ends
    obtain ⟨ys, hy⟩ := k.ends
    exact ⟨xs ++ ys, by rw [hy, hx, List.append_assoc]⟩
  learned := by
    obtain ⟨xs, hx⟩ := h.learned
    obtain ⟨ys, hy⟩ := k.learned
    exact ⟨xs ++ ys, by rw [hy, hx, List.append_assoc]⟩
  records := forall₂_settles_trans h.records k.records
  free ph hl := by
    obtain ⟨v, hv⟩ := h.free ph hl
    obtain ⟨w, hw⟩ := k.free ph (by rw [hv]; exact hl)
    exact ⟨w, by rw [hw, hv]⟩

theorem ChoiceWork.foldl {α : Type} (f : State → α → State) (h : ∀ s a, ChoiceWork s (f s a)) :
    ∀ (as : List α) (s : State), ChoiceWork s (as.foldl f s)
  | [], s => ⟨fun _ _ => rfl, ⟨[], by simp⟩, ⟨[], by simp⟩, forall₂_settles_refl _, fun _ _ => ⟨_, rfl⟩⟩
  | a :: as, s => (h s a).trans (ChoiceWork.foldl f h as (f s a))

/-- A change of the lanes alone that gives a free lane nothing but a pending winner. -/
theorem choice_of_lanes (s : State) (ls : PerPhase Lane)
    (h : ∀ ph, freeLane (laneOf s ph) → ∃ w, atPhase ls ph = { laneOf s ph with winner := w }) :
    ChoiceWork s { s with lanes := ls } :=
  ⟨fun _ _ => rfl, ⟨[], (List.append_nil _).symm⟩, ⟨[], (List.append_nil _).symm⟩, forall₂_settles_refl _, h⟩

theorem ChoiceWork.refl (s : State) : ChoiceWork s s := choice_of_lanes s s.lanes fun _ _ => ⟨_, rfl⟩

theorem choice_setLane (s : State) (ph : Phase) (l : Lane)
    (h : freeLane (laneOf s ph) → ∃ w, l = { laneOf s ph with winner := w }) : ChoiceWork s (setLane s ph l) := by
  refine choice_of_lanes s _ fun q hq => ?_
  by_cases hp : q = ph
  · subst hp
    rw [atPhase_putPhase_self]
    exact h hq
  · rw [atPhase_putPhase_of_ne _ _ hp]
    exact ⟨_, rfl⟩

theorem not_free_of_occupied {l : Lane} (h : isOccupied l.state = true) : ¬freeLane l := fun hf =>
  absurd (h.symm.trans hf.2.1) (by decide)

theorem not_free_of_exchange {l : Lane} {x : Exchange} (h : l.exchange = some x) : ¬freeLane l := fun hf =>
  nomatch h.symm.trans hf.1

/-! ### The operations -/

theorem commitRecords_choice (g : Record → Record) (hg : ∀ r, RecordSettles r (g r)) (s : State) :
    ChoiceWork s (commitRecords (s.records.map g) s) := by
  have hflags : ∀ f, f ≠ Flag.recordDone → flagSet (commitRecords (s.records.map g) s) f = flagSet s f := fun f hf =>
    flagSet_raiseIf_of_ne _ _ hf.symm
  rw [commitRecords_frame] at hflags ⊢
  refine ⟨hflags, ⟨[], (List.append_nil _).symm⟩, ⟨[], (List.append_nil _).symm⟩, ?_, fun _ _ => ⟨_, rfl⟩⟩
  exact List.forall₂_map_right_iff.2 (List.forall₂_same.2 fun r _ => hg r)

theorem settleAllRounds_choice (s : State) : ChoiceWork s (settleAllRounds s) :=
  commitRecords_choice _ (settleRounds_settles s roundFuel) s

theorem evaluateAll_choice (s : State) : ChoiceWork s (evaluateAll s) :=
  commitRecords_choice _ (evaluateRecord_settles s) s

/-- An exchange that leaves its lane adds its reports, if it was the last part. -/
theorem endPart_choice (ph : Phase) (c : Option AbortCause) (time : Nat) (s : State) :
    ChoiceWork s (endPart ph c time s) := by
  unfold endPart
  split
  · exact .refl s
  · rename_i x hx
    dsimp only
    have h := choice_setLane s ph { laneOf s ph with exchange := none, txen := false, drv := false } fun hf =>
      absurd hf (not_free_of_exchange hx)
    split
    · exact ⟨h.flags, h.ends, h.learned, h.records, h.free⟩
    · exact ⟨h.flags, ⟨_, rfl⟩, ⟨_, rfl⟩, h.records, h.free⟩

theorem landLane_choice {ph : Phase} {s : State} (h : isOccupied (laneOf s ph).state = true) :
    ChoiceWork s (landLane ph s) := by
  have hset : ∀ l, ChoiceWork s (setLane s ph l) := fun l =>
    choice_setLane s ph l fun hf => absurd hf (not_free_of_occupied h)
  unfold landLane
  dsimp only
  split
  · exact (hset _).trans (settleAllRounds_choice _)
  · split <;> exact hset _

/-- The lane that an exchange has left: TXEN and DRV have dropped (R74). -/
def freedLane (l : Lane) : Lane := { l with exchange := none, txen := false, drv := false }

theorem endPart_lane {ph : Phase} {x : Exchange} (c : Option AbortCause) (time : Nat) {s : State}
    (hx : (laneOf s ph).exchange = some x) : laneOf (endPart ph c time s) ph = freedLane (laneOf s ph) := by
  unfold endPart
  simp only [hx]
  split <;> exact atPhase_putPhase_self ..

theorem endPart_state (ph : Phase) (c : Option AbortCause) (time : Nat) (s : State) :
    (laneOf (endPart ph c time s) ph).state = (laneOf s ph).state := by
  cases hx : (laneOf s ph).exchange with
  | none => simp only [endPart, hx]
  | some x => rw [endPart_lane c time hx, freedLane]

/-- A change of the exchange changes nothing of a free lane. -/
theorem free_map_exchange {l : Lane} (f : Exchange → Exchange) (h : freeLane l) :
    { l with exchange := l.exchange.map f } = l := by
  rw [h.1]
  exact congrArg (fun x => { l with exchange := x }) h.1.symm

theorem markAbort_choice (ph : Phase) (c : AbortCause) (s : State) : ChoiceWork s (markAbort ph c s) :=
  choice_setLane s ph _ fun hf => ⟨_, free_map_exchange _ hf⟩

theorem abortPart_choice (c : AbortCause) (ph : Phase) (s : State) : ChoiceWork s (abortPart c ph s) := by
  unfold abortPart
  split
  · rename_i ha
    refine (endPart_choice ph _ _ s).trans (landLane_choice ?_)
    rw [endPart_state, ha]
    rfl
  · exact markAbort_choice ph c s

theorem noteWholeAbort_choice (n : Nat) (c : AbortCause) (s : State) : ChoiceWork s (noteWholeAbort n c s) :=
  choice_of_lanes s _ fun ph hf => ⟨_, (atPhase_perPhase _ ph).trans (free_map_exchange _ hf)⟩

theorem abortExchange_choice (c : AbortCause) (x : Exchange) (ph : Phase) (s : State) :
    ChoiceWork s (abortExchange c x ph s) := by
  unfold abortExchange
  split
  · exact (noteWholeAbort_choice _ c s).trans (ChoiceWork.foldl _ (fun s p => abortPart_choice c p s) _ _)
  · exact abortPart_choice c ph s

theorem choosePending_choice (s : State) (ph : Phase) : ChoiceWork s (choosePending s ph) := by
  unfold choosePending
  dsimp only
  split
  · rename_i hr _
    have hf : ¬freeLane (laneOf s ph) := fun hf => hf.2.2 hr
    split
    · exact choice_setLane s ph _ fun h => absurd h hf
    · exact choice_setLane s ph _ fun h => absurd h hf
  · exact choice_setLane s ph _ fun _ => ⟨_, rfl⟩

theorem preemptionTest_choice (s : State) (ph : Phase) : ChoiceWork s (preemptionTest s ph) := by
  unfold preemptionTest
  split
  · exact .refl s
  · split
    · exact abortExchange_choice _ _ _ s
    · exact .refl s

/-- Choosing again (R69), the preemption tests that go with it (R80) and the evaluation (R55). -/
theorem tell_choice (asked : List Phase) (s : State) : ChoiceWork s (tell asked s) := by
  unfold tell
  split
  · exact .refl s
  · exact (((evaluateAll_choice s).trans (ChoiceWork.foldl _ choosePending_choice _ _)).trans
      (ChoiceWork.foldl _ preemptionTest_choice _ _)).trans (ChoiceWork.foldl _ choosePending_choice _ _)

end Sys2Proof.Machine

/-! ## Missed crossings (R10, R11): O18, O19 -/

namespace Sys2Proof.Machine

open Sys2Proof.Claims

/-! ### The miss test -/

theorem missTestDue_of {now : Nat} {u : Ptu} {cyc : Cycle} (hr : running u) (hc : u.cycle = some cyc)
    (hm : cyc.missTested = false) (ht : cyc.start + u.p / 64 ≤ now) : missTestDue now u = true := by
  simp only [missTestDue, hc, gridRuns_of_running hr, hm, toleranceOf, ht, decide_true, Bool.not_false, Bool.and_self]

theorem exec_missTest_due {ph : Phase} {s : State} (h : missTestDue s.now (ptuOf s ph) = true) :
    exec (.missTest ph) s = .next (transmit (takeMiss ph s)) := by
  simp only [exec, execMissTest, h, ↓reduceIte]

/-- The boundary that starts the cycle in progress has had its crossing (R10). -/
theorem boundaryServed_iff {u : Ptu} {cyc : Cycle} (hc : u.cycle = some cyc) :
    boundaryServed u = true ↔ ∃ an, u.anchor = some an ∧ an.boundary = some cyc.start := by
  simp only [boundaryServed, hc, beq_iff_eq]
  cases u.anchor <;> simp

/-- The grid once its boundary has been tested and found without a crossing (R10). -/
def missedGrid (u : Ptu) (cyc : Cycle) : Ptu :=
  { u with cycle := some { cyc with missTested := true }, timing := .coasting, missCount := u.missCount + 1 }

theorem takeMissTest_eq_missedGrid {u : Ptu} {cyc : Cycle} (hc : u.cycle = some cyc) (h : boundaryServed u = false) :
    takeMissTest u = missedGrid u cyc := by
  rw [takeMissTest_missed h, hc]
  rfl

/-- A miss taken, before what follows it: GRID_COAST is raised from LOCKED alone (R10). -/
def missNoted (ph : Phase) (cyc : Cycle) (s : State) : State :=
  raiseIf ((ptuOf s ph).timing == .locked) .gridCoast (setPtu s ph (missedGrid (ptuOf s ph) cyc))

theorem missNoted_work (ph : Phase) (cyc : Cycle) (s : State) :
    LaneWork (setPtu s ph (missedGrid (ptuOf s ph) cyc)) (missNoted ph cyc s) := raiseIf_work _ _ _

theorem takeMiss_served {ph : Phase} {s : State} {cyc : Cycle} (hc : (ptuOf s ph).cycle = some cyc)
    (h : boundaryServed (ptuOf s ph) = true) :
    takeMiss ph s = setPtu s ph { ptuOf s ph with cycle := some { cyc with missTested := true } } := by
  simp only [takeMiss, h, ↓reduceIte, takeMissTest_served h, hc, Option.map_some]

theorem takeMiss_below {ph : Phase} {s : State} {cyc : Cycle} (hc : (ptuOf s ph).cycle = some cyc)
    (h : boundaryServed (ptuOf s ph) = false) (hlt : (ptuOf s ph).missCount + 1 < 50) :
    takeMiss ph s = tell (usabilityChanged s (missNoted ph cyc s)) (missNoted ph cyc s) := by
  have h50 : ¬50 ≤ (missedGrid (ptuOf s ph) cyc).missCount := Nat.not_le.2 hlt
  simp only [takeMiss, h, Bool.false_eq_true, ↓reduceIte, takeMissTest_eq_missedGrid hc h, h50]
  rfl

theorem takeMiss_fiftieth {ph : Phase} {s : State} {cyc : Cycle} (hc : (ptuOf s ph).cycle = some cyc)
    (h : boundaryServed (ptuOf s ph) = false) (hlt : 50 ≤ (ptuOf s ph).missCount + 1) :
    takeMiss ph s = phaseLost ph (cyc.start + (ptuOf s ph).p / 64) (missNoted ph cyc s) := by
  have h50 : 50 ≤ (missedGrid (ptuOf s ph) cyc).missCount := hlt
  simp only [takeMiss, h, Bool.false_eq_true, ↓reduceIte, takeMissTest_eq_missedGrid hc h, h50, missTestTime, hc]
  rfl

/-- Settles O18: the two cases of the test, and GRID_COAST by the state before it. -/
theorem missTestCountsMisses : Obligations.MissTestCountsMisses := by
  intro ph s cyc hr hc hm ht u tested served
  have hexec := exec_missTest_due (missTestDue_of hr hc hm ht)
  have hserved : boundaryServed u = true ↔ served := boundaryServed_iff hc
  refine ⟨fun h => ?_, fun hn hlt => ?_⟩
  · rw [takeMiss_served hc (hserved.2 h)] at hexec
    exact becomes_of_transmit hexec rfl
  · rw [takeMiss_below hc (Bool.eq_false_iff.2 fun h => hn (hserved.1 h)) hlt] at hexec
    have hwork := (missNoted_work ph cyc s).trans (tell_work (usabilityChanged s (missNoted ph cyc s)) _)
    have hptu := (transmit_ptu _).trans hwork.ptu
    refine ⟨_, hexec, hptu, fun hl => ?_, fun hco => ?_, ?_, uplinkFlagged_transmit hwork.uli⟩
    · rw [transmit_flagSet]
      refine flagSet_of_kept (tell_work _ _).flags ?_
      have hlock : ((ptuOf s ph).timing == .locked) = true := beq_iff_eq.2 hl
      rw [missNoted, raiseIf, if_pos hlock]
      exact flagSet_raise_self ..
    · rw [transmit_flagSet, (tell_choice _ _).flags _ (by decide)]
      have hlock : ¬((ptuOf s ph).timing == .locked) = true := by
        rw [show (ptuOf s ph).timing = .coasting from hco]
        decide
      rw [missNoted, raiseIf, if_neg hlock]
      rfl
    · rw [hptu]
      exact hwork.outside

/-! ### The loss of a phase -/

/-- Where a freed lane goes (R74, R86). -/
def landedLane (l : Lane) : Lane :=
  if l.stopDue then stoppedLane l else if l.pauseDue then pausedLane l else { l with state := .idle }

/-- The lane of a phase that is lost (R86, R110). -/
def lostLane (l : Lane) : Lane :=
  if isOccupied l.state then { landedLane (freedLane l) with deferral := 0 }
  else if l.state = .settling then { l with settling := 0, deferral := 0 }
  else if l.state = .reserved then { l with state := .idle, reserved := none, deferral := 0 }
  else { l with deferral := 0 }

theorem settleAllRounds_frame (s : State) :
    ∃ rs e u, settleAllRounds s = { s with records := rs, events := e, uli := u } :=
  ⟨_, _, _, commitRecords_frame _ s⟩

/-- A lane that lands changes itself, and the records whose parts it can no longer carry. -/
theorem landLane_frame (ph : Phase) (s : State) :
    ∃ rs e u, landLane ph s =
      { s with lanes := putPhase s.lanes ph (landedLane (laneOf s ph)), records := rs, events := e, uli := u } := by
  unfold landLane landedLane
  dsimp only
  split
  · obtain ⟨rs, e, u, h⟩ := settleAllRounds_frame (setLane s ph (stoppedLane (laneOf s ph)))
    exact ⟨rs, e, u, h⟩
  · split <;> exact ⟨s.records, s.events, s.uli, rfl⟩

theorem landLane_lane (ph : Phase) (s : State) : laneOf (landLane ph s) ph = landedLane (laneOf s ph) := by
  obtain ⟨rs, e, u, h⟩ := landLane_frame ph s
  rw [h]
  exact atPhase_putPhase_self ..

theorem noOtherPart_iff {s : State} {ph : Phase} {x : Exchange} :
    noOtherPart s ph x ↔ otherPartRuns s ph x = false := by
  unfold noOtherPart otherPartRuns
  rw [List.any_eq_false]
  refine ⟨fun h q _ => ?_, fun h q y hq hy => ?_⟩
  · rw [Bool.and_eq_true, bne_iff_ne, not_and]
    intro hq
    cases hy : (laneOf s q).exchange with
    | none => exact Bool.false_ne_true
    | some y => simpa using h q y hq hy
  · have hn := h q (mem_allPhases q)
    simpa [hq, hy] using hn

/-- The last part of an exchange leaves its lane with both reports (R111, R113, R114). -/
theorem endPart_last {ph : Phase} {x : Exchange} (c : Option AbortCause) (time : Nat) {s : State}
    (hx : (laneOf s ph).exchange = some x) (hn : noOtherPart s ph x) :
    let part : EndedPart := { lane := ph, exchange := x, cause := c }
    let rep := endReportOf part (endedWith s part) time
    (endPart ph c time s).endReports = s.endReports ++ [rep] ∧
      (endPart ph c time s).learningReports = s.learningReports ++ [learningReportOf part (endedWith s part) rep] := by
  have hother := noOtherPart_iff.1 hn
  simp only [endPart, hx, hother, Bool.false_eq_true, ↓reduceIte]
  exact ⟨rfl, rfl⟩

theorem laneLoss_lane {ph : Phase} (time : Nat) {s : State} (hl : laneOk (laneOf s ph)) :
    laneOf (laneLoss ph time s) ph = lostLane (laneOf s ph) := by
  obtain ⟨hocc, -⟩ := hl
  unfold laneLoss
  dsimp only
  obtain ⟨rs, e, u, h⟩ := settleAllRounds_frame (setLane _ ph _)
  rw [h]
  refine (atPhase_putPhase_self ..).trans ?_
  unfold lostLane
  split
  · rename_i ho
    obtain ⟨x, hx⟩ := Option.ne_none_iff_exists'.1 (hocc.1 ho)
    rw [landLane_lane, endPart_lane _ _ hx]
  · split
    · rw [laneOf_setLane_self]
    · unfold releaseReserved
      dsimp only
      split
      · rw [laneOf_setLane_self]
      · rfl

theorem laneLoss_reports {ph : Phase} (time : Nat) {s : State} (h : isOccupied (laneOf s ph).state = true) :
    (laneLoss ph time s).endReports = (endPart ph (some .lost) time s).endReports ∧
      (laneLoss ph time s).learningReports = (endPart ph (some .lost) time s).learningReports := by
  unfold laneLoss
  simp only [h, ↓reduceIte]
  obtain ⟨rs, e, u, hs⟩ := settleAllRounds_frame (setLane (landLane ph (endPart ph (some .lost) time s)) ph
    { laneOf (landLane ph (endPart ph (some .lost) time s)) ph with deferral := 0 })
  obtain ⟨rs', e', u', hland⟩ := landLane_frame ph (endPart ph (some .lost) time s)
  rw [hs, hland]
  exact ⟨rfl, rfl⟩

/-! ### The lost lane, field by field -/

theorem landedLane_kept (l : Lane) :
    (landedLane l).exchange = l.exchange ∧ (landedLane l).txen = l.txen ∧ (landedLane l).drv = l.drv := by
  unfold landedLane
  split
  · exact ⟨rfl, rfl, rfl⟩
  · split <;> exact ⟨rfl, rfl, rfl⟩

theorem landedLane_state (l : Lane) :
    (landedLane l).state = (if l.stopDue then .stopped else if l.pauseDue then .paused else .idle) ∧
      (landedLane l).stopDue = false ∧ (landedLane l).pauseDue = false := by
  unfold landedLane
  split
  · exact ⟨rfl, rfl, rfl⟩
  · rename_i hs
    split
    · exact ⟨rfl, Bool.eq_false_iff.2 hs, rfl⟩
    · rename_i hp
      exact ⟨rfl, Bool.eq_false_iff.2 hs, Bool.eq_false_iff.2 hp⟩

theorem landedLane_reserved {l : Lane} (h : l.reserved = none) : (landedLane l).reserved = none := by
  unfold landedLane
  split
  · rfl
  · split
    · rfl
    · exact h

theorem lostLane_occupied {l : Lane} (h : isOccupied l.state = true) :
    lostLane l = { landedLane (freedLane l) with deferral := 0 } := by
  unfold lostLane
  rw [if_pos h]

theorem lostLane_reserved {l : Lane} (h : l.state = .reserved) :
    lostLane l = { l with state := .idle, reserved := none, deferral := 0 } := by
  simp [lostLane, h, isOccupied]

theorem lostLane_settling {l : Lane} (h : l.state = .settling) : lostLane l = { l with settling := 0, deferral := 0 } := by
  simp [lostLane, h, isOccupied]

theorem lostLane_resting {l : Lane} (h : l.state = .idle ∨ l.state = .paused ∨ l.state = .stopped) :
    lostLane l = { l with deferral := 0 } := by
  rcases h with h | h | h <;> simp [lostLane, h, isOccupied]

/-- A lane is occupied, RESERVED, SETTLING, or rests in one of the three other states. -/
theorem laneState_cases (st : LaneState) :
    isOccupied st = true ∨ st = .reserved ∨ st = .settling ∨ st = .idle ∨ st = .paused ∨ st = .stopped := by
  cases st <;> simp [isOccupied]

theorem lostLane_deferral (l : Lane) : (lostLane l).deferral = 0 := by
  unfold lostLane
  split
  · rfl
  · split
    · rfl
    · split <;> rfl

/-- A lane that is not occupied holds no exchange (R67). -/
theorem laneOk.exchange_none {l : Lane} (hl : laneOk l) (h : isOccupied l.state = false) : l.exchange = none := by
  by_contra hx
  exact absurd ((hl.1.2 hx).symm.trans h) (by decide)

/-- A lane that is not RESERVED holds no reservation (R66). -/
theorem laneOk.reserved_none {l : Lane} (hl : laneOk l) (h : l.state ≠ .reserved) : l.reserved = none := by
  by_contra hx
  exact h (hl.2.1.2 hx)

theorem lostLane_empty {l : Lane} (hl : laneOk l) : freeLane (lostLane l) ∧ (lostLane l).reserved = none := by
  unfold freeLane
  rcases laneState_cases l.state with h | h | h | h
  · have hr : l.state ≠ .reserved := fun hs => by
      rw [hs] at h
      cases h
    rw [lostLane_occupied h]
    refine ⟨⟨(landedLane_kept _).1, ?_, ?_⟩, landedLane_reserved (hl.reserved_none hr)⟩
    · rw [(landedLane_state _).1]
      split
      · rfl
      · split <;> rfl
    · rw [(landedLane_state _).1]
      split
      · nofun
      · split <;> nofun
  · rw [lostLane_reserved h]
    exact ⟨⟨hl.exchange_none (by rw [h]; rfl), rfl, nofun⟩, rfl⟩
  · rw [lostLane_settling h]
    have hs : l.state ≠ .reserved := by simp [h]
    exact ⟨⟨hl.exchange_none (by rw [h]; rfl), by rw [h]; rfl, hs⟩, hl.reserved_none hs⟩
  · have hs : isOccupied l.state = false ∧ l.state ≠ .reserved := by
      rcases h with h | h | h <;> simp [h, isOccupied]
    rw [lostLane_resting h]
    exact ⟨⟨hl.exchange_none hs.1, hs⟩, hl.reserved_none hs.2⟩

/-! ### The fiftieth miss -/

/-- The grid of a phase that is lost at its fiftieth miss (R11). -/
def lostGrid (u : Ptu) : Ptu :=
  { u with timing := .lost, missCount := u.missCount + 1, cycle := none, half := none, correction := none }

/-- A monitor whose phase is lost (R139). -/
def lostMonitor (m : Lcm) : Lcm := { m with verdict := .none, verdictAt := none, start := none }

/-- A phase loss noted, before the lane acts on it: PHASE_LOST, the grid stopped, the monitor's verdict gone (R11, R139). -/
def lossNoted (ph : Phase) (s : State) : State :=
  monitorLoss ph (raise .phaseLost (setPtu s ph (losePhase (ptuOf s ph))))

theorem phaseLost_eq (ph : Phase) (time : Nat) (s : State) :
    phaseLost ph time s = tell allPhases (laneLoss ph time (lossNoted ph s)) := rfl

/-- The state with a phase loss noted: the grid and the monitor of the phase, the flags and notice-due. -/
def lossState (ph : Phase) (s : State) (e : Events) (u : Uli) : State :=
  { s with
    ptu := putPhase s.ptu ph (lostGrid (ptuOf s ph)), lcm := putPhase s.lcm ph (lostMonitor (lcmOf s ph))
    events := e, uli := u }

/-- The fiftieth miss noted: PHASE_LOST is set. -/
theorem lossNoted_frame (ph : Phase) (cyc : Cycle) (s : State) :
    ∃ e u, lossNoted ph (missNoted ph cyc s) = lossState ph s e u ∧ e.flags.getLsbD (flagBit .phaseLost) = true := by
  have hptu := ptuOf_of_setPtu (missNoted_work ph cyc s).ptu
  have hflag := flagSet_raise_self .phaseLost (setPtu (missNoted ph cyc s) ph (losePhase (missedGrid (ptuOf s ph) cyc)))
  refine ⟨(raise .phaseLost (setPtu (missNoted ph cyc s) ph (losePhase (missedGrid (ptuOf s ph) cyc)))).events,
    (raise .phaseLost (setPtu (missNoted ph cyc s) ph (losePhase (missedGrid (ptuOf s ph) cyc)))).uli, ?_, hflag⟩
  unfold lossNoted monitorLoss lossState
  rw [hptu, raise_frame, missNoted, raiseIf_frame]
  simp only [setLcm, setPtu, lcmOf, putPhase_putPhase]
  rfl

/-- Settles O19: the loss is noted, the lane acts on it, and choosing again finds that lane free. -/
theorem fiftiethMissLosesPhase : Obligations.FiftiethMissLosesPhase := by
  intro ph s cyc hl hr hc hm ht h49 hun l
  have hnot : boundaryServed (ptuOf s ph) = false := by
    rw [Bool.eq_false_iff, Ne, boundaryServed_iff hc]
    rintro ⟨an, ha, hb⟩
    exact hun an ha hb
  have hexec := exec_missTest_due (missTestDue_of hr hc hm ht)
  rw [takeMiss_fiftieth hc hnot (by omega), phaseLost_eq] at hexec
  obtain ⟨e, u, hnoted, hflag⟩ := lossNoted_frame ph cyc s
  rw [hnoted] at hexec
  obtain ⟨hok, -⟩ := hl ph
  have hwork := (laneLoss_work ph (cyc.start + (ptuOf s ph).p / 64) (lossState ph s e u)).trans (tell_work allPhases _)
  have hchoice := tell_choice allPhases (laneLoss ph (cyc.start + (ptuOf s ph).p / 64) (lossState ph s e u))
  have hlost := laneLoss_lane (s := lossState ph s e u) (cyc.start + (ptuOf s ph).p / 64) hok
  obtain ⟨hfree, hres⟩ := lostLane_empty hok
  obtain ⟨w, hlane⟩ := hchoice.free ph (hlost ▸ hfree)
  replace hlane := hlane.trans (congrArg (fun v => { v with winner := w }) hlost)
  change _ = { lostLane l with winner := w } at hlane
  refine ⟨_, hexec, ?_, ?_, ?_, ?_, ?_, ?_, fun hx => ?_, fun x hx hn => ?_, fun hs => ?_, fun hs => ?_, fun hs => ?_,
    ?_, ?_⟩
  · rw [transmit_flagSet]
    exact flagSet_of_kept hwork.flags hflag
  · rw [transmit_ptu, hwork.ptu]
    simp only [lossState, lostGrid, h49]
  · rw [transmit_lcm]
    exact hwork.lcm
  · rw [transmit_laneOf, hlane]
    exact hfree.1
  · rw [transmit_laneOf, hlane]
    exact hres
  · rw [transmit_laneOf, hlane]
    exact lostLane_deferral l
  · obtain ⟨-, htxen, hdrv⟩ := landedLane_kept (freedLane l)
    rw [transmit_laneOf, hlane, lostLane_occupied (hok.1.2 hx)]
    exact ⟨htxen, hdrv, landedLane_state (freedLane l)⟩
  · have ho : isOccupied (laneOf s ph).state = true := hok.1.2 (by rw [hx]; nofun)
    obtain ⟨hends, hlearned⟩ := laneLoss_reports (s := lossState ph s e u) (cyc.start + (ptuOf s ph).p / 64) ho
    obtain ⟨hend, hlearn⟩ := endPart_last (s := lossState ph s e u) (some .lost) (cyc.start + (ptuOf s ph).p / 64) hx hn
    obtain ⟨moreEnds, hmore⟩ := hchoice.ends
    obtain ⟨moreLearned, hmore'⟩ := hchoice.learned
    refine ⟨rfl, fun hj => ?_, moreEnds, moreLearned, ?_, ?_⟩
    · simp only [endReportOf, reportCause, hj, Bool.false_eq_true, ↓reduceIte]
    · rw [transmit_endReports, hmore, hends, hend, List.append_assoc]
      rfl
    · rw [transmit_learningReports, hmore', hlearned, hlearn, List.append_assoc]
      rfl
  · rw [transmit_laneOf, hlane, lostLane_reserved hs]
  · rw [transmit_laneOf, hlane]
    rcases hs with h | h | h | h
    · rw [lostLane_resting (.inl h)]
    · rw [lostLane_resting (.inr (.inl h))]
    · rw [lostLane_resting (.inr (.inr h))]
    · rw [lostLane_settling h]
  · rw [transmit_laneOf, hlane, lostLane_settling hs]
  · rw [transmit_units]
    exact hwork.units
  · rw [transmit_inFlight]
    exact hwork.inFlight

end Sys2Proof.Machine

/-! ## The clock's second (R16, R17, R48 to R50): O23, O24 -/

namespace Sys2Proof.Machine

open Sys2Proof.Claims

/-! ### One record at a second -/

theorem deadlineReached_iff (s : State) (r : Record) : deadlineReached s r = true ↔ late s.clock.seconds r := by
  simp [deadlineReached, late]

/-- No lane was ever seen just where none of the three is among the lanes seen. -/
theorem expiryCause_eq (s : State) (r : Record) (g : Target) : expiryCause s r g = causeAtExpiry s r g := by
  have hseen : ∀ x : PerPhase Bool,
      (if allPhases.any (atPhase x) then Cause.deadline else .noLane) =
        if x = ⟨false, false, false⟩ then .noLane else .deadline := by
    rintro ⟨a, b, c⟩
    cases a <;> cases b <;> cases c <;> rfl
  unfold expiryCause causeAtExpiry
  cases (unitAt s g.unit).phase with
  | none => exact hseen r.lanesSeen
  | some ph => rfl

theorem closeTarget_expired (s : State) (r : Record) (g : Target) :
    (closeTarget s r .expired g).outcome =
      if g.outcome = .pending then .unreached (causeAtExpiry s r g) else g.outcome := by
  unfold closeTarget
  rw [expiryCause_eq]
  split <;> rfl

theorem clockRecord_expires {s : State} {r : Record} (hl : late s.clock.seconds r)
    (hs : r.state = .waiting ∨ r.state = .ready) : clockRecord s r = enterDone s .expired r := by
  unfold clockRecord
  rw [if_pos ((deadlineReached_iff s r).2 hl)]
  rcases hs with h | h <;> simp only [h]

theorem clockRecord_closes {s : State} {r : Record} (hl : late s.clock.seconds r) (hs : r.state = .active) :
    clockRecord s r = { r with state := .closing .expiry } := by
  unfold clockRecord
  rw [if_pos ((deadlineReached_iff s r).2 hl)]
  simp only [hs]

theorem clockRecord_releases {s : State} {r : Record} (hl : ¬late s.clock.seconds r) (hs : r.state = .waiting)
    (hr : r.release ≤ s.clock.seconds) : clockRecord s r = beginStage s { r with state := .ready } := by
  unfold clockRecord
  rw [if_neg (fun h => hl ((deadlineReached_iff s r).1 h)), if_pos ⟨hs, hr⟩]

/-- A record whose time has not come, in either sense, is left as it is. -/
theorem clockRecord_waits {s : State} {r : Record} (hl : ¬late s.clock.seconds r)
    (hr : r.state = .waiting → s.clock.seconds < r.release) : clockRecord s r = r := by
  unfold clockRecord
  rw [if_neg (fun h => hl ((deadlineReached_iff s r).1 h)), if_neg fun h => absurd (hr h.1) (Nat.not_lt.2 h.2)]

/-- A CLOSING or DONE record is no matter of a second. -/
theorem clockRecord_ended {s : State} {r : Record} (hs : (∃ c, r.state = .closing c) ∨ ∃ o, r.state = .done o) :
    clockRecord s r = r := by
  by_cases hl : late s.clock.seconds r
  · unfold clockRecord
    rw [if_pos ((deadlineReached_iff s r).2 hl)]
    rcases hs with ⟨c, h⟩ | ⟨o, h⟩ <;> simp only [h]
  · refine clockRecord_waits hl fun hw => ?_
    rcases hs with ⟨c, h⟩ | ⟨o, h⟩ <;> simp [h] at hw

/-- A second taken for a record (R48 to R50), with all that choosing again may do to it afterwards. -/
theorem clockTaken_of_settles {s : State} {r r' : Record} (h : RecordSettles (clockRecord s r) r') :
    clockTaken s s.clock.seconds r r' := by
  have rests : ∀ q, clockRecord s r = q → q.state ≠ .ready → q.state ≠ .active → r' = q := fun q hq h1 h2 =>
    hq ▸ h.rests (hq ▸ h1) (hq ▸ h2)
  have ended : ((∃ c, r.state = .closing c) ∨ ∃ o, r.state = .done o) → r' = r := fun hs =>
    rests r (clockRecord_ended hs) (by rcases hs with ⟨c, h⟩ | ⟨o, h⟩ <;> simp [h])
      (by rcases hs with ⟨c, h⟩ | ⟨o, h⟩ <;> simp [h])
  refine ⟨fun hl => ⟨fun hs => ?_, fun hs => ?_⟩, fun hl => ⟨fun hs hr => ?_, fun hs hr => ?_⟩, fun c hs => ?_,
    fun o hs => ?_, recordContinues_trans (clockRecord_works s r).continues h.continues⟩
  · rw [rests _ (clockRecord_expires hl hs) (by simp [enterDone]) (by simp [enterDone])]
    exact ⟨rfl, List.forall₂_map_right_iff.2 (List.forall₂_same.2 fun g _ => closeTarget_expired s r g)⟩
  · rw [rests _ (clockRecord_closes hl hs) (by simp) (by simp)]
  · have hbegin := (beginStage_settles (s := s) (r := { r with state := .ready }) rfl).trans
      (clockRecord_releases hl hs hr ▸ h)
    exact hbegin.ready rfl
  · rw [rests r (clockRecord_waits hl fun _ => hr) (by simp [hs]) (by simp [hs]), hs]
  · rw [ended (.inl ⟨c, hs⟩), hs]
  · rw [ended (.inr ⟨o, hs⟩), hs]

/-! ### The whole queue at a second -/

/-- More elements pass the weaker of two tests where one that fails the stronger passes it. -/
theorem countP_lt_countP_of_mem {α : Type} {p q : α → Bool} {xs : List α} (h : ∀ x ∈ xs, p x = true → q x = true)
    {x : α} (hx : x ∈ xs) (hp : p x = false) (hq : q x = true) : xs.countP p < xs.countP q := by
  obtain ⟨as, bs, rfl⟩ := List.append_of_mem hx
  have ha := List.countP_mono_left (l := as) fun y hy => h y (by simp [hy])
  have hb := List.countP_mono_left (l := bs) fun y hy => h y (by simp [hy])
  rw [List.countP_append, List.countP_append, List.countP_cons_of_neg (by simp [hp]), List.countP_cons_of_pos hq]
  omega

/-- RECORD_DONE comes up where a record has entered DONE and none has left it (R50). -/
theorem commitRecords_flags {g : Record → Record} {s : State} (hg : ∀ r ∈ s.records, isDone r = true → isDone (g r) = true)
    {r : Record} (hr : r ∈ s.records) (hn : isDone r = false) (hd : isDone (g r) = true) :
    flagSet (commitRecords (s.records.map g) s) .recordDone = true := by
  have hlt : (s.records.filter isDone).length < ((s.records.map g).filter isDone).length := by
    rw [← List.countP_eq_length_filter, ← List.countP_eq_length_filter, List.countP_map]
    exact countP_lt_countP_of_mem hg hr hn hd
  unfold commitRecords
  rw [decide_eq_true hlt]
  exact flagSet_raise_self ..

/-- The aborts of R49, record by record over the lanes that hold an exchange for it. -/
theorem expiryAborts_eq (s : State) (n : Nat) :
    expiryAborts s n =
      (s.records.filter fun r => r.state == .active && r.deadline != 0 && decide (r.deadline ≤ n)).flatMap fun r =>
        (lanesHolding s r.serial).map fun ph => { lane := ph, serial := r.serial, cause := .expiry } := by
  unfold expiryAborts
  refine congrArg (fun f => List.flatMap f _) (funext fun r => ?_)
  unfold lanesHolding
  rw [← List.filterMap_eq_map, List.filterMap_filter]
  refine List.filterMap_congr fun ph _ => ?_
  cases (laneOf s ph).exchange <;> simp

/-- The aborts that the queue asks at a second (R49). -/
theorem secondApplied_aborts (s : State) :
    (secondApplied s).abortRequests = s.abortRequests ++ expiryAborts s s.clock.seconds := by
  have hc : (commitRecords (s.records.map (clockRecord s)) s).abortRequests = s.abortRequests := by
    rw [commitRecords_frame]
  unfold secondApplied askAborts
  simp only [hc, expiryAborts_eq, deadlineReached, Bool.and_assoc]

theorem isDone_iff (r : Record) : isDone r = true ↔ ∃ o, r.state = .done o := by
  unfold isDone
  cases r.state <;> simp

theorem secondApplied_flags {s : State}
    (h : ∃ r ∈ s.records, late s.clock.seconds r ∧ (r.state = .waiting ∨ r.state = .ready)) :
    flagSet (secondApplied s) .recordDone = true := by
  obtain ⟨r, hr, hl, hs⟩ := h
  refine commitRecords_flags (s := s) (fun q _ hq => ?_) hr ?_ ?_
  · rw [clockRecord_ended (.inr ((isDone_iff q).1 hq))]
    exact hq
  · rcases hs with h | h <;> simp [isDone, h]
  · rw [clockRecord_expires hl hs]
    rfl

/-- What choosing again does to the records of a second event, if it comes to that. -/
theorem clockEvent_from_applied (s : State) :
    LaneWork (secondApplied s) (clockEvent s) ∧ ChoiceWork (secondApplied s) (clockEvent s) := by
  rw [clockEvent_eq]
  split
  · exact ⟨.refl _, .refl _⟩
  · exact ⟨tell_work _ _, tell_choice _ _⟩

/-- All that R48 to R50 say of a second, for the clock as it then stands. -/
theorem clockEvent_secondTaken (s : State) : secondTaken s s.clock.seconds (clockEvent s) := by
  obtain ⟨hwork, hchoice⟩ := clockEvent_from_applied s
  have hrecords : (secondApplied s).records = s.records.map (clockRecord s) := by
    unfold secondApplied askAborts
    rw [commitRecords_frame]
  refine ⟨?_, fun h => flagSet_of_kept hwork.flags (secondApplied_flags h), ?_⟩
  · have h := hchoice.records
    rw [hrecords, List.forall₂_map_left_iff] at h
    exact h.imp fun r r' => clockTaken_of_settles
  · rw [hwork.abortRequests, secondApplied_aborts]

/-- What a second leaves alone. -/
theorem clockEvent_kept (s : State) :
    (clockEvent s).now = s.now ∧ (clockEvent s).clock = s.clock ∧ (clockEvent s).ptu = s.ptu ∧
      (clockEvent s).units = s.units ∧ (clockEvent s).profile = s.profile ∧ (clockEvent s).inFlight = s.inFlight ∧
      (clockEvent s).uli = { s.uli with noticeDue := (clockEvent s).uli.noticeDue } := by
  obtain ⟨hwork, -⟩ := clockEvent_from_applied s
  have hcommit := commitRecords_map_work _ (clockRecord_works s) s
  exact ⟨hwork.now.trans hcommit.now, hwork.clock.trans hcommit.clock, hwork.ptu.trans hcommit.ptu,
    hwork.units.trans hcommit.units, hwork.profile.trans hcommit.profile, hwork.inFlight.trans hcommit.inFlight,
    hwork.uli.trans (by rw [show (secondApplied s).uli = _ from hcommit.uli])⟩

/-! ### Ticks -/

theorem secondTaken_transmit {s t : State} {n : Nat} (h : secondTaken s n t) : secondTaken s n (transmit t) := by
  unfold secondTaken
  rw [transmit_records, transmit_flagSet, transmit_abortRequests]
  exact h

/-- Settles O23: the count below the rollover, and the second event at it. -/
theorem ticksCountAndSecondsRollOver : Obligations.TicksCountAndSecondsRollOver := by
  intro s _
  refine ⟨fun hu => ?_, fun hs hlt => ?_, ?_⟩
  · have hroll : rollsOver s.clock = false := by simp [rollsOver, hu]
    refine becomes_of_transmit ?_ rfl
    simp only [exec, execReferenceTick, hroll, hu, Bool.false_eq_true, ↓reduceIte]
  · have hroll : rollsOver s.clock = false := by
      simp only [rollsOver, hs, Bool.true_and, decide_eq_false_iff_not]
      omega
    refine becomes_of_transmit ?_ rfl
    simp only [exec, execReferenceTick, hroll, hs, Bool.false_eq_true, ↓reduceIte]
  · intro hs heq seconds
    have hroll : rollsOver s.clock = true := by simp [rollsOver, hs, heq]
    have hrolled : rolledClock s.clock = { isSet := true, seconds, sub := 0 } := by
      unfold rolledClock
      rw [hs]
    obtain ⟨hnow, hclock, hptu, hunits, hprofile, hflight, -⟩ :=
      clockEvent_kept { s with now := s.now + 1, clock := rolledClock s.clock }
    have htaken := clockEvent_secondTaken { s with now := s.now + 1, clock := rolledClock s.clock }
    refine ⟨transmit (secondTick s), ?_, ?_, (transmit_now _).trans hnow, ?_, secondTaken_transmit htaken,
      (transmit_ptu _).trans hptu, (transmit_units _).trans hunits, (transmit_profile _).trans hprofile,
      (transmit_inFlight _).trans hflight⟩
    · simp only [exec, execSecondEvent, hroll, ↓reduceIte]
    · simp only [exec, execReferenceTick, hroll, ↓reduceIte]
    · exact ((transmit_clock _).trans hclock).trans hrolled

/-! ### CLOCK SET -/

theorem secondTaken_respond {s t : State} {n : Nat} (f : Frame) (h : secondTaken s n t) :
    secondTaken s n (respond f t) := by
  obtain ⟨-, -, -, -, -, -, hrecords, hevents, haborts⟩ := respond_fields f t
  unfold secondTaken flagSet
  rw [hrecords, hevents, haborts]
  exact h

/-- What a second asks of a state: its records, its table, its lanes and the aborts in transit. -/
theorem secondTaken_congr {s s' t : State} {n : Nat} (hr : s'.records = s.records) (hu : s'.units = s.units)
    (hl : s'.lanes = s.lanes) (ha : s'.abortRequests = s.abortRequests) (h : secondTaken s' n t) : secondTaken s n t := by
  unfold secondTaken clockTaken causeAtExpiry unitAt expiryAborts laneOf at *
  rw [hr, hu, hl, ha] at h
  exact h

/-- The clock as CLOCK SET leaves it (R17). -/
def clockSetTo (seconds : BitVec 32) (s : State) : State :=
  { s with clock := { isSet := true, seconds := seconds.toNat, sub := 0 } }

/-- Settles O24: the refusal of 0, and otherwise the second event against the new time. -/
theorem clockSetActsAtOnce : Obligations.ClockSetActsAtOnce := by
  intro tag seconds s _ hroom
  have hexec : exec (.clockSet tag seconds) s = .next (transmit (respond
      { kind := 0xB0, tag, content := (serveClockSet seconds (transmit s)).2 }
      (serveClockSet seconds (transmit s)).1)) := by
    show Host.Outcome.next (transmit (intakeRequest tag (.clockSet seconds) s)) = _
    rw [intakeRequest_room hroom]
    rfl
  refine ⟨fun h0 => ?_, fun h0 => ?_⟩
  · have hserve : serveClockSet seconds (transmit s) = (transmit s, [0x03]) := by
      rw [serveClockSet, if_pos h0]
      rfl
    rw [hserve] at hexec
    have hqueued := responseQueued_respond (s := s) (t := transmit s) { kind := 0xB0, tag, content := [0x03] } rfl
    rw [answered_rest] at hexec
    exact ⟨_, _, hexec, hqueued⟩
  · have hserve : serveClockSet seconds (transmit s) = (clockEvent (clockSetTo seconds (transmit s)), [0x00]) := by
      rw [serveClockSet, if_neg h0]
      rfl
    rw [hserve] at hexec
    obtain ⟨hnow, hclock, hptu, hunits, hprofile, hflight, huli⟩ := clockEvent_kept (clockSetTo seconds (transmit s))
    obtain ⟨rnow, rclock, rptu, runits, rprofile, rflight, -⟩ :=
      respond_fields { kind := 0xB0, tag, content := [0x00] } (clockEvent (clockSetTo seconds (transmit s)))
    have htaken : secondTaken s seconds.toNat (clockEvent (clockSetTo seconds (transmit s))) :=
      secondTaken_congr (transmit_records s) (transmit_units s) (transmit_lanes s) (transmit_abortRequests s)
        (clockEvent_secondTaken (clockSetTo seconds (transmit s)))
    refine ⟨_, hexec, ?_, responseQueued_respond _ huli, secondTaken_transmit (secondTaken_respond _ htaken), ?_, ?_, ?_,
      ?_, ?_⟩
    · rw [transmit_clock, rclock, hclock]
      rfl
    · rw [transmit_now, rnow, hnow]
      exact transmit_now s
    · rw [transmit_ptu, rptu, hptu]
      exact transmit_ptu s
    · rw [transmit_units, runits, hunits]
      exact transmit_units s
    · rw [transmit_profile, rprofile, hprofile]
      exact transmit_profile s
    · rw [transmit_inFlight, rflight, hflight]
      exact transmit_inFlight s

end Sys2Proof.Machine

/-! ## The unit table read and walked (R21 to R23, R36 to R38)

Which entry holds an address, which live units a question finds, and where a chain of redirections ends: said once of the
table's functions, and cited by the statements about targets, writes and reads. -/

namespace Sys2Proof.Machine

open Sys2Proof.Claims

/-! ### Entries listed and addresses held -/

theorem not_empty_of_live {e : Entry} (h : isLive e = true) : e.state ≠ .empty := fun he => by
  simp [isLive, he] at h

theorem not_live_of_redirected {e : Entry} (h : e.state = .redirected) : isLive e = false := by
  simp [isLive, h]

/-- An entry that is not EMPTY is listed at its index. -/
theorem mem_of_state_ne {units : List (Nat × Entry)} {i : Nat} (h : (entryAt units i).state ≠ .empty) :
    (i, entryAt units i) ∈ units := mem_of_entryAt_ne fun he => h (by rw [he]; rfl)

/-- Only an index of the table is used (R21). -/
theorem index_lt_of_state_ne {units : List (Nat × Entry)} {i : Nat} (hw : tableWf units = true)
    (h : (entryAt units i).state ≠ .empty) : i < 1024 := ((tableWf_iff.1 hw).2 _ (mem_of_state_ne h)).1

/-- An entry that holds an address is not EMPTY (R22). -/
theorem state_ne_of_address {units : List (Nat × Entry)} {i : Nat} {a : Address} (hc : emptiesClean units)
    (h : (entryAt units i).address = some a) : (entryAt units i).state ≠ .empty := fun he => by
  rw [(hc i).1 he] at h
  cases h

/-! The conjuncts of `State.tableOk`, by name. -/

theorem State.tableOk.wf {s : State} (hs : s.tableOk) : tableWf s.units = true := by
  obtain ⟨hwf, -⟩ := hs
  exact hwf

theorem State.tableOk.rising {s : State} (hs : s.tableOk) : rising s.units := (tableWf_iff.1 hs.wf).1

theorem State.tableOk.distinct {s : State} (hs : s.tableOk) : addressesDistinct s.units := by
  obtain ⟨-, hdistinct, -⟩ := hs
  exact hdistinct

theorem State.tableOk.chains {s : State} (hs : s.tableOk) : chainsReach s.units := by
  obtain ⟨-, -, hchains, -⟩ := hs
  exact hchains

theorem State.tableOk.clean {s : State} (hs : s.tableOk) : emptiesClean s.units := by
  obtain ⟨-, -, -, -, hclean, -⟩ := hs
  exact hclean

theorem State.tableOk.discovery {s : State} (hs : s.tableOk) : discoveryOk s := by
  obtain ⟨-, -, -, -, -, hdiscovery⟩ := hs
  exact hdiscovery

theorem State.tableOk.nodup {s : State} (hs : s.tableOk) : s.discovery.Nodup := by
  obtain ⟨-, hnodup, -⟩ := hs.discovery
  exact hnodup

/-- No listed address is held by an entry (R126). -/
theorem State.tableOk.unheld {s : State} (hs : s.tableOk) {a : Address} (ha : a ∈ s.discovery) (i : Nat) :
    (unitAt s i).address ≠ some a := by
  obtain ⟨-, -, hfree⟩ := hs.discovery
  exact hfree a ha i

/-- The first listed entry that passes a test, where one entry of the table passes it and no other does. -/
theorem findIndex_eq_some {units : List (Nat × Entry)} (hr : rising units) {p : Nat × Entry → Bool} {i : Nat}
    (hi : (entryAt units i).state ≠ .empty) (hp : p (i, entryAt units i) = true)
    (hu : ∀ j, p (j, entryAt units j) = true → j = i) : (units.find? p).map Prod.fst = some i := by
  cases hf : units.find? p with
  | none => exact absurd hp (List.find?_eq_none.1 hf _ (mem_of_state_ne hi))
  | some x =>
    have hx : (x.1, entryAt units x.1) = x := by rw [entryAt_of_mem hr (List.mem_of_find?_eq_some hf)]
    exact congrArg some (hu x.1 (by rw [hx]; exact List.find?_some hf))

theorem findIndex_eq_none {units : List (Nat × Entry)} (hr : rising units) {p : Nat × Entry → Bool}
    (h : ∀ i, p (i, entryAt units i) = false) : (units.find? p).map Prod.fst = none := by
  rw [Option.map_eq_none_iff, List.find?_eq_none]
  intro x hx hp
  have := h x.1
  rw [entryAt_of_mem hr hx] at this
  exact absurd (this.symm.trans hp) (by decide)

/-- The index that `holderOf` finds is the one whose entry holds the address. -/
theorem holderOf_eq_some {s : State} (hs : s.tableOk) {a : Address} {i : Nat} (h : (unitAt s i).address = some a) :
    holderOf s.units a = some i := by
  have hi := state_ne_of_address hs.clean h
  refine findIndex_eq_some hs.rising hi ?_ fun j hj => ?_
  · simp only [Bool.and_eq_true, bne_iff_ne, beq_iff_eq]
    exact ⟨hi, h⟩
  · simp only [Bool.and_eq_true, beq_iff_eq] at hj
    exact hs.distinct j i a hj.2 h

theorem holderOf_eq_none {s : State} (hs : s.tableOk) {a : Address} (h : ∀ i, (unitAt s i).address ≠ some a) :
    holderOf s.units a = none := by
  refine findIndex_eq_none hs.rising fun i => ?_
  simp only [Bool.and_eq_false_iff, beq_eq_false_iff_ne]
  exact .inr (h i)

/-- The holder found is a listed entry that is not EMPTY and holds the address. -/
theorem holderOf_spec {units : List (Nat × Entry)} (hr : rising units) {a : Address} {i : Nat}
    (h : holderOf units a = some i) : (entryAt units i).state ≠ .empty ∧ (entryAt units i).address = some a := by
  unfold holderOf at h
  obtain ⟨x, hf, rfl⟩ := Option.map_eq_some_iff.1 h
  rw [entryAt_of_mem hr (List.mem_of_find?_eq_some hf)]
  simpa using List.find?_some hf

/-- Where no holder is found, no entry holds the address. -/
theorem address_ne_of_holderOf {s : State} (hs : s.tableOk) {a : Address} (h : holderOf s.units a = none) (i : Nat) :
    (unitAt s i).address ≠ some a := fun ha => by
  rw [holderOf_eq_some hs ha] at h
  cases h

/-! ### The live units that qualify (R37, R38) -/

theorem pairwise_liveWhere {units : List (Nat × Entry)} (hr : rising units) (p : Entry → Bool) :
    (liveWhere units p).Pairwise (· < ·) := List.Pairwise.sublist (List.filter_sublist.map _) hr

theorem mem_liveWhere {units : List (Nat × Entry)} (hr : rising units) {p : Entry → Bool} {i : Nat} :
    i ∈ liveWhere units p ↔ isLive (entryAt units i) = true ∧ p (entryAt units i) = true := by
  unfold liveWhere
  simp only [List.mem_map, List.mem_filter, Bool.and_eq_true]
  constructor
  · rintro ⟨x, ⟨hx, hq⟩, rfl⟩
    rwa [entryAt_of_mem hr hx]
  · intro hq
    exact ⟨_, ⟨mem_of_state_ne (not_empty_of_live hq.1), hq⟩, rfl⟩

/-! ### Chains of redirections (R23, R36) -/

theorem followChain_live {units : List (Nat × Entry)} {i : Nat} (k : Nat) (h : isLive (entryAt units i) = true) :
    followChain units k i = some i := by
  cases k with
  | zero => exact if_pos h
  | succ k => exact if_pos h

theorem followChain_redirected {units : List (Nat × Entry)} {i j : Nat} (k : Nat)
    (h : (entryAt units i).state = .redirected) (hj : (entryAt units i).successor = some j) :
    followChain units (k + 1) i = followChain units k j := by
  simp [followChain, not_live_of_redirected h, h, hj]

/-- A walk that ends, ends on a live unit. -/
theorem isLive_of_followChain {units : List (Nat × Entry)} :
    ∀ {k i j : Nat}, followChain units k i = some j → isLive (entryAt units j) = true
  | 0, i, j, h => by
    unfold followChain at h
    split at h
    · cases h
      assumption
    · cases h
  | k + 1, i, j, h => by
    unfold followChain at h
    dsimp only at h
    split at h
    · cases h
      assumption
    · split at h
      · split at h
        · exact isLive_of_followChain h
        · cases h
      · cases h

/-- A walk depends on which entries are live, and on what the others hold. -/
theorem followChain_congr {us vs : List (Nat × Entry)} (hl : ∀ i, isLive (entryAt vs i) = isLive (entryAt us i))
    (he : ∀ i, isLive (entryAt us i) = false → entryAt vs i = entryAt us i) :
    ∀ k i, followChain vs k i = followChain us k i
  | 0, i => by rw [followChain, followChain, hl]
  | k + 1, i => by
    cases h : isLive (entryAt us i) with
    | true => rw [followChain_live _ h, followChain_live _ ((hl i).trans h)]
    | false => simp only [followChain, he i h, followChain_congr hl he k]

/-- The fourth check of a write looks at the listed entries, which are all that can be REDIRECTED (R28). -/
theorem chainsOk_iff {units : List (Nat × Entry)} (hr : rising units) : chainsOk units = true ↔ chainsReach units := by
  unfold chainsOk chainsReach
  simp only [List.all_eq_true, Bool.or_eq_true, bne_iff_ne, ne_eq]
  constructor
  · intro h i hi
    have hm := mem_of_state_ne (units := units) (i := i) (by simp [hi])
    exact (h _ hm).resolve_left (not_not_intro hi)
  · intro h x hx
    rw [or_iff_not_imp_left, not_not]
    intro hst
    exact h x.1 (by rw [entryAt_of_mem hr hx]; exact hst)

/-! ### O37 -/

/-- What `liveWhere` finds, for a test that says what a property says. -/
theorem liveWhere_selects {s : State} (hs : s.tableOk) {q : Entry → Bool} {p : Entry → Prop}
    (h : ∀ e, q e = true ↔ p e) :
    ∃ set, some (liveWhere s.units q) = some set ∧ set.Pairwise (· < ·) ∧
      ∀ i, i ∈ set ↔ isLive (unitAt s i) = true ∧ p (unitAt s i) :=
  ⟨_, rfl, pairwise_liveWhere hs.rising q, fun _ => (mem_liveWhere hs.rising).trans (and_congr_right' (h _))⟩

theorem meetsCondition_qualityBelow (q : Nat) (e : Entry) :
    meetsCondition (.qualityBelow q) e = true ↔ ∀ v, e.quality = some v → v < q := by
  cases h : e.quality <;> simp [meetsCondition, h]

/-- Settles O37: the address's holder is walked from, and the sets are read off the table in its order. -/
theorem targetsExpandToLiveUnits : Obligations.TargetsExpandToLiveUnits := by
  intro s hs
  refine ⟨fun a i ha hl => ?_, fun a i ha hred => ?_, fun i j hred hj hl => ?_, fun a ha => ?_, fun spec p h => ?_⟩
  · simp [expandTarget, holderOf_eq_some hs ha, followChain_live 4 hl]
  · obtain ⟨j, hj⟩ := Option.isSome_iff_exists.1 (hs.chains i hred)
    refine ⟨j, hj, isLive_of_followChain hj, ?_⟩
    simp [expandTarget, holderOf_eq_some hs ha, hj]
  · rw [followChain_redirected 3 hred hj, followChain_live 3 hl]
  · simp [expandTarget, holderOf_eq_none hs ha]
  · rcases h with ⟨rfl, h⟩ | ⟨rfl, h⟩ | ⟨g, rfl | rfl, h⟩ | ⟨rfl, h⟩ | ⟨rfl, h⟩ | ⟨q, rfl, h⟩ | ⟨rfl, h⟩
    · exact liveWhere_selects hs fun e => iff_of_true rfl (h e)
    · exact liveWhere_selects hs fun e => iff_of_true rfl (h e)
    · exact liveWhere_selects hs fun e => by rw [h, List.contains_iff_mem]
    · exact liveWhere_selects hs fun e => by rw [h, meetsCondition, List.contains_iff_mem]
    · exact liveWhere_selects hs fun e => by rw [h, meetsCondition, beq_iff_eq]
    · exact liveWhere_selects hs fun e => by rw [h, meetsCondition, beq_iff_eq]
    · exact liveWhere_selects hs fun e => by rw [h, meetsCondition_qualityBelow]
    · exact liveWhere_selects hs fun e => iff_of_false Bool.false_ne_true (h e)

end Sys2Proof.Machine

/-! ## UNIT WRITE (R24 to R32)

The five checks one by one in the rules' own terms, and what `serveUnitWrite` answers when each is the first to fail and
when all hold. -/

namespace Sys2Proof.Machine

open Sys2Proof.Claims

/-! ### Codes (R172) -/

theorem unitStateOfCode_eq_some_iff {c : Byte} {st : UnitState} : unitStateOfCode c = some st ↔ c = unitStateByte st := by
  constructor
  · unfold unitStateOfCode
    split <;> rintro ⟨⟩ <;> rfl
  · rintro rfl
    cases st <;> rfl

theorem exists_unitState_of_code_le {c : Byte} (h : c.toNat ≤ 3) : ∃ st, c = unitStateByte st := by
  have hc : c = BitVec.ofNat 8 c.toNat := BitVec.eq_of_toNat_eq (by simp)
  rcases (by omega : c.toNat = 0 ∨ c.toNat = 1 ∨ c.toNat = 2 ∨ c.toNat = 3) with h | h | h | h <;> rw [h] at hc
  · exact ⟨.empty, hc⟩
  · exact ⟨.active, hc⟩
  · exact ⟨.silent, hc⟩
  · exact ⟨.redirected, hc⟩

theorem codedPhase_eq (c : Byte) : codedPhase c = (phaseOfCode c).getD none := by
  unfold phaseOfCode
  split <;> simp_all [codedPhase]

theorem phaseOfCode_isSome_iff (c : Byte) : (phaseOfCode c).isSome = true ↔ c.toNat ≤ 3 := by
  unfold phaseOfCode
  split <;> simp_all
  bv_omega

/-! ### The first check (R25) -/

theorem reservedAddress_iff (a : Address) : reservedAddress a = false ↔ a ≠ 0 ∧ a ≠ 0xFFFFFFFF := by
  simp [reservedAddress]

/-- The fields of a live write that R25 ranges over. -/
def liveFieldsGood (f : UnitWriteFields) : Prop :=
  f.phase.toNat ≤ 3 ∧ (∀ r ∈ f.route, r.toNat ≤ 1023) ∧ f.route.Nodup ∧ f.index ∉ f.route ∧ (∀ g ∈ f.groups, g ≠ 0) ∧
    f.groups.Nodup

theorem liveFieldsOk_iff (f : UnitWriteFields) : liveFieldsOk f = true ↔ liveFieldsGood f := by
  simp [liveFieldsOk, liveFieldsGood, phaseOfCode_isSome_iff, and_assoc]

/-- The state that a write stores decides which of R25's ranges apply. -/
theorem writeFieldsGood_iff {f : UnitWriteFields} {st : UnitState} (h : f.state = unitStateByte st) :
    writeFieldsGood f ↔ f.index.toNat ≤ 1023 ∧ f.route.length ≤ 3 ∧ f.groups.length ≤ 4 ∧
      (st ≠ .empty → reservedAddress f.address = false) ∧ (st = .active ∨ st = .silent → liveFieldsGood f) ∧
      (st = .redirected → f.successor.toNat ≤ 1023) := by
  unfold writeFieldsGood writesLive
  rw [h, reservedAddress_iff, ← liveFieldsGood]
  cases st <;> simp [unitStateByte]

theorem fieldsChecked_of_code {f : UnitWriteFields} {st : UnitState} (h : f.state = unitStateByte st) :
    fieldsChecked f = some st ↔ writeFieldsGood f := by
  rw [writeFieldsGood_iff h, fieldsChecked, h, unitStateOfCode_eq_some_iff.2 rfl, ← liveFieldsOk_iff]
  cases st <;> simp [and_assoc]

/-- The state that the check answers is the one coded, and no range of R25 is missed. -/
theorem fieldsChecked_eq_some {f : UnitWriteFields} {st : UnitState} (h : fieldsChecked f = some st) :
    f.state = unitStateByte st ∧ writeFieldsGood f := by
  have hst : f.state = unitStateByte st := by
    rw [← unitStateOfCode_eq_some_iff]
    unfold fieldsChecked at h
    split at h
    · cases h
    · split at h
      · cases h
      · rw [‹unitStateOfCode f.state = _›, h]
      all_goals
        split at h
        · cases h
        · rw [‹unitStateOfCode f.state = _›, h]
  exact ⟨hst, (fieldsChecked_of_code hst).1 h⟩

theorem fieldsChecked_eq_none {f : UnitWriteFields} (h : ¬writeFieldsGood f) : fieldsChecked f = none :=
  Option.eq_none_iff_forall_ne_some.2 fun _ hst => h (fieldsChecked_eq_some hst).2

/-- Good fields code a state. -/
theorem exists_state_of_good {f : UnitWriteFields} (h : writeFieldsGood f) :
    ∃ st, f.state = unitStateByte st ∧ fieldsChecked f = some st := by
  have hcode : f.state.toNat ≤ 3 := by
    obtain ⟨-, -, -, hcode, -⟩ := h
    exact hcode
  obtain ⟨st, hst⟩ := exists_unitState_of_code_le hcode
  exact ⟨st, hst, (fieldsChecked_of_code hst).2 h⟩

/-! ### The other four checks (R26 to R29), for the state coded -/

/-- A live state is the one that the rules of routes and phases speak of. -/
theorem writesLive_iff {f : UnitWriteFields} {st : UnitState} (h : f.state = unitStateByte st) :
    writesLive f ↔ (st == .active || st == .silent) = true := by
  unfold writesLive
  rw [h]
  cases st <;> decide

theorem state_zero_iff {f : UnitWriteFields} {st : UnitState} (h : f.state = unitStateByte st) :
    f.state = 0 ↔ st = .empty := by
  rw [h]
  cases st <;> decide

/-- The other entry that holds an address (R26). -/
theorem otherHolder_eq_some {s : State} (hs : s.tableOk) {i j : Nat} {a : Address} (hij : j ≠ i)
    (ha : (unitAt s j).address = some a) : otherHolder s.units i a = some j := by
  have hj := state_ne_of_address hs.clean ha
  refine findIndex_eq_some hs.rising hj ?_ fun k hk => ?_
  · simp only [Bool.and_eq_true, bne_iff_ne, beq_iff_eq]
    exact ⟨⟨hij, hj⟩, ha⟩
  · simp only [Bool.and_eq_true, beq_iff_eq] at hk
    exact hs.distinct k j a hk.2 ha

theorem otherHolder_eq_none {s : State} (hs : s.tableOk) {i : Nat} {a : Address}
    (h : ∀ j, j ≠ i → (unitAt s j).address ≠ some a) : otherHolder s.units i a = none := by
  refine findIndex_eq_none hs.rising fun j => ?_
  by_cases hj : j = i
  · simp [hj]
  · simp only [Bool.and_eq_false_iff, beq_eq_false_iff_ne]
    exact .inr (h j hj)

/-- The second check on the state to store: no entry is asked after where none is to hold the address. -/
def takenBy (s : State) (f : UnitWriteFields) (st : UnitState) : Option Nat :=
  if st = .empty then none else otherHolder s.units f.index.toNat f.address

theorem takenBy_eq_some {s : State} {f : UnitWriteFields} {st : UnitState} (hs : s.tableOk)
    (h : f.state = unitStateByte st) (h0 : f.state ≠ 0) {i : Nat} (hi : i ≠ f.index.toNat)
    (ha : (unitAt s i).address = some f.address) : takenBy s f st = some i := by
  rw [takenBy, if_neg fun he => h0 ((state_zero_iff h).2 he)]
  exact otherHolder_eq_some hs hi ha

theorem takenBy_eq_none {s : State} {f : UnitWriteFields} {st : UnitState} (hs : s.tableOk)
    (h : f.state = unitStateByte st) (hfree : writeAddressFree s f) : takenBy s f st = none := by
  unfold takenBy
  rcases hfree with h0 | hfree
  · rw [if_pos ((state_zero_iff h).1 h0)]
  · split
    · rfl
    · exact otherHolder_eq_none hs hfree

theorem routeOk_iff (units : List (Nat × Entry)) (ph : Option Phase) (route : List (BitVec 16)) :
    routeOk units ph (route.map BitVec.toNat) = true ↔
      (route ≠ [] → ph ≠ none ∧ ∀ r ∈ route, isLive (entryAt units r.toNat) = true ∧ (entryAt units r.toNat).phase = ph) := by
  simp [routeOk, relayServes, Option.isSome_iff_ne_none, or_iff_not_imp_left]

/-- The third check asks of a live write alone what R27 asks. -/
theorem writeRouteGood_iff {s : State} {f : UnitWriteFields} {st : UnitState} (h : f.state = unitStateByte st) :
    writeRouteGood s f ↔
      ((st == .active || st == .silent) && !routeOk s.units ((phaseOfCode f.phase).getD none) (f.route.map BitVec.toNat)) =
        false := by
  unfold writeRouteGood unitAt
  rw [writesLive_iff h, ← codedPhase_eq, Bool.and_eq_false_iff, Bool.not_eq_false', routeOk_iff, ← Bool.not_eq_true,
    ← imp_iff_not_or]

/-- The entry stored is the one that R30 and R31 describe. -/
theorem writtenEntry_eq (old : Entry) {f : UnitWriteFields} {st : UnitState} (h : f.state = unitStateByte st) :
    writtenEntry old st f = entryWritten old f := by
  unfold writtenEntry entryWritten settleLearned
  rw [h, codedPhase_eq]
  cases st <;> simp [unitStateByte]

theorem chainsOk_written_iff {s : State} {f : UnitWriteFields} {st : UnitState} (hs : s.tableOk)
    (h : f.state = unitStateByte st) :
    chainsOk (putEntry s.units f.index.toNat (writtenEntry (unitAt s f.index.toNat) st f)) = true ↔ writeChainsGood s f := by
  rw [writtenEntry_eq _ h]
  exact chainsOk_iff (rising_putEntry hs.rising _ _)

theorem inExchange_iff (s : State) (i : Nat) :
    inExchange s i = true ↔
      i ∈ s.inFlight ∨ ∃ ph x, (laneOf s ph).exchange = some x ∧ ∃ t ∈ x.targets, t.1 = i := by
  rw [inExchange, Bool.or_eq_true, List.contains_iff_mem, List.any_eq_true]
  refine or_congr_right (exists_congr fun ph => ?_)
  cases h : (laneOf s ph).exchange <;> simp [mem_allPhases]

/-- The in-use rule, in its own words (R29). -/
theorem inUse_iff (s : State) (i : Nat) : inUse s i = true ↔ entryUsed s i := by
  rw [inUse, Bool.or_eq_true, inExchange_iff, entryUsed]
  simp only [pendingTarget, List.any_eq_true, Bool.and_eq_true, beq_iff_eq]

/-- The fifth check refuses just the writes that do not keep an entry in use where it is. -/
theorem writeKeeps_iff {s : State} {f : UnitWriteFields} {st : UnitState} (h : f.state = unitStateByte st) :
    writeKeeps s f ↔ (inUse s f.index.toNat && wouldMove (unitAt s f.index.toNat) st f.address) = false := by
  unfold writeKeeps
  rw [← inUse_iff, writesLive_iff h, Bool.and_eq_false_iff, ← Bool.not_eq_true, ← imp_iff_not_or]
  refine imp_congr_right fun _ => ?_
  cases st <;> simp [wouldMove]

/-! ### The request -/

/-- The checks after the first, in their order (R24). -/
theorem checkWrite_of_state (s : State) {f : UnitWriteFields} {st : UnitState} (hf : fieldsChecked f = some st) :
    checkWrite s f =
      match takenBy s f st with
      | some h => .error (.addressTaken h)
      | none =>
        if (st == .active || st == .silent) &&
            !routeOk s.units ((phaseOfCode f.phase).getD none) (f.route.map BitVec.toNat) then .error .badRoute
        else if !chainsOk (putEntry s.units f.index.toNat (writtenEntry (unitAt s f.index.toNat) st f)) then .error .badChain
        else if inUse s f.index.toNat && wouldMove (unitAt s f.index.toNat) st f.address then .error .entryInUse
        else .ok st := by
  simp only [checkWrite, hf]
  rfl

/-- The state after a write that passes: the entry stored, and its address taken off the discovery list (R30 to R32). -/
def writeStored (f : UnitWriteFields) (s : State) : State :=
  { s with
    units := putEntry s.units f.index.toNat (entryWritten (unitAt s f.index.toNat) f)
    discovery := if f.state = 0 then s.discovery else s.discovery.erase f.address }

theorem serveUnitWrite_badField {s : State} {f : UnitWriteFields} (h : ¬writeFieldsGood f) :
    serveUnitWrite f s = (s, [0x03]) := by
  simp only [serveUnitWrite, checkWrite, fieldsChecked_eq_none h]
  rfl

theorem serveUnitWrite_taken {s : State} {f : UnitWriteFields} (hs : s.tableOk) (hg : writeFieldsGood f) (h0 : f.state ≠ 0)
    {i : Nat} (hi : i ≠ f.index.toNat) (ha : (unitAt s i).address = some f.address) :
    serveUnitWrite f s = (s, 0x33 :: bytes2 i) := by
  obtain ⟨st, hst, hf⟩ := exists_state_of_good hg
  simp only [serveUnitWrite, checkWrite_of_state s hf, takenBy_eq_some hs hst h0 hi ha]
  rfl

theorem serveUnitWrite_badRoute {s : State} {f : UnitWriteFields} (hs : s.tableOk) (hg : writeFieldsGood f)
    (hfree : writeAddressFree s f) (hroute : ¬writeRouteGood s f) : serveUnitWrite f s = (s, [0x32]) := by
  obtain ⟨st, hst, hf⟩ := exists_state_of_good hg
  rw [writeRouteGood_iff hst, Bool.not_eq_false] at hroute
  simp only [serveUnitWrite, checkWrite_of_state s hf, takenBy_eq_none hs hst hfree, hroute, ↓reduceIte]
  rfl

theorem serveUnitWrite_badChain {s : State} {f : UnitWriteFields} (hs : s.tableOk) (hg : writeFieldsGood f)
    (hfree : writeAddressFree s f) (hroute : writeRouteGood s f) (hchain : ¬writeChainsGood s f) :
    serveUnitWrite f s = (s, [0x31]) := by
  obtain ⟨st, hst, hf⟩ := exists_state_of_good hg
  rw [writeRouteGood_iff hst] at hroute
  rw [← chainsOk_written_iff hs hst, Bool.not_eq_true] at hchain
  simp only [serveUnitWrite, checkWrite_of_state s hf, takenBy_eq_none hs hst hfree, hroute, hchain, Bool.not_false,
    Bool.false_eq_true, ↓reduceIte]
  rfl

theorem serveUnitWrite_inUse {s : State} {f : UnitWriteFields} (hs : s.tableOk) (hg : writeFieldsGood f)
    (hfree : writeAddressFree s f) (hroute : writeRouteGood s f) (hchain : writeChainsGood s f) (hkeeps : ¬writeKeeps s f) :
    serveUnitWrite f s = (s, [0x30]) := by
  obtain ⟨st, hst, hf⟩ := exists_state_of_good hg
  rw [writeRouteGood_iff hst] at hroute
  rw [← chainsOk_written_iff hs hst] at hchain
  rw [writeKeeps_iff hst, Bool.not_eq_false] at hkeeps
  simp only [serveUnitWrite, checkWrite_of_state s hf, takenBy_eq_none hs hst hfree, hroute, hchain, hkeeps, Bool.not_true,
    Bool.false_eq_true, ↓reduceIte]
  rfl

theorem serveUnitWrite_stored {s : State} {f : UnitWriteFields} (hs : s.tableOk) (hg : writeFieldsGood f)
    (hfree : writeAddressFree s f) (hroute : writeRouteGood s f) (hchain : writeChainsGood s f) (hkeeps : writeKeeps s f) :
    serveUnitWrite f s = (writeStored f s, 0x00 :: entryBytes (writeStored f s) f.index.toNat) := by
  obtain ⟨st, hst, hf⟩ := exists_state_of_good hg
  have hstore : storeEntry st f s = writeStored f s := by
    simp only [storeEntry, writeStored, writtenEntry_eq _ hst, state_zero_iff hst]
  rw [writeRouteGood_iff hst] at hroute
  rw [← chainsOk_written_iff hs hst] at hchain
  rw [writeKeeps_iff hst] at hkeeps
  simp only [serveUnitWrite, checkWrite_of_state s hf, takenBy_eq_none hs hst hfree, hroute, hchain, hkeeps, Bool.not_true,
    Bool.false_eq_true, ↓reduceIte, hstore]
  rfl

end Sys2Proof.Machine

/-! ## Requests of the unit table answered: O44, O45 -/

namespace Sys2Proof.Machine

open Sys2Proof.Claims

/-! ### Requests at intake -/

/-- A command that is a request is its request at intake (R148, log 6). -/
theorem exec_of_requestOf {c : Instr} {tag : Byte} {rq : Request} (h : requestOf c = some (tag, rq)) (s : State) :
    exec c s = .next (transmit (intakeRequest tag rq s)) := by
  cases c <;> cases h <;> rfl

/-- A response and the transmitter's choice after it change the uplink and the counter of free values alone. -/
theorem transmit_respond_rest (f : Frame) (s : State) :
    transmit (respond f s) = { s with uli := (transmit (respond f s)).uli, draws := (respond f s).draws } := by
  generalize hu : (transmit (respond f s)).uli = u
  rw [transmit_rest (respond f s), hu, respond_frame f s]

/-- A request that finds room is answered with what its owner makes of the state, whatever the transmitter does before it:
of the uplink the owner leaves all as it is. -/
theorem answers_of_serve {c : Instr} {s r : State} {kind tag : Byte} {rq : Request} {content : List Byte}
    (hc : requestOf c = some (tag, rq)) (hk : requestKind rq + 0x80 = kind) (hroom : s.uli.responses.length < 4)
    (hserve : ∀ u, serve rq { s with uli := u } = ({ r with uli := u }, content)) : answers c s kind tag content r := by
  have hs := hserve (transmit s).uli
  rw [← transmit_rest s] at hs
  have hexec : exec c s = .next (transmit (respond { kind, tag, content } { r with uli := (transmit s).uli })) := by
    rw [exec_of_requestOf hc, intakeRequest_room hroom, perform, hs, hk]
  rw [transmit_respond_rest] at hexec
  exact ⟨_, _, hexec, responseQueued_respond (t := { r with uli := (transmit s).uli }) { kind, tag, content } rfl⟩

/-! ### UNIT WRITE -/

/-- Settles O45: check by check, the first that fails answers. -/
theorem unitWriteRefusedByFirstFailingCheck : Obligations.UnitWriteRefusedByFirstFailingCheck := by
  intro tag f s hs hroom refused
  have hanswer : ∀ {content}, (∀ u, serveUnitWrite f { s with uli := u } = ({ s with uli := u }, content)) → refused content :=
    fun h => answers_of_serve (rq := .unitWrite f) rfl rfl hroom h
  exact ⟨fun hg => hanswer fun _ => serveUnitWrite_badField hg, fun hg =>
    ⟨fun _ h0 hi ha => hanswer fun u => serveUnitWrite_taken (s := { s with uli := u }) hs hg h0 hi ha, fun hfree =>
      ⟨fun hroute => hanswer fun _ => serveUnitWrite_badRoute hs hg hfree hroute, fun hroute =>
        ⟨fun hchain => hanswer fun _ => serveUnitWrite_badChain hs hg hfree hroute hchain, fun hchain hkeeps =>
          hanswer fun _ => serveUnitWrite_inUse hs hg hfree hroute hchain hkeeps⟩⟩⟩⟩

/-- Settles O44: the table with the entry put, and the discovery list without its address. -/
theorem unitWriteStoresEntry : Obligations.UnitWriteStoresEntry := by
  intro tag f s hs hroom hg hfree hroute hchain hkeeps
  refine ⟨(writeStored f s).units, (writeStored f s).discovery, answers_of_serve rfl rfl hroom fun _ =>
    serveUnitWrite_stored hs hg hfree hroute hchain hkeeps, entryAt_putEntry_self hs.rising _ _,
    fun j hj => entryAt_putEntry_of_ne _ _ hj, fun h0 => if_pos h0, fun h0 => ?_⟩
  have herase : (writeStored f s).discovery = s.discovery.erase f.address := if_neg h0
  rw [herase]
  exact ⟨hs.nodup.not_mem_erase, fun a ha => List.mem_erase_of_ne ha⟩

end Sys2Proof.Machine

/-! ## The requests that read (R34, R35, R127, R154, R175): O46 -/

namespace Sys2Proof.Machine

open Sys2Proof.Claims

/-! ### Bytes and the numbers they spell (R172) -/

/-- Two bytes spell their number again, if it fits 16 bits. -/
theorem word_bytes2 {n : Nat} (h : n ≤ 65535) :
    (BitVec.ofNat 8 (n / 256)).toNat * 256 + (BitVec.ofNat 8 n).toNat = n := by
  simp only [BitVec.toNat_ofNat]
  omega

/-- Four bytes spell their number again, if it fits 32 bits. -/
theorem word_bytes4 {n : Nat} (h : n < 4294967296) :
    ((BitVec.ofNat 8 (n / 16777216)).toNat * 256 + (BitVec.ofNat 8 (n / 65536)).toNat) * 65536 +
      ((BitVec.ofNat 8 (n / 256)).toNat * 256 + (BitVec.ofNat 8 n).toNat) = n := by
  simp only [BitVec.toNat_ofNat]
  omega

/-- A 32-bit field is sent as the number it is. -/
theorem field4_eq_bytes4 (x : BitVec 32) : field4 x = bytes4 x.toNat := by
  simp [field4, bytes4, BitVec.extractLsb', Nat.shiftRight_eq_div_pow]

/-! ### The record of an entry (R175) -/

/-- The 26 bytes, one after the other. -/
theorem entryBytes_eq (s : State) (i : Nat) :
    entryBytes s i =
      let e := unitAt s i
      let address := (e.address.map BitVec.toNat).getD 0
      let hop := fun k => e.route.getD k 0xFFFF
      [BitVec.ofNat 8 (i / 256), BitVec.ofNat 8 i, unitStateByte e.state, BitVec.ofNat 8 (address / 16777216),
        BitVec.ofNat 8 (address / 65536), BitVec.ofNat 8 (address / 256), BitVec.ofNat 8 address, phaseByte e.phase,
        BitVec.ofNat 8 (e.successor.getD 0xFFFF / 256), BitVec.ofNat 8 (e.successor.getD 0xFFFF), byteOf e.route.length,
        BitVec.ofNat 8 (hop 0 / 256), BitVec.ofNat 8 (hop 0), BitVec.ofNat 8 (hop 1 / 256), BitVec.ofNat 8 (hop 1),
        BitVec.ofNat 8 (hop 2 / 256), BitVec.ofNat 8 (hop 2), byteOf e.groups.length, e.groups.getD 0 0, e.groups.getD 1 0,
        e.groups.getD 2 0, e.groups.getD 3 0, byteOf (e.quality.getD 0xFF), byteOf e.silence, byteOf e.conflict,
        boolByte (inUse s i)] := rfl

theorem getD_le {xs : List Nat} {b : Nat} (h : ∀ x ∈ xs, x ≤ b) (k : Nat) : xs.getD k b ≤ b := by
  rw [List.getD_eq_getElem?_getD]
  cases hk : xs[k]? with
  | none => exact le_refl b
  | some x => exact h x (List.mem_of_getElem? hk)

theorem option_getD_le {o : Option Nat} {b : Nat} (h : ∀ x, o = some x → x ≤ b) : o.getD b ≤ b := by
  cases o with
  | none => exact le_refl b
  | some x => exact h x rfl

theorem byteOf_toNat {n : Nat} (h : n ≤ 255) : (byteOf n).toNat = n := by
  rw [byteOf, BitVec.toNat_ofNat]
  omega

theorem boolByte_inUse (s : State) (i : Nat) :
    (entryUsed s i → (boolByte (inUse s i)).toNat = 1) ∧ (¬entryUsed s i → (boolByte (inUse s i)).toNat = 0) := by
  rw [← inUse_iff]
  cases inUse s i <;> simp [boolByte]

/-- An entry that fits its record is sent field by field. -/
theorem entryRecord_entryBytes {s : State} {i : Nat} (hi : i ≤ 1023) (h : entryFits (unitAt s i)) :
    entryRecord i (unitAt s i) (entryUsed s i) (entryBytes s i) := by
  obtain ⟨hhops, hroute, hgroups, hsuccessor, hquality, hsilence, hconflict⟩ := h
  obtain ⟨hused, hunused⟩ := boolByte_inUse s i
  rw [entryBytes_eq]
  refine ⟨rfl, word_bytes2 (by omega), ?_, ?_, ?_, word_bytes2 (option_getD_le hsuccessor), byteOf_toNat (by omega),
    fun k hk => ?_, byteOf_toNat (by omega), fun k hk => ?_, byteOf_toNat (option_getD_le hquality),
    byteOf_toNat hsilence, byteOf_toNat hconflict, hused, hunused⟩
  · show (unitStateByte (unitAt s i).state).toNat = _
    cases (unitAt s i).state <;> rfl
  · refine (word_bytes4 ?_).trans ?_
    · cases (unitAt s i).address with
      | none => decide
      | some a => exact a.isLt
    · cases (unitAt s i).address <;> rfl
  · show (phaseByte (unitAt s i).phase).toNat = _
    rcases (unitAt s i).phase with _ | _ | _ | _ <;> rfl
  · have hword := word_bytes2 (getD_le hroute k)
    interval_cases k <;> exact hword
  · interval_cases k <;> rfl

/-! ### The requests -/

/-- Settles O46: the record byte by byte, and each request's answer read off the state it finds. -/
theorem readRequestsAnswerFromState : Obligations.ReadRequestsAnswerFromState := by
  refine ⟨fun s i hi h => entryRecord_entryBytes hi h, fun tag s hs hroom => ⟨fun start count => ⟨fun h => ?_, fun h => ?_⟩,
    fun address => ⟨fun i hi => ?_, fun h => ?_⟩, fun option => ⟨fun h => ?_, fun h => ?_⟩, ?_⟩⟩
  · exact answers_of_serve rfl rfl hroom fun u => if_pos h
  · exact answers_of_serve rfl rfl hroom fun u => if_neg (Nat.not_lt.2 h)
  · refine answers_of_serve rfl rfl hroom fun u => ?_
    simp only [serve, serveUnitRead, holderOf_eq_some hs hi]
    rfl
  · refine answers_of_serve rfl rfl hroom fun u => ?_
    simp only [serve, serveUnitRead, holderOf_eq_none hs h]
    rfl
  · exact answers_of_serve rfl rfl hroom fun u => if_pos h
  · refine answers_of_serve rfl rfl hroom fun u => ?_
    have hbytes : field4 = fun a : Address => bytes4 a.toNat := funext field4_eq_bytes4
    simp only [serve, serveDiscoveryRead, if_neg (Nat.not_lt.2 h), hbytes]
    split <;> rfl
  · exact answers_of_serve rfl rfl hroom fun u => rfl

end Sys2Proof.Machine

/-! ## What is kept by every command on the uplink

The receiver, the intake and the transmitter hand requests to their owners, and beside that change the uplink, the flags
and the counter of free values alone. So a relation that those changes and the owners keep is kept by all of them. -/

namespace Sys2Proof.Machine

/-- A relation between the state before and after that composes, that allows any change of the uplink, the flags and the
counter of free values, and that every owner of a request keeps. -/
structure KeptByUplink (R : State → State → Prop) : Prop where
  trans : ∀ {a b c : State}, R a b → R b c → R a c
  uplink : ∀ (s : State) (u : Uli) (e : Events) (d : Nat), R s { s with uli := u, events := e, draws := d }
  serve : ∀ (rq : Request) (s : State), R s (serve rq s).1

namespace KeptByUplink

variable {R : State → State → Prop}

theorem refl (h : KeptByUplink R) (s : State) : R s s := h.uplink s s.uli s.events s.draws

theorem uli (h : KeptByUplink R) (s : State) (u : Uli) : R s { s with uli := u } := h.uplink s u s.events s.draws

theorem transmit (h : KeptByUplink R) (s : State) : R s (transmit s) := by
  rw [transmit_rest]
  exact h.uli s _

theorem respond (h : KeptByUplink R) (f : Frame) (s : State) : R s (respond f s) := by
  rw [respond_frame]
  exact h.uplink s _ s.events _

theorem raise (h : KeptByUplink R) (f : Flag) (s : State) : R s (raise f s) := by
  rw [raise_frame]
  exact h.uplink s _ _ s.draws

/-! ### Intake (R148 to R150) -/

theorem perform (h : KeptByUplink R) (tag : Byte) (rq : Request) (s : State) : R s (perform tag rq s) :=
  h.trans (h.trans (h.transmit s) (h.serve rq _)) (h.respond _ _)

theorem takeFrame (h : KeptByUplink R) (f : Frame) (s : State) : R s (takeFrame f s) := by
  unfold Machine.takeFrame
  split
  · exact h.perform _ _ s
  · exact h.trans (h.transmit s) (h.respond _ _)
  · exact h.trans (h.transmit s) (h.respond _ _)

theorem holdFrame (h : KeptByUplink R) (f : Frame) (s : State) : R s (holdFrame f s) := by
  unfold Machine.holdFrame
  split
  · exact h.uli s _
  · exact h.trans (h.raise _ s) (h.transmit _)

theorem intakeFrame (h : KeptByUplink R) (f : Frame) (s : State) : R s (intakeFrame f s) := by
  unfold Machine.intakeFrame
  split
  · exact h.takeFrame f s
  · exact h.holdFrame f s

theorem intakeRequest (h : KeptByUplink R) (tag : Byte) (rq : Request) (s : State) : R s (intakeRequest tag rq s) := by
  unfold Machine.intakeRequest
  split
  · exact h.perform tag rq s
  · exact h.holdFrame _ s

theorem takeSlot (h : KeptByUplink R) (s : State) : R s (takeSlot s) := by
  unfold Machine.takeSlot
  split
  · exact h.refl s
  · split
    · exact h.trans (h.uli s _) (h.takeFrame _ _)
    · exact h.refl s

/-! ### The receiver and the transmitter (R144 to R147, R152) -/

theorem discardFrame (h : KeptByUplink R) (s : State) : R s (discardFrame s) :=
  h.trans (h.trans (h.uli s _) (h.raise _ _)) (h.transmit _)

theorem checkFrame (h : KeptByUplink R) (length : Byte) (body : List Byte) (crc1 crc2 : Byte) (s : State) :
    R s (checkFrame length body crc1 crc2 s) := by
  unfold Machine.checkFrame
  split
  · exact h.trans (h.uli s _) (h.intakeFrame _ _)
  · exact h.discardFrame s

theorem takeByte (h : KeptByUplink R) (b : Byte) (s : State) : R s (takeByte b s) := by
  unfold Machine.takeByte
  split
  · split
    · exact h.uli s _
    · exact h.refl s
  · split
    · exact h.uli s _
    · exact h.discardFrame s
  · dsimp only
    split <;> exact h.uli s _
  · split
    · exact h.uli s _
    · exact h.checkFrame _ _ _ _ s
  · exact h.uli s _
  · exact h.uli s _
  · exact h.uli s _

theorem takeFault (h : KeptByUplink R) (s : State) : R s (takeFault s) := by
  unfold Machine.takeFault
  split
  · exact h.refl s
  all_goals exact h.discardFrame s

theorem frameSent (h : KeptByUplink R) (s : State) : R s (frameSent s) := by
  unfold Machine.frameSent
  split
  · exact h.refl s
  · exact h.trans (h.uli s _) (h.transmit _)
  · exact h.trans (h.trans (h.uli s _) (h.takeSlot _)) (h.transmit _)

/-! ### The commands -/

/-- The commands that the uplink takes: the requests, and those on its wires. -/
def takes : Instr → Bool
  | .receivedByte _ _ | .interByteTimeout | .transmitterFree | .waitingSlotTaken | .badKind _ _ _ => true
  | c => (requestOf c).isSome

theorem exec_request (h : KeptByUplink R) {c : Instr} {tag : Byte} {rq : Request} (hc : requestOf c = some (tag, rq))
    (s : State) : ∃ t, exec c s = .next t ∧ R s t :=
  ⟨_, exec_of_requestOf hc s, h.trans (h.intakeRequest tag rq s) (h.transmit _)⟩

/-- Every command that the uplink takes keeps the relation. -/
theorem exec (h : KeptByUplink R) {c : Instr} (hc : takes c = true) (s : State) :
    ∃ t, exec c s = .next t ∧ R s t := by
  cases hrq : requestOf c with
  | some p => exact h.exec_request hrq s
  | none =>
    cases c with
    | receivedByte byte fault =>
      refine ⟨_, rfl, h.trans ?_ (h.transmit _)⟩
      split
      · exact h.takeFault s
      · exact h.takeByte byte s
    | interByteTimeout =>
      refine ⟨_, rfl, h.trans ?_ (h.transmit _)⟩
      split
      · exact h.discardFrame s
      · exact h.refl s
    | transmitterFree =>
      refine ⟨_, rfl, h.trans ?_ (h.transmit _)⟩
      split
      · exact h.frameSent s
      · exact h.refl s
    | waitingSlotTaken => exact ⟨_, rfl, h.trans (h.takeSlot s) (h.transmit _)⟩
    | badKind kind tag content => exact ⟨_, rfl, h.trans (h.intakeFrame _ s) (h.transmit _)⟩
    | _ => simp [takes, hrq] at hc

end KeptByUplink

end Sys2Proof.Machine

/-! ## The unit table and the discovery list at all times (R21 to R23, R126): O7

Only a UNIT WRITE that passes its checks and a learning report change the table, and beside them DISCOVERY READ and RESTART
the discovery list. Every other operation leaves both as they are. -/

namespace Sys2Proof.Machine

open Sys2Proof.Claims

/-- The properties of the table and the discovery list are carried from one state to another. -/
def TableKept (s t : State) : Prop := s.tableOk → t.tableOk

theorem TableKept.refl (s : State) : TableKept s s := id

theorem TableKept.trans {a b c : State} (h : TableKept a b) (k : TableKept b c) : TableKept a c := k ∘ h

theorem tableKept_of_eq {s t : State} (hu : t.units = s.units) (hd : t.discovery = s.discovery) : TableKept s t := by
  unfold TableKept State.tableOk discoveryOk
  rw [hu, hd]
  exact id

theorem TableKept.foldl {α : Type} (f : State → α → State) (h : ∀ s a, TableKept s (f s a)) :
    ∀ (as : List α) (s : State), TableKept s (as.foldl f s)
  | [], s => .refl s
  | a :: as, s => (h s a).trans (TableKept.foldl f h as (f s a))

theorem GrantWork.table {s t : State} (h : GrantWork s t) : TableKept s t := tableKept_of_eq h.units h.discovery

theorem LaneWork.table {s t : State} (h : LaneWork s t) : TableKept s t := h.grant.table

theorem transmit_table (s : State) : TableKept s (transmit s) := tableKept_of_eq (transmit_units s) (transmit_discovery s)

theorem setPtu_table (s : State) (ph : Phase) (u : Ptu) : TableKept s (setPtu s ph u) := tableKept_of_eq rfl rfl

theorem setLcm_table (s : State) (ph : Phase) (m : Lcm) : TableKept s (setLcm s ph m) := tableKept_of_eq rfl rfl

theorem commitRecords_table (rs : List Record) (s : State) : TableKept s (commitRecords rs s) := by
  obtain ⟨hunits, hdiscovery, -⟩ := commitRecords_kept rs s
  exact tableKept_of_eq hunits hdiscovery

/-! ### An entry stored -/

/-- A discovery list shortened, or left as it is. -/
theorem discoveryOk_of_sublist {s t : State} (hs : discoveryOk s) (hsub : t.discovery.Sublist s.discovery)
    (hnew : ∀ a ∈ t.discovery, ∀ i, (entryAt t.units i).address ≠ some a) : discoveryOk t := by
  obtain ⟨hlength, hnodup, -⟩ := hs
  exact ⟨hsub.length_le.trans hlength, hnodup.sublist hsub, hnew⟩

theorem tableOk_clearDiscovery {s t : State} (hs : s.tableOk) (hu : t.units = s.units) (hd : t.discovery = []) :
    t.tableOk := by
  obtain ⟨hwf, hdistinct, hchains, hroutes, hclean, hdiscovery⟩ := hs
  refine ⟨hu ▸ hwf, hu ▸ hdistinct, hu ▸ hchains, hu ▸ hroutes, hu ▸ hclean, discoveryOk_of_sublist hdiscovery ?_ ?_⟩
  · rw [hd]
    exact List.nil_sublist _
  · rw [hd]
    exact fun a ha => absurd ha List.not_mem_nil

/-- What one entry may be, apart from its address and the redirections (R21 to R23). -/
def entryOk (i : Nat) (e : Entry) : Prop :=
  (e.route.length ≤ 3 ∧ i ∉ e.route) ∧ (e.state = .empty → e = emptyEntry) ∧ (e.state ≠ .empty → e.address ≠ none)

theorem State.tableOk.entry {s : State} (hs : s.tableOk) (i : Nat) : entryOk i (unitAt s i) := by
  obtain ⟨-, -, -, hroutes, hclean, -⟩ := hs
  exact ⟨hroutes i, hclean i⟩

/-- A property of every entry, after one has been put: of the one put, and of the others as they were. -/
theorem forall_entryAt_putEntry {units : List (Nat × Entry)} (hr : rising units) {i : Nat} {e : Entry}
    {p : Nat → Entry → Prop} (he : p i e) (h : ∀ j, j ≠ i → p j (entryAt units j)) (j : Nat) :
    p j (entryAt (putEntry units i e) j) := by
  by_cases hj : j = i
  · subst hj
    rwa [entryAt_putEntry_self hr]
  · rw [entryAt_putEntry_of_ne _ _ hj]
    exact h j hj

/-- An entry stored that is sound itself, whose address no other entry holds and no longer is on the discovery list, in a
table whose redirections still reach live units. -/
theorem tableOk_putEntry {s : State} (hs : s.tableOk) {i : Nat} (hi : i < 1024) {e : Entry} (he : entryOk i e)
    (haddress : ∀ a, e.address = some a → ∀ j, j ≠ i → (unitAt s j).address ≠ some a)
    (hchains : chainsReach (putEntry s.units i e)) {ds : List Address} (hsub : ds.Sublist s.discovery)
    (hds : ∀ a ∈ ds, e.address ≠ some a) :
    ({ s with units := putEntry s.units i e, discovery := ds } : State).tableOk := by
  have hself := entryAt_putEntry_self hs.rising i e
  have hother : ∀ j, j ≠ i → entryAt (putEntry s.units i e) j = unitAt s j := fun j hj => entryAt_putEntry_of_ne _ _ hj
  have hentries : ∀ j, entryOk j (entryAt (putEntry s.units i e) j) :=
    forall_entryAt_putEntry hs.rising he fun j _ => hs.entry j
  refine ⟨tableWf_putEntry hs.wf hi e, fun j k a hj hk => ?_, hchains, fun j => (hentries j).1, fun j => (hentries j).2,
    discoveryOk_of_sublist hs.discovery hsub fun a ha => ?_⟩
  · by_cases hji : j = i <;> by_cases hki : k = i
    · rw [hji, hki]
    · subst hji
      rw [hself] at hj
      rw [hother k hki] at hk
      exact absurd hk (haddress a hj k hki)
    · subst hki
      rw [hself] at hk
      rw [hother j hji] at hj
      exact absurd hj (haddress a hk j hji)
    · rw [hother j hji] at hj
      rw [hother k hki] at hk
      exact hs.distinct j k a hj hk
  · exact forall_entryAt_putEntry hs.rising (p := fun _ e => e.address ≠ some a) (hds a ha) fun j _ =>
      hs.unheld (hsub.subset ha) j

/-- A live entry that stays live, with its address and its route. -/
theorem tableOk_relearned {s : State} (hs : s.tableOk) {i : Nat} {e : Entry} (hold : isLive (unitAt s i) = true)
    (hnew : isLive e = true) (haddress : e.address = (unitAt s i).address) (hroute : e.route = (unitAt s i).route) :
    ({ s with units := putEntry s.units i e } : State).tableOk := by
  have hlive : ∀ j, isLive (entryAt (putEntry s.units i e) j) = isLive (entryAt s.units j) :=
    forall_entryAt_putEntry hs.rising (p := fun j f => isLive f = isLive (entryAt s.units j)) (hnew.trans hold.symm)
      fun _ _ => rfl
  have hsame : ∀ j, isLive (entryAt s.units j) = false → entryAt (putEntry s.units i e) j = entryAt s.units j :=
    fun j hj => entryAt_putEntry_of_ne _ _ fun hji => by
      subst hji
      exact absurd (hj.symm.trans hold) (by decide)
  have hchains : chainsReach (putEntry s.units i e) := fun j hj => by
    have hdead := (hlive j).symm.trans (not_live_of_redirected hj)
    rw [followChain_congr hlive hsame]
    exact hs.chains j (by rw [← hsame j hdead]; exact hj)
  have hentry : entryOk i e := by
    obtain ⟨hr, -, ha⟩ := hs.entry i
    exact ⟨hroute ▸ hr, fun h0 => absurd h0 (not_empty_of_live hnew), fun _ => haddress ▸ ha (not_empty_of_live hold)⟩
  refine tableOk_putEntry hs (index_lt_of_state_ne hs.wf (not_empty_of_live hold)) hentry (fun a ha j hj hja => ?_) hchains
    (List.Sublist.refl _) fun a ha => haddress ▸ hs.unheld ha i
  exact hj (hs.distinct j i a hja (haddress ▸ ha))

/-! ### Learning (R119 to R124, R126) -/

/-- What an answer teaches a live entry is neither its address nor its route, and it leaves the entry ACTIVE. -/
theorem learnedEntry_kept (ans : KeptAnswer) (e : Entry) :
    (learnedEntry ans e).1.state = .active ∧ (learnedEntry ans e).1.address = e.address ∧
      (learnedEntry ans e).1.route = e.route := by
  unfold learnedEntry
  dsimp only
  split
  · exact ⟨rfl, rfl, rfl⟩
  · split
    · exact ⟨rfl, rfl, rfl⟩
    · split
      · exact ⟨rfl, rfl, rfl⟩
      · split <;> exact ⟨rfl, rfl, rfl⟩

/-- An address that no entry holds, not yet listed, finds room on the discovery list. -/
theorem tableOk_discovered {s : State} (hs : s.tableOk) {a : Address} (hfree : ∀ i, (unitAt s i).address ≠ some a)
    (hnew : a ∉ s.discovery) (hroom : s.discovery.length < 32) :
    ({ s with discovery := s.discovery ++ [a] } : State).tableOk := by
  obtain ⟨hwf, hdistinct, hchains, hroutes, hclean, -, hnodup, hlisted⟩ := hs
  refine ⟨hwf, hdistinct, hchains, hroutes, hclean, ?_, ?_, fun b hb => ?_⟩
  · show (s.discovery ++ [a]).length ≤ 32
    rw [List.length_append, List.length_singleton]
    omega
  · exact List.nodup_append'.2 ⟨hnodup, List.nodup_singleton a, by simpa using hnew⟩
  · rcases List.mem_append.1 hb with hb | hb
    · exact hlisted b hb
    · rw [List.mem_singleton.1 hb]
      exact hfree

theorem offerDiscovery_table {a : Address} {s : State} (hfree : ∀ i, (unitAt s i).address ≠ some a) :
    TableKept s (offerDiscovery a s) := by
  unfold offerDiscovery
  split
  · exact .refl s
  · rename_i hnew
    split
    · exact TableKept.trans (fun hs => tableOk_discovered hs hfree (by simpa using hnew) ‹_›) (raise_work _ _).table
    · exact (raise_work _ s).table

theorem applyAnswer_table (ans : KeptAnswer) (s : State) : TableKept s (applyAnswer ans s) := fun hs => by
  unfold applyAnswer
  split
  · dsimp only
    split
    · rename_i hlive
      obtain ⟨hactive, haddress, hroute⟩ := learnedEntry_kept ans (unitAt s ‹Nat›)
      exact (raiseIf_work _ _ _).table (tableOk_relearned hs hlive (by simp [isLive, hactive]) haddress hroute)
    · exact hs
  · rename_i hnone
    split
    · exact hs
    · exact offerDiscovery_table (address_ne_of_holderOf hs hnone) hs

theorem applySilence_table (i : Nat) (a : Address) (s : State) : TableKept s (applySilence i a s) := fun hs => by
  unfold applySilence
  dsimp only
  split
  · rename_i h
    obtain ⟨hlive, -⟩ := h
    refine tableOk_relearned hs hlive ?_ rfl rfl
    unfold isLive
    dsimp only
    split
    · rfl
    · exact hlive
  · exact hs

theorem applyLearning_table (rep : LearningReport) (s : State) : TableKept s (applyLearning rep s) := by
  unfold applyLearning
  dsimp only
  have h : TableKept s (rep.answers.foldl (fun st ans => applyAnswer ans st) s) :=
    TableKept.foldl _ (fun s a => applyAnswer_table a s) _ _
  split
  · exact h
  · exact h.trans (applySilence_table _ _ _)

theorem takeTableReport_table (n : Nat) (s : State) : TableKept s (takeTableReport n s) := by
  unfold takeTableReport
  split
  · exact .refl s
  · dsimp only
    have h := (grantWork_reports s s.endReports (s.learningReports.take n ++ ‹List LearningReport›)).table.trans
      (applyLearning_table ‹LearningReport› _)
    split
    · exact h.trans (tell_work _ _).table
    · exact h

/-! ### Boundaries, where reports may be taken -/

theorem takeReports_table (o : ReportOrder) (m n : Nat) (s : State) : TableKept s (takeReports o m n s) := by
  cases o with
  | neither => exact .refl s
  | queueOnly => exact (takeQueueReport_work _ s).table
  | tableOnly => exact takeTableReport_table _ s
  | queueThenTable => exact (takeQueueReport_work _ s).table.trans (takeTableReport_table _ _)
  | tableThenQueue => exact (takeTableReport_table _ s).trans (takeQueueReport_work _ _).table

theorem advanceExchange_table (ph : Phase) (ended : EndedHalf) (o : ReportOrder) (s : State) :
    TableKept s (advanceExchange ph ended o s) := by
  unfold advanceExchange
  split
  · exact .refl s
  · dsimp only
    have hend : ∀ (c : Option AbortCause) (l : Lane),
        TableKept s (endAtBoundary ph c ended.time o (setLane s ph l)) := fun c l =>
      (((laneWork_setLane s ph l).trans (endPart_work ph c _ _)).trans (landLane_work ph _)).table.trans
        (takeReports_table o _ _ _)
    split
    · exact hend _ _
    · split
      · exact hend _ _
      · exact ((laneWork_setLane s ph _).trans (laneWork_setLane _ ph _)).table

theorem laneAdvance_table (ph : Phase) (ended : EndedHalf) (o : ReportOrder) (s : State) :
    TableKept s (laneAdvance ph ended o s) := by
  unfold laneAdvance
  split
  · exact advanceExchange_table ph ended o s
  · exact advanceExchange_table ph ended o s
  · exact (startArmed_work ph s).table
  · exact (settleLane_work ph s).table
  all_goals exact .refl s

theorem laneBoundary_table (ph : Phase) (ended : EndedHalf) (v : Verdict) (o : ReportOrder) (s : State) :
    TableKept s (laneBoundary ph ended v o s) := by
  unfold laneBoundary
  dsimp only
  generalize (if (laneOf (laneAdvance ph ended o s) ph).state = .stopped ∧ (laneOf s ph).state ≠ .stopped then allPhases
    else [ph]) = asked
  have h := (laneAdvance_table ph ended o s).trans (tell_work asked _).table
  split
  · exact h.trans (opportunity_work ph v _).table
  · exact h

theorem measure_table (ph : Phase) (ended : EndedHalf) (s : State) : TableKept s (measure ph ended s) :=
  (setLcm_table s ph _).trans (measure_work ph ended s).table

theorem takeBoundary_table (ph : Phase) (mf : Bool) (o : ReportOrder) (s : State) :
    TableKept s (takeBoundary ph mf o s) := by
  unfold takeBoundary
  dsimp only
  refine ((setPtu_table s ph (nextHalf s.profile.w (ptuOf s ph))).trans ?_).trans (setLcm_table _ ph _)
  split
  · exact (measure_table ph _ _).trans (laneBoundary_table ph _ _ o _)
  · exact (laneBoundary_table ph _ _ o _).trans (measure_table ph _ _)

/-! ### The other commands of the mains -/

theorem laneFirstBoundary_table (ph : Phase) (s : State) : TableKept s (laneFirstBoundary ph s) := by
  unfold laneFirstBoundary
  dsimp only
  refine TableKept.trans (LaneWork.table (.trans ?_ (tell_work _ _))) (setLcm_table _ ph _)
  split
  · exact settleLane_work ph s
  · exact .refl s

theorem crossingLocking_table (ph : Phase) (s : State) : TableKept s (crossingLocking ph s) := by
  unfold crossingLocking
  dsimp only
  refine (setPtu_table s ph (crossLocking s.now s.profile.w (ptuOf s ph)).1).trans ?_
  split
  · exact (raise_work _ _).table.trans (laneFirstBoundary_table ph _)
  · exact .refl _

theorem phaseLost_table (ph : Phase) (time : Nat) (s : State) : TableKept s (phaseLost ph time s) :=
  ((setPtu_table s ph _).trans (raise_work _ _).table).trans
    ((setLcm_table _ ph _).trans ((laneLoss_work ph time _).trans (tell_work _ _)).table)

theorem takeMiss_table (ph : Phase) (s : State) : TableKept s (takeMiss ph s) := by
  unfold takeMiss
  dsimp only
  refine (setPtu_table s ph (takeMissTest (ptuOf s ph))).trans ?_
  split
  · exact .refl _
  · refine (raiseIf_work ((ptuOf s ph).timing == .locked) .gridCoast _).table.trans ?_
    split
    · exact phaseLost_table ph _ _
    · exact (tell_work _ _).table

theorem driveWindow_table (ph : Phase) (w index : Nat) (s : State) : TableKept s (driveWindow ph w index s) := by
  unfold driveWindow
  dsimp only
  split <;> exact tableKept_of_eq rfl rfl

theorem takeWindow_table (ph : Phase) (s : State) : TableKept s (takeWindow ph s) := by
  unfold takeWindow
  dsimp only
  split
  · exact .refl s
  · exact (setPtu_table s ph _).trans (driveWindow_table ph _ _ _)

theorem clockEvent_table (s : State) : TableKept s (clockEvent s) := by
  obtain ⟨hwork, -⟩ := clockEvent_from_applied s
  exact ((commitRecords_table (s.records.map (clockRecord s)) s).trans (tableKept_of_eq rfl rfl)).trans hwork.table

theorem secondTick_table (s : State) : TableKept s (secondTick s) :=
  TableKept.trans (b := { s with now := s.now + 1, clock := rolledClock s.clock }) (tableKept_of_eq rfl rfl)
    (clockEvent_table _)

/-! ### Requests, owner by owner -/

theorem serveSubmit_table (f : SubmitFields) (s : State) : TableKept s (serveSubmit f s).1 := by
  unfold serveSubmit
  split
  · exact .refl s
  · unfold admitNew
    dsimp only
    have h := fun rs tag serial => (commitRecords_table rs s).trans (tableKept_of_eq (s := commitRecords rs s)
      (t := { commitRecords rs s with tagCounter := tag, nextSerial := serial }) rfl rfl)
    split
    · exact (h _ _ _).trans (tell_work _ _).table
    · exact h _ _ _

theorem serveCancel_table (id : BitVec 32) (s : State) : TableKept s (serveCancel id s).1 := by
  unfold serveCancel
  have h : ∀ r, TableKept s (tell allPhases (putRecord r s)) := fun r =>
    (commitRecords_table _ s).trans (tell_work _ _).table
  split
  · exact .refl s
  · split
    · exact h _
    · exact h _
    · exact h _
    · exact .refl s
    · exact .refl s

theorem serveAdjust_table (id : BitVec 32) (priority options : Byte) (s : State) :
    TableKept s (serveAdjust id priority options s).1 := by
  unfold serveAdjust
  split
  · exact .refl s
  · split
    · exact .refl s
    · dsimp only
      split
      · exact (commitRecords_table _ s).trans (tell_work _ _).table
      · exact commitRecords_table _ s

theorem serveCollect_table (id : BitVec 32) (cls : Byte) (start : BitVec 16) (options : Byte) (s : State) :
    TableKept s (serveCollect id cls start options s).1 := by
  unfold serveCollect
  split
  · exact .refl s
  · split
    · exact .refl s
    · split
      · exact .refl s
      · split
        · exact .refl s
        · dsimp only
          split
          · exact tableKept_of_eq rfl rfl
          · exact .refl s

/-- RESTART empties the discovery list and leaves the table (R65). -/
theorem serveRestart_table (s : State) : TableKept s (serveRestart s).1 := fun hs => by
  unfold serveRestart
  exact (tell_work _ _).table (tableOk_clearDiscovery hs rfl rfl)

/-- The entry that a write with good fields stores is sound itself (R25, R30). -/
theorem entryOk_written {f : UnitWriteFields} (old : Entry) (hg : writeFieldsGood f) :
    entryOk f.index.toNat (entryWritten old f) := by
  obtain ⟨st, hst, -⟩ := exists_state_of_good hg
  rw [writeFieldsGood_iff hst] at hg
  obtain ⟨-, hhops, -, -, hlive, -⟩ := hg
  rw [← writtenEntry_eq old hst]
  have hroute : liveFieldsGood f → (f.route.map BitVec.toNat).length ≤ 3 ∧ f.index.toNat ∉ f.route.map BitVec.toNat := by
    rintro ⟨-, -, -, hself, -⟩
    refine ⟨by rwa [List.length_map], fun hmem => ?_⟩
    obtain ⟨r, hr, heq⟩ := List.mem_map.1 hmem
    exact hself (BitVec.eq_of_toNat_eq heq ▸ hr)
  cases st with
  | empty => exact ⟨⟨Nat.zero_le _, List.not_mem_nil⟩, fun _ => rfl, fun h => absurd rfl h⟩
  | redirected => exact ⟨⟨Nat.zero_le _, List.not_mem_nil⟩, nofun, fun _ => nofun⟩
  | active => exact ⟨hroute (hlive (.inl rfl)), nofun, fun _ => nofun⟩
  | silent => exact ⟨hroute (hlive (.inr rfl)), nofun, fun _ => nofun⟩

/-- The entry stored holds no address but the one written, and that only where it is not EMPTY. -/
theorem entryWritten_address {old : Entry} {f : UnitWriteFields} {a : Address}
    (h : (entryWritten old f).address = some a) : f.state ≠ 0 ∧ a = f.address := by
  unfold entryWritten at h
  split at h
  · cases h
  · split at h <;> exact ⟨‹_›, (Option.some.inj h).symm⟩

/-- A write that passes its checks keeps the properties of the table: each of its checks guards one of them. -/
theorem writeStored_ok {s : State} {f : UnitWriteFields} (hs : s.tableOk) (hg : writeFieldsGood f)
    (hfree : writeAddressFree s f) (hchain : writeChainsGood s f) : (writeStored f s).tableOk := by
  have hindex : f.index.toNat < 1024 := by
    obtain ⟨hindex, -⟩ := hg
    omega
  refine tableOk_putEntry hs hindex (entryOk_written _ hg) (fun a ha j hj => ?_) hchain ?_ fun a hmem ha => ?_
  · obtain ⟨h0, rfl⟩ := entryWritten_address ha
    exact hfree.resolve_left h0 j hj
  · split
    · exact List.Sublist.refl _
    · exact List.erase_sublist
  · obtain ⟨h0, rfl⟩ := entryWritten_address ha
    rw [if_neg h0] at hmem
    exact hs.nodup.not_mem_erase hmem

theorem serveUnitWrite_table (f : UnitWriteFields) (s : State) : TableKept s (serveUnitWrite f s).1 := fun hs => by
  by_cases hg : writeFieldsGood f
  swap
  · rwa [serveUnitWrite_badField hg]
  by_cases hfree : writeAddressFree s f
  swap
  · simp only [writeAddressFree, not_or, not_forall, not_not] at hfree
    obtain ⟨h0, i, hi, ha⟩ := hfree
    rwa [serveUnitWrite_taken hs hg h0 hi ha]
  by_cases hroute : writeRouteGood s f
  swap
  · rwa [serveUnitWrite_badRoute hs hg hfree hroute]
  by_cases hchain : writeChainsGood s f
  swap
  · rwa [serveUnitWrite_badChain hs hg hfree hroute hchain]
  by_cases hkeeps : writeKeeps s f
  · rw [serveUnitWrite_stored hs hg hfree hroute hchain hkeeps]
    exact writeStored_ok hs hg hfree hchain
  · rwa [serveUnitWrite_inUse hs hg hfree hroute hchain hkeeps]

theorem serveDiscoveryRead_table (option : Byte) (s : State) : TableKept s (serveDiscoveryRead option s).1 := by
  unfold serveDiscoveryRead
  split
  · exact .refl s
  · dsimp only
    split
    · exact fun hs => tableOk_clearDiscovery hs rfl rfl
    · exact .refl s

theorem serveProfileWrite_table (mask : BitVec 16) (values : List Byte) (s : State) :
    TableKept s (serveProfileWrite mask values s).1 := by
  unfold serveProfileWrite
  split
  · exact .refl s
  · dsimp only
    split
    · exact .refl s
    · refine TableKept.trans ?_ (tell_work _ _).table
      exact tableKept_of_eq rfl rfl

theorem serveClockSet_table (seconds : BitVec 32) (s : State) : TableKept s (serveClockSet seconds s).1 := by
  unfold serveClockSet
  split
  · exact .refl s
  · exact TableKept.trans (b := clockSetTo seconds s) (tableKept_of_eq rfl rfl) (clockEvent_table _)

theorem serveLaneControl_table (mask action : Byte) (s : State) : TableKept s (serveLaneControl mask action s).1 := by
  unfold serveLaneControl
  have h : ∀ (act : State → Phase → State), (∀ s ph, LaneWork s (act s ph)) → ∀ asked,
      TableKept s (tell asked ((maskLanes mask).foldl act s)) := fun act ha asked =>
    ((LaneWork.foldl act ha _ s).trans (tell_work _ _)).table
  split
  · exact .refl s
  · dsimp only
    split
    · exact h _ stopLane_work _
    · split
      · exact h _ pauseLane_work _
      · split
        · exact h _ resumeLane_work _
        · exact .refl s

theorem serveStatus_table (option : Byte) (s : State) : TableKept s (serveStatus option s).1 := by
  unfold serveStatus
  split
  · exact .refl s
  · exact tableKept_of_eq rfl rfl

theorem serveMaskWrite_table (mask : BitVec 16) (s : State) : TableKept s (serveMaskWrite mask s).1 := by
  unfold serveMaskWrite
  split
  · exact .refl s
  · exact tableKept_of_eq rfl rfl

theorem serve_table (rq : Request) (s : State) : TableKept s (serve rq s).1 := by
  cases rq with
  | submit f => exact serveSubmit_table f s
  | cancel id => exact serveCancel_table id s
  | adjust id priority options => exact serveAdjust_table id priority options s
  | collect id cls start options => exact serveCollect_table id cls start options s
  | restart => exact serveRestart_table s
  | unitWrite f => exact serveUnitWrite_table f s
  | unitRead form start count address =>
    have h : (serve (.unitRead form start count address) s).1 = s := serveUnitRead_state form start count address s
    rw [h]
    exact .refl s
  | discoveryRead option => exact serveDiscoveryRead_table option s
  | profileWrite mask values => exact serveProfileWrite_table mask values s
  | profileRead => exact .refl s
  | clockSet seconds => exact serveClockSet_table seconds s
  | laneControl mask action => exact serveLaneControl_table mask action s
  | status option => exact serveStatus_table option s
  | maskWrite mask => exact serveMaskWrite_table mask s

theorem tableKept_byUplink : KeptByUplink TableKept :=
  ⟨.trans, fun _ _ _ _ => tableKept_of_eq rfl rfl, serve_table⟩

/-! ### Every command -/

theorem abortRequestTaken_table (q : AbortRequest) (s : State) : TableKept s (abortRequestTaken q s) :=
  TableKept.trans (b := { s with abortRequests := s.abortRequests.erase q }) (tableKept_of_eq rfl rfl)
    ((takeAbortRequest_work q _).trans (tell_work _ _)).table

theorem passNotBefore_table (r : Record) (unit : Nat) (s : State) : TableKept s (passNotBefore r unit s) :=
  (commitRecords_table _ s).trans (tell_work _ _).table

theorem execCrossing_table (ph : Phase) (s : State) : ∃ t, exec (.crossing ph) s = .next t ∧ TableKept s t := by
  refine ⟨_, rfl, TableKept.trans ?_ (transmit_table _)⟩
  split
  · exact crossingLocking_table ph s
  · exact (setPtu_table s ph _).trans (tell_work _ _).table
  · exact (setPtu_table s ph _).trans (tell_work _ _).table
  · exact (setPtu_table s ph _).trans (laneSeen_work ph _).table

/-- An event that has come is taken, and one that has not leaves the state alone (log 3). -/
theorem tableKept_ite {c : Prop} [Decidable c] {s t : State} (h : TableKept s t) : TableKept s (if c then t else s) := by
  split
  · exact h
  · exact .refl s

theorem exec_table (c : Instr) (s : State) : ∃ t, exec c s = .next t ∧ TableKept s t := by
  by_cases hc : KeptByUplink.takes c = true
  · exact tableKept_byUplink.exec hc s
  cases c with
  | deviceReset fsel baud => exact ⟨_, rfl, fun _ => emptyTable_ok rfl rfl⟩
  | crossing ph => exact execCrossing_table ph s
  | missTest ph => exact ⟨_, rfl, (tableKept_ite (takeMiss_table ph s)).trans (transmit_table _)⟩
  | halfCycleBoundary ph mf o => exact ⟨_, rfl, (tableKept_ite (takeBoundary_table ph mf o s)).trans (transmit_table _)⟩
  | windowBoundary ph => exact ⟨_, rfl, (tableKept_ite (takeWindow_table ph s)).trans (transmit_table _)⟩
  | windowSample ph rxd cd lq => exact ⟨_, rfl, (tableKept_ite (setPtu_table s ph _)).trans (transmit_table _)⟩
  | secondEvent => exact ⟨_, rfl, (tableKept_ite (secondTick_table s)).trans (transmit_table _)⟩
  | referenceTick =>
    refine ⟨_, rfl, TableKept.trans ?_ (transmit_table _)⟩
    split
    · exact secondTick_table s
    · exact tableKept_of_eq rfl rfl
  | notBeforeTimePasses id unit =>
    refine ⟨_, rfl, TableKept.trans ?_ (transmit_table _)⟩
    split
    · exact .refl s
    · exact tableKept_ite (passNotBefore_table _ unit s)
  | endReport which => exact ⟨_, rfl, (takeQueueReport_work which s).table.trans (transmit_table _)⟩
  | learningReport which => exact ⟨_, rfl, (takeTableReport_table which s).trans (transmit_table _)⟩
  | abortRequest lane =>
    refine ⟨_, rfl, TableKept.trans ?_ (transmit_table _)⟩
    split
    · exact .refl s
    · exact abortRequestTaken_table _ s
  | _ => exact absurd rfl hc

/-- Settles O7: every command keeps the properties, so every step does. -/
theorem tablePropertiesHoldAtAllTimes : Obligations.TablePropertiesHoldAtAllTimes := fun _ _ hs h =>
  step_keeps (P := State.tableOk) (fun _ _ => id) (fun c s hs => by
    obtain ⟨t, ht, hk⟩ := exec_table c s
    exact ⟨t, ht, hk hs⟩) hs h

end Sys2Proof.Machine

/-! ## What the lanes' own work makes of the records

Where the lanes choose, abort and land, the queue settles the rounds of every record and evaluates it, and changes the
records in no other way. So what those two keep of a record is kept by all of the lanes' operations. -/

namespace Sys2Proof.Machine

open Sys2Proof.Claims

@[simp] theorem endPart_records (ph : Phase) (c : Option AbortCause) (time : Nat) (s : State) :
    (endPart ph c time s).records = s.records := by
  unfold endPart
  split
  · rfl
  · dsimp only
    split <;> rfl

@[simp] theorem commitRecords_records (rs : List Record) (s : State) : (commitRecords rs s).records = rs := by
  rw [commitRecords_frame]

@[simp] theorem raise_records (f : Flag) (s : State) : (raise f s).records = s.records := by rw [raise_frame]

@[simp] theorem choosePending_records (s : State) (ph : Phase) : (choosePending s ph).records = s.records := by
  unfold choosePending
  dsimp only
  split
  · split <;> rfl
  · rfl

@[simp] theorem releaseReserved_records (s : State) (ph : Phase) : (releaseReserved s ph).records = s.records := by
  unfold releaseReserved
  dsimp only
  split <;> rfl

/-- A relation between a record before and after that composes, and that the queue's settling of rounds and its evaluation
keep (R53, R55). -/
structure KeptByChoice (Q : Record → Record → Prop) : Prop where
  refl : ∀ r, Q r r
  trans : ∀ {a b c : Record}, Q a b → Q b c → Q a c
  settle : ∀ s r, Q r (settleRounds s roundFuel r)
  evaluate : ∀ s r, Q r (evaluateRecord s r)

namespace KeptByChoice

variable {Q : Record → Record → Prop}

theorem all_refl (h : KeptByChoice Q) (rs : List Record) : List.Forall₂ Q rs rs :=
  List.forall₂_same.2 fun r _ => h.refl r

theorem all_eq (h : KeptByChoice Q) {s t : State} (he : t.records = s.records) : List.Forall₂ Q s.records t.records := by
  rw [he]
  exact h.all_refl _

theorem all_trans (h : KeptByChoice Q) : ∀ {as bs cs : List Record}, List.Forall₂ Q as bs → List.Forall₂ Q bs cs →
    List.Forall₂ Q as cs
  | _, _, _, .nil, .nil => .nil
  | _, _, _, .cons h1 hs, .cons k ks => .cons (h.trans h1 k) (h.all_trans hs ks)

theorem all_map {g : Record → Record} (hg : ∀ r, Q r (g r)) (rs : List Record) : List.Forall₂ Q rs (rs.map g) :=
  List.forall₂_map_right_iff.2 (List.forall₂_same.2 fun r _ => hg r)

theorem foldl (h : KeptByChoice Q) {α : Type} {f : State → α → State}
    (hf : ∀ s a, List.Forall₂ Q s.records (f s a).records) :
    ∀ (as : List α) (s : State), List.Forall₂ Q s.records (as.foldl f s).records
  | [], _ => h.all_refl _
  | a :: as, s => h.all_trans (hf s a) (h.foldl hf as (f s a))

theorem settleAllRounds (h : KeptByChoice Q) (s : State) : List.Forall₂ Q s.records (settleAllRounds s).records := by
  rw [Machine.settleAllRounds, commitRecords_records]
  exact all_map (h.settle s) _

theorem evaluateAll (h : KeptByChoice Q) (s : State) : List.Forall₂ Q s.records (evaluateAll s).records := by
  rw [Machine.evaluateAll, commitRecords_records]
  exact all_map (h.evaluate s) _

theorem laneSeen (h : KeptByChoice Q) (hseen : ∀ r x, Q r { r with lanesSeen := x }) (ph : Phase) (s : State) :
    List.Forall₂ Q s.records (laneSeen ph s).records := by
  unfold Machine.laneSeen
  split
  · exact h.all_refl _
  · refine all_map (fun r => ?_) _
    split
    · exact h.refl r
    · exact hseen r _

theorem enterStopped (h : KeptByChoice Q) (ph : Phase) (s : State) :
    List.Forall₂ Q s.records (enterStopped ph s).records := h.settleAllRounds (setLane s ph _)

theorem landLane (h : KeptByChoice Q) (ph : Phase) (s : State) : List.Forall₂ Q s.records (landLane ph s).records := by
  unfold Machine.landLane
  dsimp only
  split
  · exact h.enterStopped ph s
  · split <;> exact h.all_refl _

theorem endAndLand (h : KeptByChoice Q) (ph : Phase) (c : Option AbortCause) (time : Nat) (s : State) :
    List.Forall₂ Q s.records (Machine.landLane ph (endPart ph c time s)).records := by
  have hland := h.landLane ph (endPart ph c time s)
  rwa [endPart_records] at hland

theorem abortPart (h : KeptByChoice Q) (c : AbortCause) (ph : Phase) (s : State) :
    List.Forall₂ Q s.records (abortPart c ph s).records := by
  unfold Machine.abortPart
  split
  · exact h.endAndLand ph _ _ s
  · exact h.all_refl _

theorem abortExchange (h : KeptByChoice Q) (c : AbortCause) (x : Exchange) (ph : Phase) (s : State) :
    List.Forall₂ Q s.records (abortExchange c x ph s).records := by
  unfold Machine.abortExchange
  split
  · exact h.foldl (fun s p => h.abortPart c p s) _ (noteWholeAbort x.exch c s)
  · exact h.abortPart c ph s

theorem preemptionTest (h : KeptByChoice Q) (s : State) (ph : Phase) :
    List.Forall₂ Q s.records (preemptionTest s ph).records := by
  unfold Machine.preemptionTest
  split
  · exact h.all_refl _
  · split
    · exact h.abortExchange _ _ _ s
    · exact h.all_refl _

theorem tell (h : KeptByChoice Q) (asked : List Phase) (s : State) : List.Forall₂ Q s.records (tell asked s).records := by
  have hchoose : ∀ s ph, List.Forall₂ Q s.records (choosePending s ph).records := fun s ph =>
    h.all_eq (choosePending_records s ph)
  unfold Machine.tell
  split
  · exact h.all_refl _
  · exact h.all_trans (h.all_trans (h.all_trans (h.evaluateAll s) (h.foldl hchoose _ _)) (h.foldl h.preemptionTest _ _))
      (h.foldl hchoose _ _)

theorem laneLoss (h : KeptByChoice Q) (ph : Phase) (time : Nat) (s : State) :
    List.Forall₂ Q s.records (laneLoss ph time s).records := by
  unfold Machine.laneLoss
  dsimp only
  refine h.all_trans ?_ (h.settleAllRounds _)
  show List.Forall₂ Q s.records (ite _ _ _ : State).records
  split
  · exact h.endAndLand ph _ _ s
  · split
    · exact h.all_refl _
    · exact h.all_eq (releaseReserved_records s ph)

theorem stopLane (h : KeptByChoice Q) (s : State) (ph : Phase) : List.Forall₂ Q s.records (stopLane s ph).records := by
  unfold Machine.stopLane
  dsimp only
  split
  · exact h.enterStopped ph s
  · exact h.enterStopped ph s
  · exact h.enterStopped ph s
  · exact h.enterStopped ph s
  · split
    · exact h.enterStopped ph s
    · exact h.abortExchange _ _ _ (setLane s ph _)
  all_goals exact h.all_refl _

theorem pauseLane (h : KeptByChoice Q) (s : State) (ph : Phase) : List.Forall₂ Q s.records (pauseLane s ph).records := by
  unfold Machine.pauseLane
  dsimp only
  split <;> exact h.all_refl _

theorem resumeLane (h : KeptByChoice Q) (hseen : ∀ r x, Q r { r with lanesSeen := x }) (s : State) (ph : Phase) :
    List.Forall₂ Q s.records (resumeLane s ph).records := by
  unfold Machine.resumeLane
  dsimp only
  split
  · exact h.all_refl _
  · exact h.laneSeen hseen ph (setLane s ph _)
  all_goals exact h.all_refl _

theorem takeAbortRequest (h : KeptByChoice Q) (q : AbortRequest) (s : State) :
    List.Forall₂ Q s.records (takeAbortRequest q s).records := by
  unfold Machine.takeAbortRequest
  split
  · exact h.all_refl _
  · split
    · exact h.abortPart _ _ (noteWholeAbort _ _ s)
    · exact h.all_refl _

end KeptByChoice

/-- The queue's own work is one such relation. -/
theorem works_byChoice : KeptByChoice RecordWorks :=
  ⟨.refl, .trans, fun s => settleRounds_works s roundFuel, evaluateRecord_works⟩

theorem works_of_seen (r : Record) (x : PerPhase Bool) : RecordWorks r { r with lanesSeen := x } :=
  works_of_stage r r.stage r.parts r.roundsSent r.collided x

end Sys2Proof.Machine

/-! ## Every target within its record's budget (R42, R44, R59)

`BudgetKept` is followed through every operation without any property of the queue: a record that is put back stands in
for every record of its serial number, and is within its budget as the record that it was made of is. -/

namespace Sys2Proof.Machine

open Sys2Proof.Claims

/-- Every record's targets stay within its budget, if they were within it before. -/
structure BudgetKept (s t : State) : Prop where
  within : (∀ r ∈ s.records, withinBudget r) → ∀ r ∈ t.records, withinBudget r

theorem BudgetKept.refl (s : State) : BudgetKept s s := ⟨id⟩

theorem BudgetKept.trans {a b c : State} (h : BudgetKept a b) (k : BudgetKept b c) : BudgetKept a c :=
  ⟨k.within ∘ h.within⟩

theorem budgetKept_of_eq {s t : State} (h : t.records = s.records) : BudgetKept s t :=
  ⟨fun hs r hr => hs r (h ▸ hr)⟩

/-- A change of anything but the records goes before. -/
theorem BudgetKept.after {s s' t : State} (k : BudgetKept s' t) (h : s'.records = s.records) : BudgetKept s t :=
  (budgetKept_of_eq h).trans k

/-- What stands in the second of two related lists stands there for something in the first. -/
theorem exists_of_forall₂_right {α β : Type} {R : α → β → Prop} : ∀ {as : List α} {bs : List β}, List.Forall₂ R as bs →
    ∀ {b}, b ∈ bs → ∃ a ∈ as, R a b
  | _, _, .cons h hs, b, hb => by
    rcases List.mem_cons.1 hb with rfl | hb
    · exact ⟨_, List.mem_cons_self, h⟩
    · obtain ⟨a, ha, hr⟩ := exists_of_forall₂_right hs hb
      exact ⟨a, List.mem_cons_of_mem _ ha, hr⟩

/-- What stands in the first of two related lists has something in the second that stands for it. -/
theorem exists_of_forall₂_left {α β : Type} {R : α → β → Prop} {as : List α} {bs : List β} (h : List.Forall₂ R as bs)
    {a : α} (ha : a ∈ as) : ∃ b ∈ bs, R a b :=
  exists_of_forall₂_right (R := flip R) h.flip ha

theorem budgetKept_of_works {s t : State} (h : List.Forall₂ RecordWorks s.records t.records) : BudgetKept s t :=
  ⟨fun hs r' hr' => by
    obtain ⟨r, hr, hw⟩ := exists_of_forall₂_right h hr'
    exact hw.budgetOk (hs r hr)⟩

theorem tell_budget (asked : List Phase) (s : State) : BudgetKept s (tell asked s) :=
  budgetKept_of_works (works_byChoice.tell asked s)

theorem commitRecords_budget {g : Record → Record} (hg : ∀ r, RecordWorks r (g r)) (s : State) :
    BudgetKept s (commitRecords (s.records.map g) s) := budgetKept_of_works (by
  rw [commitRecords_records]
  exact KeptByChoice.all_map hg _)

theorem putRecord_budget {r r' : Record} {s : State} (hr : r ∈ s.records) (hb : withinBudget r → withinBudget r') :
    BudgetKept s (putRecord r' s) where
  within hs q hq := by
    rw [putRecord, commitRecords_records] at hq
    obtain ⟨p, hp, rfl⟩ := List.mem_map.1 hq
    split
    · exact hb (hs r hr)
    · exact hs p hp

/-! ### Grants -/

theorem reportBroken_budget (serial unit : Nat) (s : State) : BudgetKept s (reportBroken serial unit s) := by
  unfold reportBroken
  split
  · exact .refl s
  · rename_i r hr
    refine putRecord_budget (recordOf_mem hr).1 fun hb => (completeIfFinished_works s _).budgetOk ?_
    exact (works_of_targets r _ (fun t => (outcome_step (b := 0) _ (fun h => h.2) (by simp)).1)
      (fun t => (outcome_step _ (fun h => h.2) (by simp)).2)).budgetOk hb

/-- The record of a granted item, one exchange more in flight (R57). -/
def grantedRecord (ph : Phase) (i : WorkItem) (units : List Nat) (r : Record) : Record :=
  { r with
    state := if r.state = .ready then .active else r.state
    flights := r.flights + 1
    targets := r.targets.map fun t => if units.contains t.unit then { t with inFlight := true } else t
    parts := match i.work with
      | .unicast _ => r.parts
      | .part _ => r.parts.map fun p =>
          if p.lane = (if i.joined then none else some ph) ∧ p.standing = .offered then { p with standing := .inFlight }
          else p }

theorem applyGrant_some {ph : Phase} {i : WorkItem} {units : List Nat} {s : State} {r : Record}
    (h : recordOf s i.serial = some r) :
    applyGrant ph i units s =
      { putRecord (grantedRecord ph i units r) s with
        inFlight := s.inFlight ++ units.filter fun u => !s.inFlight.contains u } := by
  simp only [applyGrant, h]
  rfl

theorem applyGrant_none {ph : Phase} {i : WorkItem} {units : List Nat} {s : State} (h : recordOf s i.serial = none) :
    applyGrant ph i units s = s := by
  simp only [applyGrant, h]

theorem applyGrant_budget (ph : Phase) (i : WorkItem) (units : List Nat) (s : State) :
    BudgetKept s (applyGrant ph i units s) := by
  cases hr : recordOf s i.serial with
  | none =>
    rw [applyGrant_none hr]
    exact .refl s
  | some r =>
    have hput : BudgetKept s (putRecord (grantedRecord ph i units r) s) :=
      putRecord_budget (recordOf_mem hr).1 fun hb t ht => by
        obtain ⟨u, hu, rfl⟩ := List.mem_map.1 ht
        show targetWithin r.budget _
        split <;> exact hb u hu
    rw [applyGrant_some hr]
    exact hput.trans (budgetKept_of_eq rfl)

theorem walkCandidates_budget (ph : Phase) : ∀ (cs : List WorkItem) (s : State),
    BudgetKept s (walkCandidates ph cs s).1
  | [], s => .refl s
  | i :: rest, s => by
    unfold walkCandidates
    split
    · split
      · exact (reportBroken_budget _ _ s).trans (walkCandidates_budget ph rest _)
      · split
        · exact .refl s
        · exact walkCandidates_budget ph rest s
    · split
      · exact .refl s
      · exact walkCandidates_budget ph rest s

theorem grantOnLane_budget (ph : Phase) (i : WorkItem) (forced : Bool) (s : State) :
    BudgetKept s (grantOnLane ph i forced s) := by
  unfold grantOnLane
  split
  · split
    · exact .refl s
    · exact ((applyGrant_budget ..).trans (tell_budget _ _)).after rfl
  · exact .refl s

theorem foldl_releaseReserved_records : ∀ (ps : List Phase) (s : State),
    (ps.foldl releaseReserved s).records = s.records
  | [], _ => rfl
  | p :: ps, s => (foldl_releaseReserved_records ps _).trans (releaseReserved_records s p)

theorem joinedGrant_budget (ph : Phase) (i : WorkItem) (s : State) : BudgetKept s (joinedGrant ph i s) := by
  unfold joinedGrant
  dsimp only
  split
  · split
    · exact .refl s
    · split
      · exact budgetKept_of_eq (foldl_releaseReserved_records _ s)
      · refine ((applyGrant_budget ..).trans (tell_budget _ _)).after ?_
        obtain ⟨ls, h⟩ := foldl_occupy (fun (st : State) p =>
            if p = ph then occupy p .sending (exchangeFor s _ i _ _ _ (reservationForced s p) 1) st
            else occupy p .armed (exchangeFor s _ i _ _ _ (reservationForced s p) 0) st)
          (fun st p => by split <;> exact ⟨_, rfl⟩) _ { s with nextExchange := s.nextExchange + 1 }
        rw [h]
  · exact .refl s

theorem reserveLane_budget (ph : Phase) (i : WorkItem) (forced : Bool) (s : State) :
    BudgetKept s (reserveLane ph i forced s) := by
  unfold reserveLane
  split
  · exact (joinedGrant_budget ..).after rfl
  · exact .refl s

theorem actOn_budget (ph : Phase) (i : WorkItem) (forced : Bool) (s : State) : BudgetKept s (actOn ph i forced s) := by
  unfold actOn
  dsimp only
  split
  · exact (reserveLane_budget ..).after rfl
  · exact (grantOnLane_budget ..).after rfl

theorem carrierTest_budget (ph : Phase) (v : Verdict) (i : WorkItem) (s : State) :
    BudgetKept s (carrierTest ph v i s) := by
  unfold carrierTest
  split
  · exact actOn_budget ..
  · dsimp only
    split
    · exact budgetKept_of_eq rfl
    · exact (actOn_budget ..).after (raise_records .lineBusy s)
  · exact .refl s

theorem opportunity_budget (ph : Phase) (v : Verdict) (s : State) : BudgetKept s (opportunity ph v s) := by
  unfold opportunity
  dsimp only
  have hwalk : BudgetKept s (if (walkCandidates ph (candidates s ph) s).2.2 = true then
      tell allPhases (walkCandidates ph (candidates s ph) s).1 else (walkCandidates ph (candidates s ph) s).1) := by
    split
    · exact (walkCandidates_budget ..).trans (tell_budget _ _)
    · exact walkCandidates_budget ..
  refine hwalk.trans ?_
  generalize (if (walkCandidates ph (candidates s ph) s).2.2 = true then
      tell allPhases (walkCandidates ph (candidates s ph) s).1 else (walkCandidates ph (candidates s ph) s).1) = s1
  split
  · exact budgetKept_of_eq (releaseReserved_records s1 ph)
  · split
    · exact joinedGrant_budget ..
    · exact carrierTest_budget ..

/-! ### Reports and boundaries -/

theorem applyEndReport_budget (rep : EndReport) (s : State) : BudgetKept s (applyEndReport rep s) := by
  unfold applyEndReport
  dsimp only
  split
  · exact budgetKept_of_eq rfl
  · rename_i r hr
    exact (putRecord_budget (recordOf_mem hr).1 (((reportedRecord_works _ rep r).trans
      (settleRounds_works _ _ _)).trans (settleFlight_works _ _)).budgetOk).after rfl

theorem takeQueueReport_budget (n : Nat) (s : State) : BudgetKept s (takeQueueReport n s) := by
  unfold takeQueueReport
  split
  · exact .refl s
  · exact ((applyEndReport_budget ..).trans (tell_budget _ _)).after rfl

@[simp] theorem offerDiscovery_records (a : Address) (s : State) : (offerDiscovery a s).records = s.records := by
  unfold offerDiscovery
  split
  · rfl
  · split <;> rw [raise_records]

@[simp] theorem applyAnswer_records (ans : KeptAnswer) (s : State) : (applyAnswer ans s).records = s.records := by
  unfold applyAnswer
  split
  · dsimp only
    split
    · rw [raiseIf_frame]
    · rfl
  · split
    · rfl
    · exact offerDiscovery_records _ s

@[simp] theorem applyLearning_records (rep : LearningReport) (s : State) : (applyLearning rep s).records = s.records := by
  have hheard : ∀ (as : List KeptAnswer) (s : State), (as.foldl (fun st ans => applyAnswer ans st) s).records = s.records := by
    intro as
    induction as with
    | nil => exact fun _ => rfl
    | cons a as ih => exact fun s => (ih _).trans (applyAnswer_records a s)
  unfold applyLearning
  dsimp only
  split
  · exact hheard _ s
  · unfold applySilence
    dsimp only
    split <;> exact hheard _ s

theorem takeTableReport_budget (n : Nat) (s : State) : BudgetKept s (takeTableReport n s) := by
  unfold takeTableReport
  split
  · exact .refl s
  · dsimp only
    split
    · exact (budgetKept_of_eq (by rw [applyLearning_records])).trans (tell_budget _ _)
    · exact budgetKept_of_eq (by rw [applyLearning_records])

theorem takeReports_budget (o : ReportOrder) (m n : Nat) (s : State) : BudgetKept s (takeReports o m n s) := by
  cases o with
  | neither => exact .refl s
  | queueOnly => exact takeQueueReport_budget m s
  | tableOnly => exact takeTableReport_budget n s
  | queueThenTable => exact (takeQueueReport_budget m s).trans (takeTableReport_budget n _)
  | tableThenQueue => exact (takeTableReport_budget n s).trans (takeQueueReport_budget m _)

theorem advanceExchange_budget (ph : Phase) (ended : EndedHalf) (o : ReportOrder) (s : State) :
    BudgetKept s (advanceExchange ph ended o s) := by
  have hend : ∀ c t l, BudgetKept s (endAtBoundary ph c t o (setLane s ph l)) := fun c t l =>
    BudgetKept.after
      ((budgetKept_of_works (works_byChoice.endAndLand ph c t (setLane s ph l))).trans (takeReports_budget ..)) rfl
  unfold advanceExchange
  split
  · exact .refl s
  · dsimp only
    split
    · exact hend _ _ _
    · split
      · exact hend _ _ _
      · exact budgetKept_of_eq rfl

@[simp] theorem settleLane_records (ph : Phase) (s : State) : (settleLane ph s).records = s.records := by
  unfold settleLane
  dsimp only
  split
  · split <;> rfl
  · rfl

theorem laneAdvance_budget (ph : Phase) (ended : EndedHalf) (o : ReportOrder) (s : State) :
    BudgetKept s (laneAdvance ph ended o s) := by
  unfold laneAdvance
  split
  · exact advanceExchange_budget ..
  · exact advanceExchange_budget ..
  · exact budgetKept_of_eq rfl
  · exact budgetKept_of_eq (settleLane_records ph s)
  all_goals exact .refl s

theorem laneBoundary_budget (ph : Phase) (ended : EndedHalf) (v : Verdict) (o : ReportOrder) (s : State) :
    BudgetKept s (laneBoundary ph ended v o s) := by
  unfold laneBoundary
  dsimp only
  generalize (if (laneOf (laneAdvance ph ended o s) ph).state = .stopped ∧ (laneOf s ph).state ≠ .stopped then allPhases
    else [ph]) = asked
  have htold := (laneAdvance_budget ph ended o s).trans (tell_budget asked _)
  split
  · exact htold.trans (opportunity_budget ..)
  · exact htold

end Sys2Proof.Machine

/-! ## The queue at all times (R40 to R45, R50, R59): O8, O9, O10, O13

`QueueKept` joins the queue's properties, each of which the others help to carry: where the serial numbers are apart, the
laws of the lanes and the queue say of every record what it becomes. It is kept by every command. -/

namespace Sys2Proof.Machine

open Sys2Proof.Claims

/-! ### Line tags (R45) -/

/-- A line tag in its range. -/
def tagOk (t : Nat) : Prop := 1 ≤ t ∧ t ≤ 65535

theorem nextTag_ok {t : Nat} (h : tagOk t) : tagOk (nextTag t) := by
  obtain ⟨hlo, hhi⟩ := h
  unfold nextTag tagOk
  split <;> omega

/-- The tags from a tag on, counted round the circle of 65,535. -/
theorem iterate_nextTag {t : Nat} (h : tagOk t) : ∀ k, nextTag^[k] t = (t - 1 + k) % 65535 + 1
  | 0 => by
    obtain ⟨hlo, hhi⟩ := h
    show t = _
    omega
  | k + 1 => by
    rw [Function.iterate_succ_apply', iterate_nextTag h k, nextTag]
    split <;> omega

/-- The search finds the first unused tag, if there is one among the steps it may take. -/
theorem freeTag_first {used : List Nat} : ∀ (n t : Nat), (∃ k < n, nextTag^[k] t ∉ used) →
    ∃ k < n, freeTag used n t = nextTag^[k] t ∧ nextTag^[k] t ∉ used ∧ ∀ j < k, nextTag^[j] t ∈ used
  | 0, t, h => by
    obtain ⟨k, hk, -⟩ := h
    exact absurd hk (Nat.not_lt_zero k)
  | n + 1, t, h => by
    by_cases ht : t ∈ used
    · obtain ⟨k, hk, hfree⟩ := h
      cases k with
      | zero => exact absurd ht hfree
      | succ k =>
        obtain ⟨m, hm, heq, hm', hall⟩ := freeTag_first n (nextTag t) ⟨k, by omega, hfree⟩
        refine ⟨m + 1, by omega, ?_, hm', fun j hj => ?_⟩
        · simpa [freeTag, ht] using heq
        · cases j with
          | zero => exact ht
          | succ j => exact hall j (by omega)
    · exact ⟨0, by omega, by simp [freeTag, ht], ht, fun j hj => absurd hj (Nat.not_lt_zero j)⟩

/-- Among 65 tags in a row one is unused where fewer than 65 are used (R45). -/
theorem exists_unused_tag {used : List Nat} {t : Nat} (ht : tagOk t) (hu : used.length < 65) :
    ∃ k < 65, nextTag^[k] t ∉ used := by
  by_contra hall
  push Not at hall
  have hsub : (Finset.range 65).image (fun k => nextTag^[k] t) ⊆ used.toFinset := fun x hx => by
    obtain ⟨k, hk, rfl⟩ := Finset.mem_image.1 hx
    exact List.mem_toFinset.2 (hall k (Finset.mem_range.1 hk))
  have hinj : Set.InjOn (fun k => nextTag^[k] t) (Finset.range 65) := fun i hi j hj hij => by
    simp only [iterate_nextTag ht] at hij
    simp only [Finset.coe_range, Set.mem_Iio] at hi hj
    obtain ⟨hlo, hhi⟩ := ht
    omega
  have hcard := (Finset.card_le_card hsub).trans (List.toFinset_card_le used)
  rw [Finset.card_image_of_injOn hinj, Finset.card_range] at hcard
  omega

/-! ### The relation -/

/-- What the queue's properties ask of a record before and after. -/
structure RecordGoesOn (r r' : Record) : Prop where
  continues : recordContinues r r'
  settledOk : settled r → settled r'

theorem RecordGoesOn.refl (r : Record) : RecordGoesOn r r := ⟨recordContinues_refl r, id⟩

theorem RecordWorks.goesOn {r r' : Record} (h : RecordWorks r r') : RecordGoesOn r r' := ⟨h.continues, h.settledOk⟩

/-- The queue's properties are carried over, serial numbers are used up in order, and a record admitted before goes on from
one of those before (R40 to R45, log 18). -/
structure QueueKept (s t : State) : Prop where
  budgets : BudgetKept s t
  ok : s.queueOk → t.queueOk
  settledOk : s.queueOk → (∀ r ∈ s.records, settled r) → ∀ r ∈ t.records, settled r
  serials : s.nextSerial ≤ t.nextSerial
  terms : s.queueOk → ∀ r' ∈ t.records, r'.serial < s.nextSerial → ∃ r ∈ s.records, recordContinues r r'

theorem QueueKept.trans {a b c : State} (h : QueueKept a b) (k : QueueKept b c) : QueueKept a c where
  budgets := h.budgets.trans k.budgets
  ok := k.ok ∘ h.ok
  settledOk ha hs := k.settledOk (h.ok ha) (h.settledOk ha hs)
  serials := h.serials.trans k.serials
  terms ha r'' hr'' hn := by
    obtain ⟨r', hr', hc'⟩ := k.terms (h.ok ha) r'' hr'' (hn.trans_le h.serials)
    obtain ⟨r, hr, hc⟩ := h.terms ha r' hr' (hc'.1 ▸ hn)
    exact ⟨r, hr, recordContinues_trans hc hc'⟩

theorem map_eq_of_forall₂ {α β γ : Type} {R : α → β → Prop} {f : α → γ} {g : β → γ} (hf : ∀ a b, R a b → g b = f a) :
    ∀ {as : List α} {bs : List β}, List.Forall₂ R as bs → bs.map g = as.map f
  | _, _, .nil => rfl
  | _, _, .cons h hs => by rw [List.map_cons, List.map_cons, hf _ _ h, map_eq_of_forall₂ hf hs]

/-- The terms of queueOk that records keep for life keep it. -/
theorem queueOk_of_continues {s t : State} (hn : t.nextSerial = s.nextSerial) (hc : t.tagCounter = s.tagCounter)
    (h : List.Forall₂ recordContinues s.records t.records) (hs : s.queueOk) : t.queueOk := by
  obtain ⟨hlen, hid, htag, hserial, hnext, hrange, hcounter⟩ := hs
  have back : ∀ r' ∈ t.records, ∃ r ∈ s.records, recordContinues r r' := fun r' => exists_of_forall₂_right h
  refine ⟨h.length_eq ▸ hlen, ?_, ?_, ?_, fun r' hr' => ?_, fun r' hr' => ?_, hc ▸ hcounter⟩
  · rwa [map_eq_of_forall₂ (fun a b (hab : recordContinues a b) => hab.2.1) h]
  · rwa [map_eq_of_forall₂ (fun a b (hab : recordContinues a b) => hab.2.2.1) h]
  · rwa [map_eq_of_forall₂ (fun a b (hab : recordContinues a b) => hab.1) h]
  · obtain ⟨r, hr, hrr⟩ := back r' hr'
    rw [hrr.1, hn]
    exact hnext r hr
  · obtain ⟨r, hr, hrr⟩ := back r' hr'
    rw [hrr.2.2.1]
    exact hrange r hr

theorem State.queueOk.serialsApart {s : State} (hs : s.queueOk) : (s.records.map Record.serial).Nodup := by
  obtain ⟨-, -, -, h, -⟩ := hs
  exact h

theorem State.queueOk.idsApart {s : State} (hs : s.queueOk) : (s.records.map Record.id).Nodup := by
  obtain ⟨-, h, -⟩ := hs
  exact h

/-- Every record goes on in its place. -/
theorem queueKept_of_goesOn {s t : State} (hn : t.nextSerial = s.nextSerial) (hc : t.tagCounter = s.tagCounter)
    (hb : BudgetKept s t) (h : (s.records.map Record.serial).Nodup → List.Forall₂ RecordGoesOn s.records t.records) :
    QueueKept s t where
  budgets := hb
  ok hs := queueOk_of_continues hn hc ((h hs.serialsApart).imp fun _ _ => RecordGoesOn.continues) hs
  settledOk hs hr r' hr' := by
    obtain ⟨r, hmem, hg⟩ := exists_of_forall₂_right (h hs.serialsApart) hr'
    exact hg.settledOk (hr r hmem)
  serials := hn.ge
  terms hs r' hr' _ := by
    obtain ⟨r, hmem, hg⟩ := exists_of_forall₂_right (h hs.serialsApart) hr'
    exact ⟨r, hmem, hg.continues⟩

theorem LaneSide.queue {s t : State} (h : LaneSide s t) (hb : BudgetKept s t) : QueueKept s t :=
  queueKept_of_goesOn h.nextSerial h.tagCounter hb fun hn => (h.records hn).imp fun _ _ => RecordWorks.goesOn

theorem queueKept_of_eq {s t : State} (hr : t.records = s.records) (hn : t.nextSerial = s.nextSerial)
    (hc : t.tagCounter = s.tagCounter) : QueueKept s t :=
  queueKept_of_goesOn hn hc (budgetKept_of_eq hr) fun _ => by
    rw [hr]
    exact List.forall₂_same.2 fun r _ => .refl r

/-- A change that leaves the queue alone goes before. -/
theorem QueueKept.after {s s' t : State} (k : QueueKept s' t) (hr : s'.records = s.records)
    (hn : s'.nextSerial = s.nextSerial) (hc : s'.tagCounter = s.tagCounter) : QueueKept s t :=
  (queueKept_of_eq hr hn hc).trans k

theorem QueueKept.refl (s : State) : QueueKept s s := queueKept_of_eq rfl rfl rfl

/-- An event that has come is taken, and one that has not leaves the state alone (log 3). -/
theorem queueKept_ite {c : Prop} [Decidable c] {s t : State} (h : QueueKept s t) : QueueKept s (if c then t else s) := by
  split
  · exact h
  · exact .refl s

/-- Records taken out leave the others as they are (R64, R65). -/
theorem queueKept_of_sublist {s t : State} (hr : t.records.Sublist s.records) (hn : t.nextSerial = s.nextSerial)
    (hc : t.tagCounter = s.tagCounter) : QueueKept s t where
  budgets := ⟨fun hs r h => hs r (hr.subset h)⟩
  ok hs := by
    obtain ⟨hlen, hid, htag, hserial, hnext, hrange, hcounter⟩ := hs
    exact ⟨hr.length_le.trans hlen, hid.sublist (hr.map _), htag.sublist (hr.map _), hserial.sublist (hr.map _),
      fun r h => hn ▸ hnext r (hr.subset h), fun r h => hrange r (hr.subset h), hc ▸ hcounter⟩
  settledOk _ hs r h := hs r (hr.subset h)
  serials := hn.ge
  terms _ r h _ := ⟨r, hr.subset h, recordContinues_refl r⟩

/-- The transmitter's choice is no matter of the queue. -/
theorem transmit_queue (s : State) : QueueKept s (transmit s) := by
  rw [transmit_frame]
  exact queueKept_of_eq rfl rfl rfl

theorem tell_queue (asked : List Phase) (s : State) : QueueKept s (tell asked s) :=
  (tell_work asked s).toLaneSide.queue (tell_budget asked s)

/-! ### Records put back -/

theorem forall₂_put {Q : Record → Record → Prop} {r' : Record} {rs : List Record}
    (hothers : ∀ q ∈ rs, q.serial ≠ r'.serial → Q q q) (hput : ∀ q ∈ rs, q.serial = r'.serial → Q q r') :
    List.Forall₂ Q rs (rs.map fun q => if q.serial = r'.serial then r' else q) := by
  refine List.forall₂_map_right_iff.2 (List.forall₂_same.2 fun q hq => ?_)
  split
  · exact hput q hq ‹_›
  · exact hothers q hq ‹_›

theorem commitRecords_queue {g : Record → Record} (hg : ∀ r, RecordWorks r (g r)) (s : State) :
    QueueKept s (commitRecords (s.records.map g) s) :=
  (commitRecords_map_work g hg s).toLaneSide.queue (commitRecords_budget hg s)

theorem putRecord_queue {r r' : Record} {s : State} (hr : r ∈ s.records) (h : RecordGoesOn r r')
    (hb : withinBudget r → withinBudget r') : QueueKept s (putRecord r' s) := by
  refine queueKept_of_goesOn ?_ ?_ (putRecord_budget hr hb) fun hn => ?_
  · rw [putRecord, commitRecords_frame]
  · rw [putRecord, commitRecords_frame]
  · rw [putRecord, commitRecords_records]
    refine forall₂_put (fun q _ _ => .refl q) fun q hq hs => ?_
    rw [eq_of_serial hn hq hr (hs.trans h.continues.1)]
    exact h

theorem putRecord_works_queue {r r' : Record} {s : State} (hr : r ∈ s.records) (h : RecordWorks r r') :
    QueueKept s (putRecord r' s) := putRecord_queue hr h.goesOn h.budgetOk

/-! ### SUBMIT (R43 to R46) -/

/-- A DISCOVER roll call has no targets (R38). -/
theorem expandTarget_discover (units : List (Nat × Entry)) : expandTarget units (.cond .discover) = some [] := by
  simp [expandTarget, liveWhere, meetsCondition]

/-- What a SUBMIT that passes its checks has found (R43). -/
theorem checkSubmit_ok {s : State} {f : SubmitFields} {kind : CommandKind} {spec : TargetSpec} {set : List Nat}
    (h : checkSubmit s f = .ok (kind, spec, set)) :
    recordById s f.id = none ∧ s.records.length < 64 ∧ expandTarget s.units spec = some set := by
  unfold checkSubmit at h
  split at h
  · cases h
  · repeat' split at h
    all_goals try cases h
    exact ⟨by simpa using ‹¬(recordById s f.id).isSome = true›, by omega, ‹_›⟩

theorem recordById_none {s : State} {id : BitVec 32} : recordById s id = none ↔ ∀ r ∈ s.records, r.id ≠ id := by
  simp [recordById, List.find?_eq_none]

section

variable {s : State} {f : SubmitFields} {kind : CommandKind} {spec : TargetSpec} {set : List Nat}

theorem newRecord_within : withinBudget (newRecord s f kind spec set) := fun t ht => by
  obtain ⟨i, -, rfl⟩ := List.mem_map.1 ht
  have hb : 1 ≤ (newRecord s f kind spec set).budget := Nat.le_max_left ..
  exact ⟨Nat.zero_le _, fun _ => hb⟩

theorem newRecord_state : (newRecord s f kind spec set).state = .ready ∨ (newRecord s f kind spec set).state = .waiting := by
  unfold newRecord
  dsimp only
  split
  · exact .inl rfl
  · exact .inr rfl

theorem newRecord_settled (h : expandTarget s.units spec = some set) : settled (newRecord s f kind spec set) := by
  refine ⟨fun hd => ?_, fun _ => rfl, fun hd => ?_⟩
  · have hspec : spec = .cond .discover := by simpa [isDiscover, newRecord] using hd
    rw [hspec, expandTarget_discover] at h
    cases h
    rfl
  · rcases newRecord_state (s := s) (f := f) (kind := kind) (spec := spec) (set := set) with hs | hs <;>
      simp [isDone, hs] at hd

/-- The tag given is the first that no record carries, from the counter on (R45). -/
theorem newRecord_tag (hs : s.queueOk) (hl : s.records.length < 64) :
    ∃ k, (newRecord s f kind spec set).tag = nextTag^[k] s.tagCounter ∧
      (∀ q ∈ s.records, q.tag ≠ (newRecord s f kind spec set).tag) ∧
      ∀ j < k, ∃ q ∈ s.records, q.tag = nextTag^[j] s.tagCounter := by
  obtain ⟨-, -, -, -, -, -, hcounter⟩ := hs
  obtain ⟨k, -, htag, hfree, hall⟩ := freeTag_first (used := s.records.map Record.tag) 65 s.tagCounter
    (exists_unused_tag hcounter (by rw [List.length_map]; omega))
  refine ⟨k, htag, fun q hq he => hfree ?_, fun j hj => ?_⟩
  · rw [← htag]
    exact List.mem_map.2 ⟨q, hq, he⟩
  · exact List.mem_map.1 (hall j hj)

theorem newRecord_tagOk (hs : s.queueOk) (hl : s.records.length < 64) : tagOk (newRecord s f kind spec set).tag := by
  obtain ⟨k, htag, -⟩ := newRecord_tag (f := f) (kind := kind) (spec := spec) (set := set) hs hl
  obtain ⟨-, -, -, -, -, -, hcounter⟩ := hs
  rw [htag, iterate_nextTag hcounter]
  exact ⟨by omega, by omega⟩

end

theorem admittedRecord_works (s : State) (r : Record) : RecordWorks r (admittedRecord s r) := by
  unfold admittedRecord
  split
  · exact beginStage_works s r
  · exact .refl r

/-- The queue with a new record at its newest end, its tag and its serial number used up, before the lanes are told. -/
def admitted (r : Record) (s : State) : State :=
  { commitRecords (s.records ++ [admittedRecord s r]) s with
    tagCounter := nextTag r.tag, nextSerial := s.nextSerial + 1 }

theorem admitNew_eq (r : Record) (s : State) :
    admitNew r s = if r.state = .ready then tell allPhases (admitted r s) else admitted r s := rfl

@[simp] theorem admitted_records (r : Record) (s : State) :
    (admitted r s).records = s.records ++ [admittedRecord s r] := commitRecords_records _ s

theorem nodup_append_new {α : Type} {xs : List α} {x : α} (h : xs.Nodup) (hx : x ∉ xs) : (xs ++ [x]).Nodup :=
  List.nodup_append.2 ⟨h, List.nodup_singleton x, fun a ha b hb => by
    obtain rfl := List.mem_singleton.1 hb
    exact fun hab => hx (hab ▸ ha)⟩

theorem admitted_queue {s : State} {f : SubmitFields} {kind : CommandKind} {spec : TargetSpec} {set : List Nat}
    (h : checkSubmit s f = .ok (kind, spec, set)) : QueueKept s (admitted (newRecord s f kind spec set) s) := by
  obtain ⟨hid, hlen, hset⟩ := checkSubmit_ok h
  have hw := admittedRecord_works s (newRecord s f kind spec set)
  obtain ⟨hserial, hsameId, hsameTag, -⟩ := hw.continues
  have hmem : ∀ r ∈ (admitted (newRecord s f kind spec set) s).records,
      r ∈ s.records ∨ r = admittedRecord s (newRecord s f kind spec set) := fun r hr => by
    simpa using hr
  refine ⟨⟨fun hb r hr => ?_⟩, fun hs => ?_, fun hs ho r hr => ?_, Nat.le_succ _, fun _ r hr hn => ?_⟩
  · rcases hmem r hr with hr | rfl
    · exact hb r hr
    · exact hw.budgetOk newRecord_within
  · have htagOk := newRecord_tagOk (f := f) (kind := kind) (spec := spec) (set := set) hs hlen
    obtain ⟨-, -, htagNew, -⟩ := newRecord_tag (f := f) (kind := kind) (spec := spec) (set := set) hs hlen
    obtain ⟨-, hids, htags, hserials, hnext, hrange, -⟩ := hs
    refine ⟨?_, ?_, ?_, ?_, fun r hr => ?_, fun r hr => ?_, nextTag_ok htagOk⟩
    · rw [admitted_records, List.length_append]
      exact hlen
    · rw [admitted_records, List.map_append]
      refine nodup_append_new hids fun hm => ?_
      obtain ⟨r, hr, he⟩ := List.mem_map.1 hm
      exact recordById_none.1 hid r hr (he.trans hsameId)
    · rw [admitted_records, List.map_append]
      refine nodup_append_new htags fun hm => ?_
      obtain ⟨r, hr, he⟩ := List.mem_map.1 hm
      exact htagNew r hr (he.trans hsameTag)
    · rw [admitted_records, List.map_append]
      refine nodup_append_new hserials fun hm => ?_
      obtain ⟨r, hr, he⟩ := List.mem_map.1 hm
      exact absurd (he.trans hserial) (Nat.ne_of_lt (hnext r hr))
    · show r.serial < s.nextSerial + 1
      rcases hmem r hr with hr | rfl
      · exact (hnext r hr).trans (Nat.lt_succ_self _)
      · rw [hserial]
        exact Nat.lt_succ_self _
    · rcases hmem r hr with hr | rfl
      · exact hrange r hr
      · rw [hsameTag]
        exact htagOk
  · rcases hmem r hr with hr | rfl
    · exact ho r hr
    · exact hw.settledOk (newRecord_settled hset)
  · rcases hmem r hr with hr | rfl
    · exact ⟨r, hr, recordContinues_refl r⟩
    · rw [hserial] at hn
      exact absurd hn (Nat.lt_irrefl _)

theorem serveSubmit_queue (f : SubmitFields) (s : State) : QueueKept s (serveSubmit f s).1 := by
  unfold serveSubmit
  split
  · exact .refl s
  · rename_i kind spec set h
    show QueueKept s (admitNew _ s)
    rw [admitNew_eq]
    split
    · exact (admitted_queue h).trans (tell_queue _ _)
    · exact admitted_queue h

/-! ### The other requests -/

theorem enterDone_cancelled_works (s : State) {r : Record} (h : r.state = .waiting ∨ r.state = .ready) :
    RecordWorks r (enterDone s .cancelled r) := enterDone_works s _ r (fun hs => hs.2.1 h) nofun

theorem closing_works (r : Record) (c : ClosingCause) : RecordWorks r { r with state := .closing c } :=
  works_of_state r (.closing c) r.flights fun _ => ⟨fun h => (by rcases h with h | h <;> cases h), fun _ ho => nomatch ho⟩

theorem serveCancel_queue (id : BitVec 32) (s : State) : QueueKept s (serveCancel id s).1 := by
  unfold serveCancel
  split
  · exact .refl s
  · rename_i r hr
    have hmem := (recordById_mem hr).1
    split <;> dsimp only
    · exact (putRecord_works_queue hmem (enterDone_cancelled_works s (.inl ‹_›))).trans (tell_queue _ _)
    · exact (putRecord_works_queue hmem (enterDone_cancelled_works s (.inr ‹_›))).trans (tell_queue _ _)
    · exact (putRecord_works_queue hmem (closing_works r .cancel)).trans (tell_queue _ _)
    · exact .refl s
    · exact .refl s

theorem adjusted_goesOn (priority options : Byte) (r : Record) : RecordGoesOn r (adjusted priority options r) :=
  ⟨recordContinues_refl r, id⟩

theorem serveAdjust_queue (id : BitVec 32) (priority options : Byte) (s : State) :
    QueueKept s (serveAdjust id priority options s).1 := by
  unfold serveAdjust
  split
  · exact .refl s
  · rename_i r hr
    have hput := putRecord_queue (recordById_mem hr).1 (adjusted_goesOn priority options r) fun h => h
    split
    · exact .refl s
    · dsimp only
      split
      · exact hput.trans (tell_queue _ _)
      · exact hput

theorem serveCollect_queue (id : BitVec 32) (cls : Byte) (start : BitVec 16) (options : Byte) (s : State) :
    QueueKept s (serveCollect id cls start options s).1 := by
  unfold serveCollect
  split
  · exact .refl s
  · split
    · exact .refl s
    · split
      · exact .refl s
      · split
        · exact .refl s
        · dsimp only
          split
          · exact queueKept_of_sublist List.filter_sublist rfl rfl
          · exact .refl s

/-- The state that a RESTART leaves before the lanes choose again (R65, R88, R126). -/
def restarted (s : State) : State :=
  { s with
    records := [], discovery := []
    abortRequests := s.abortRequests ++ allPhases.filterMap fun ph =>
      (laneOf s ph).exchange.map fun x => { lane := ph, serial := x.serial, cause := .restart }
    lanes := perPhase fun ph => { laneOf s ph with deferral := 0 } }

theorem serveRestart_eq (s : State) : serveRestart s = (tell allPhases (restarted s), [resultByte .ok]) := by
  have hasks : (allPhases.flatMap fun ph => match (laneOf s ph).exchange with
      | none => []
      | some x => [({ lane := ph, serial := x.serial, cause := .restart } : AbortRequest)]) =
      allPhases.filterMap fun ph =>
        (laneOf s ph).exchange.map fun x => { lane := ph, serial := x.serial, cause := .restart } := by
    rw [List.filterMap_eq_flatMap_toList]
    refine congrArg (fun f => List.flatMap f allPhases) (funext fun ph => ?_)
    cases (laneOf s ph).exchange <;> rfl
  rw [restarted, ← hasks]
  rfl

theorem serveRestart_queue (s : State) : QueueKept s (serveRestart s).1 := by
  rw [serveRestart_eq]
  exact (queueKept_of_sublist (s := s) (t := restarted s) (List.nil_sublist _) rfl rfl).trans (tell_queue allPhases _)

theorem serveUnitWrite_queue (f : UnitWriteFields) (s : State) : QueueKept s (serveUnitWrite f s).1 := by
  unfold serveUnitWrite
  split
  all_goals first | exact .refl s | exact queueKept_of_eq rfl rfl rfl

theorem serveDiscoveryRead_queue (option : Byte) (s : State) : QueueKept s (serveDiscoveryRead option s).1 := by
  unfold serveDiscoveryRead
  split
  · exact .refl s
  · exact queueKept_ite (queueKept_of_eq rfl rfl rfl)

theorem serveProfileWrite_queue (mask : BitVec 16) (values : List Byte) (s : State) :
    QueueKept s (serveProfileWrite mask values s).1 := by
  unfold serveProfileWrite
  split
  · exact .refl s
  · dsimp only
    split
    · exact .refl s
    · exact (tell_queue _ _).after rfl rfl rfl

theorem secondApplied_queue (s : State) : QueueKept s (secondApplied s) :=
  (commitRecords_queue (clockRecord_works s) s).trans (queueKept_of_eq rfl rfl rfl)

theorem clockEvent_queue (s : State) : QueueKept s (clockEvent s) := by
  rw [clockEvent_eq]
  split
  · exact secondApplied_queue s
  · exact (secondApplied_queue s).trans (tell_queue _ _)

theorem serveClockSet_queue (seconds : BitVec 32) (s : State) : QueueKept s (serveClockSet seconds s).1 := by
  unfold serveClockSet
  split
  · exact .refl s
  · exact (clockEvent_queue _).after rfl rfl rfl

theorem stopLane_queue (s : State) (ph : Phase) : QueueKept s (stopLane s ph) :=
  (stopLane_work s ph).toLaneSide.queue (budgetKept_of_works (works_byChoice.stopLane s ph))

theorem pauseLane_queue (s : State) (ph : Phase) : QueueKept s (pauseLane s ph) :=
  (pauseLane_work s ph).toLaneSide.queue (budgetKept_of_works (works_byChoice.pauseLane s ph))

theorem resumeLane_queue (s : State) (ph : Phase) : QueueKept s (resumeLane s ph) :=
  (resumeLane_work s ph).toLaneSide.queue (budgetKept_of_works (works_byChoice.resumeLane works_of_seen s ph))

theorem QueueKept.foldl {α : Type} {f : State → α → State} (h : ∀ s a, QueueKept s (f s a)) :
    ∀ (as : List α) (s : State), QueueKept s (as.foldl f s)
  | [], s => .refl s
  | a :: as, s => (h s a).trans (QueueKept.foldl h as (f s a))

theorem serveLaneControl_queue (mask action : Byte) (s : State) : QueueKept s (serveLaneControl mask action s).1 := by
  unfold serveLaneControl
  split
  · exact .refl s
  · dsimp only
    split
    · exact (QueueKept.foldl stopLane_queue _ s).trans (tell_queue _ _)
    · split
      · exact (QueueKept.foldl pauseLane_queue _ s).trans (tell_queue _ _)
      · split
        · exact (QueueKept.foldl resumeLane_queue _ s).trans (tell_queue _ _)
        · exact .refl s

theorem serveStatus_queue (option : Byte) (s : State) : QueueKept s (serveStatus option s).1 := by
  unfold serveStatus
  split
  · exact .refl s
  · exact queueKept_of_eq rfl rfl rfl

theorem serveMaskWrite_queue (mask : BitVec 16) (s : State) : QueueKept s (serveMaskWrite mask s).1 := by
  unfold serveMaskWrite
  split
  · exact .refl s
  · exact queueKept_of_eq rfl rfl rfl

theorem serve_queue (rq : Request) (s : State) : QueueKept s (serve rq s).1 := by
  cases rq with
  | submit f => exact serveSubmit_queue f s
  | cancel id => exact serveCancel_queue id s
  | adjust id priority options => exact serveAdjust_queue id priority options s
  | collect id cls start options => exact serveCollect_queue id cls start options s
  | restart => exact serveRestart_queue s
  | unitWrite f => exact serveUnitWrite_queue f s
  | unitRead form start count address =>
    have h : (serve (.unitRead form start count address) s).1 = s := serveUnitRead_state form start count address s
    rw [h]
    exact .refl s
  | discoveryRead option => exact serveDiscoveryRead_queue option s
  | profileWrite mask values => exact serveProfileWrite_queue mask values s
  | profileRead => exact .refl s
  | clockSet seconds => exact serveClockSet_queue seconds s
  | laneControl mask action => exact serveLaneControl_queue mask action s
  | status option => exact serveStatus_queue option s
  | maskWrite mask => exact serveMaskWrite_queue mask s

theorem queueKept_byUplink : KeptByUplink QueueKept := ⟨.trans, fun _ _ _ _ => queueKept_of_eq rfl rfl rfl, serve_queue⟩

/-! ### The mains and the deliveries -/

theorem setPtu_queue (s : State) (ph : Phase) (u : Ptu) : QueueKept s (setPtu s ph u) := queueKept_of_eq rfl rfl rfl

theorem raise_queue (f : Flag) (s : State) : QueueKept s (raise f s) :=
  (raise_work f s).toLaneSide.queue (budgetKept_of_eq (raise_records f s))

theorem raiseIf_queue (c : Bool) (f : Flag) (s : State) : QueueKept s (raiseIf c f s) := queueKept_ite (raise_queue f s)

theorem laneFirstBoundary_queue (ph : Phase) (s : State) : QueueKept s (laneFirstBoundary ph s) := by
  have hsettle : QueueKept s (settleLane ph s) :=
    (settleLane_work ph s).toLaneSide.queue (budgetKept_of_eq (settleLane_records ph s))
  exact ((queueKept_ite hsettle).trans (tell_queue [ph] _)).trans (queueKept_of_eq rfl rfl rfl)

theorem crossingLocking_queue (ph : Phase) (s : State) : QueueKept s (crossingLocking ph s) := by
  unfold crossingLocking
  dsimp only
  split
  · exact ((setPtu_queue s ph _).trans (raise_queue _ _)).trans (laneFirstBoundary_queue ph _)
  · exact setPtu_queue s ph _

theorem crossingRunning_queue (ph : Phase) (s : State) : QueueKept s (crossingRunning ph s) :=
  (setPtu_queue s ph _).trans (tell_queue _ _)

theorem crossingLost_queue (ph : Phase) (s : State) : QueueKept s (crossingLost ph s) :=
  (setPtu_queue s ph (crossLost s.now (ptuOf s ph))).trans
    ((laneSeen_work ph _).toLaneSide.queue (budgetKept_of_works (works_byChoice.laneSeen works_of_seen ph _)))

theorem laneLoss_queue (ph : Phase) (time : Nat) (s : State) : QueueKept s (laneLoss ph time s) :=
  (laneLoss_work ph time s).toLaneSide.queue (budgetKept_of_works (works_byChoice.laneLoss ph time s))

theorem monitorLoss_queue (ph : Phase) (s : State) : QueueKept s (monitorLoss ph s) := queueKept_of_eq rfl rfl rfl

theorem phaseLost_queue (ph : Phase) (time : Nat) (s : State) : QueueKept s (phaseLost ph time s) :=
  ((((setPtu_queue s ph _).trans (raise_queue .phaseLost _)).trans (monitorLoss_queue ph _)).trans
    (laneLoss_queue ph time _)).trans (tell_queue _ _)

theorem takeMiss_queue (ph : Phase) (s : State) : QueueKept s (takeMiss ph s) := by
  unfold takeMiss
  dsimp only
  split
  · exact setPtu_queue s ph _
  · split
    · exact ((setPtu_queue s ph _).trans (raiseIf_queue _ _ _)).trans (phaseLost_queue ph _ _)
    · exact ((setPtu_queue s ph _).trans (raiseIf_queue _ _ _)).trans (tell_queue _ _)

theorem measure_queue (ph : Phase) (ended : EndedHalf) (s : State) : QueueKept s (measure ph ended s) :=
  QueueKept.after (s' := setLcm s ph (measured s.profile ended (lcmOf s ph)))
    ((raiseIf_queue _ _ _).trans (raiseIf_queue _ _ _)) rfl rfl rfl

theorem laneBoundary_queue (ph : Phase) (ended : EndedHalf) (v : Verdict) (o : ReportOrder) (s : State) :
    QueueKept s (laneBoundary ph ended v o s) := (laneBoundary_side ..).queue (laneBoundary_budget ..)

theorem reportStart_queue (ph : Phase) (s : State) : QueueKept s (reportStart ph s) := queueKept_of_eq rfl rfl rfl

theorem takeBoundary_queue (ph : Phase) (mf : Bool) (o : ReportOrder) (s : State) :
    QueueKept s (takeBoundary ph mf o s) := by
  cases mf with
  | true =>
    exact (((setPtu_queue s ph _).trans (measure_queue ph _ _)).trans (laneBoundary_queue ..)).trans (reportStart_queue ph _)
  | false =>
    exact (((setPtu_queue s ph _).trans (laneBoundary_queue ..)).trans (measure_queue ph _ _)).trans (reportStart_queue ph _)

theorem takeWindow_queue (ph : Phase) (s : State) : QueueKept s (takeWindow ph s) := by
  unfold takeWindow
  dsimp only
  split
  · exact .refl s
  · unfold driveWindow
    dsimp only
    split <;> exact queueKept_of_eq rfl rfl rfl

theorem backoffEnds_works (s : State) (unit : Nat) (r : Record) :
    RecordWorks r
      { r with targets := r.targets.map fun t =>
          if backoffEnds s unit t then
            { t with notBefore := t.notBefore.map fun nb => { nb with passed := true } } else t } :=
  works_of_targets r _ (fun t => by split <;> exact targetContinues_refl t) (fun t ht => by split <;> exact ht)

theorem passNotBefore_queue {r : Record} {s : State} (hr : r ∈ s.records) (unit : Nat) :
    QueueKept s (passNotBefore r unit s) :=
  (putRecord_works_queue hr (backoffEnds_works s unit r)).trans (tell_queue _ _)

theorem takeQueueReport_queue (n : Nat) (s : State) : QueueKept s (takeQueueReport n s) :=
  (takeQueueReport_work n s).toLaneSide.queue (takeQueueReport_budget n s)

theorem takeTableReport_queue (n : Nat) (s : State) : QueueKept s (takeTableReport n s) :=
  (takeTableReport_side n s).queue (takeTableReport_budget n s)

theorem abortRequestTaken_queue (q : AbortRequest) (s : State) : QueueKept s (abortRequestTaken q s) :=
  QueueKept.after (s' := { s with abortRequests := s.abortRequests.erase q })
    (((takeAbortRequest_work q _).toLaneSide.queue (budgetKept_of_works (works_byChoice.takeAbortRequest q _))).trans
      (tell_queue _ _)) rfl rfl rfl

theorem secondTick_queue (s : State) : QueueKept s (secondTick s) :=
  (clockEvent_queue _).after rfl rfl rfl

theorem execCrossing_queue (ph : Phase) (s : State) : ∃ t, exec (.crossing ph) s = .next t ∧ QueueKept s t := by
  refine ⟨_, rfl, QueueKept.trans ?_ (transmit_queue _)⟩
  split
  · exact crossingLocking_queue ph s
  · exact crossingRunning_queue ph s
  · exact crossingRunning_queue ph s
  · exact crossingLost_queue ph s

/-- Every command but a device reset keeps the queue's properties. -/
theorem exec_queue {c : Instr} (hc : ∀ fsel baud, c ≠ .deviceReset fsel baud) (s : State) :
    ∃ t, exec c s = .next t ∧ QueueKept s t := by
  by_cases hup : KeptByUplink.takes c = true
  · exact queueKept_byUplink.exec hup s
  cases c with
  | deviceReset fsel baud => exact absurd rfl (hc fsel baud)
  | crossing ph => exact execCrossing_queue ph s
  | missTest ph => exact ⟨_, rfl, (queueKept_ite (takeMiss_queue ph s)).trans (transmit_queue _)⟩
  | halfCycleBoundary ph mf o => exact ⟨_, rfl, (queueKept_ite (takeBoundary_queue ph mf o s)).trans (transmit_queue _)⟩
  | windowBoundary ph => exact ⟨_, rfl, (queueKept_ite (takeWindow_queue ph s)).trans (transmit_queue _)⟩
  | windowSample ph rxd cd lq => exact ⟨_, rfl, (queueKept_ite (setPtu_queue s ph _)).trans (transmit_queue _)⟩
  | secondEvent => exact ⟨_, rfl, (queueKept_ite (secondTick_queue s)).trans (transmit_queue _)⟩
  | referenceTick =>
    refine ⟨_, rfl, QueueKept.trans ?_ (transmit_queue _)⟩
    split
    · exact secondTick_queue s
    · exact queueKept_of_eq rfl rfl rfl
  | notBeforeTimePasses id unit =>
    refine ⟨_, rfl, QueueKept.trans ?_ (transmit_queue _)⟩
    split
    · exact .refl s
    · rename_i r hr
      exact queueKept_ite (passNotBefore_queue (recordById_mem hr).1 unit)
  | endReport which => exact ⟨_, rfl, (takeQueueReport_queue which s).trans (transmit_queue _)⟩
  | learningReport which => exact ⟨_, rfl, (takeTableReport_queue which s).trans (transmit_queue _)⟩
  | abortRequest lane =>
    refine ⟨_, rfl, QueueKept.trans ?_ (transmit_queue _)⟩
    split
    · exact .refl s
    · exact abortRequestTaken_queue _ s
  | _ => exact absurd rfl hup

/-! ### Every step -/

/-- A step carries the queue's properties over, or is a device reset, which empties the queue (R40). -/
theorem step_queue {s t : State} (h : step s = .next t) : QueueKept s t ∨ (t.records = [] ∧ t.tagCounter = 1) := by
  cases hp : s.pending with
  | nil =>
    rw [step_nil hp] at h
    cases h
    exact .inl (.refl s)
  | cons c rest =>
    rw [step_cons hp] at h
    by_cases hc : ∃ fsel baud, c = .deviceReset fsel baud
    · obtain ⟨fsel, baud, rfl⟩ := hc
      cases h
      exact .inr ⟨rfl, rfl⟩
    · push Not at hc
      obtain ⟨u, hu, hk⟩ := exec_queue hc { s with pending := rest }
      rw [hu] at h
      cases h
      exact .inl (hk.after rfl rfl rfl)

/-- Settles O8: a step keeps the queue's invariant, or empties the queue. -/
theorem queueIdentifiersStayApart : Obligations.QueueIdentifiersStayApart := by
  intro s t hs h
  rcases step_queue h with hk | ⟨hr, ht⟩
  · exact hk.ok hs
  · exact emptyQueue_ok hr ht

/-- Settles O9: budgets are followed through every operation, whatever the serial numbers are. -/
theorem attemptsNeverExceedBudget : Obligations.AttemptsNeverExceedBudget := by
  intro s t hs h
  rcases step_queue h with hk | ⟨hr, -⟩
  · exact hk.budgets.within hs
  · exact fun r hm => absurd (hr ▸ hm) List.not_mem_nil

/-- Settles O10: each record in the queue is settled as it becomes what it becomes. -/
theorem doneRecordsAreSettled : Obligations.DoneRecordsAreSettled := by
  intro s t hq hs h
  rcases step_queue h with hk | ⟨hr, -⟩
  · exact hk.settledOk hq hs
  · exact fun r hm => absurd (hr ▸ hm) List.not_mem_nil

/-- Settles O13: a record older than the step goes on from one that stood before it. -/
theorem recordsKeepTheirTermsForLife : Obligations.RecordsKeepTheirTermsForLife := by
  intro s t hq h
  rcases step_queue h with hk | ⟨hr, -⟩
  · exact hk.terms hq
  · exact fun r hm _ => absurd (hr ▸ hm) List.not_mem_nil

end Sys2Proof.Machine

/-! ## What choosing again makes of a record, field by field

`RecordSettles` says which records the lanes' choosing can end. `RecordChosen` adds what it leaves of every record: all
but its state, its stage and parts, the rounds sent, and the outcome of PENDING targets. -/

namespace Sys2Proof.Machine

open Sys2Proof.Claims

/-- All of a target but the outcome of a PENDING one is as it was. -/
structure TargetRests (g g' : Target) : Prop where
  unit : g'.unit = g.unit
  attempts : g'.attempts = g.attempts
  notBefore : g'.notBefore = g.notBefore
  inFlight : g'.inFlight = g.inFlight
  outcome : g.outcome ≠ .pending → g'.outcome = g.outcome

theorem TargetRests.refl (g : Target) : TargetRests g g := ⟨rfl, rfl, rfl, rfl, fun _ => rfl⟩

theorem TargetRests.trans {a b c : Target} (h : TargetRests a b) (k : TargetRests b c) : TargetRests a c :=
  ⟨k.unit.trans h.unit, k.attempts.trans h.attempts, k.notBefore.trans h.notBefore, k.inFlight.trans h.inFlight,
    fun ha => (k.outcome (by rwa [h.outcome ha])).trans (h.outcome ha)⟩

theorem forall₂_rests_refl (gs : List Target) : List.Forall₂ TargetRests gs gs :=
  List.forall₂_same.2 fun g _ => .refl g

/-- Two lists related in turn to a third: what the two relations give together. -/
theorem forall₂_comp {α β γ : Type} {P : α → β → Prop} {Q : β → γ → Prop} {R : α → γ → Prop} :
    ∀ {as : List α} {bs : List β} {cs : List γ}, List.Forall₂ P as bs → List.Forall₂ Q bs cs →
      (∀ a b c, P a b → Q b c → R a c) → List.Forall₂ R as cs
  | _, _, _, .nil, .nil, _ => .nil
  | _, _, _, .cons p ps, .cons q qs, h => .cons (h _ _ _ p q) (forall₂_comp ps qs h)

theorem forall₂_rests_trans {as bs cs : List Target} (h : List.Forall₂ TargetRests as bs)
    (k : List.Forall₂ TargetRests bs cs) : List.Forall₂ TargetRests as cs :=
  forall₂_comp h k fun _ _ _ => TargetRests.trans

theorem forall₂_rests_outcome (gs : List Target) (c : Target → Bool) (o : TargetOutcome)
    (h : ∀ g, c g = true → g.outcome = .pending) :
    List.Forall₂ TargetRests gs (gs.map fun g => if c g then { g with outcome := o } else g) :=
  List.forall₂_map_right_iff.2 (List.forall₂_same.2 fun g _ => by
    split
    · exact ⟨rfl, rfl, rfl, rfl, fun hn => absurd (h g ‹_›) hn⟩
    · exact .refl g)

/-- What choosing again leaves of a record. -/
structure RecordChosen (r r' : Record) : Prop extends RecordSettles r r' where
  active : r.state = .active → r'.state = .active
  priority : r'.priority = r.priority
  enable : r'.enable = r.enable
  flights : r'.flights = r.flights
  collided : r'.collided = r.collided
  lanesSeen : r'.lanesSeen = r.lanesSeen
  targets : List.Forall₂ TargetRests r.targets r'.targets

theorem RecordChosen.refl (r : Record) : RecordChosen r r :=
  ⟨.refl r, id, rfl, rfl, rfl, rfl, rfl, forall₂_rests_refl _⟩

theorem RecordChosen.trans {a b c : Record} (h : RecordChosen a b) (k : RecordChosen b c) : RecordChosen a c :=
  ⟨h.toRecordSettles.trans k.toRecordSettles, k.active ∘ h.active, k.priority.trans h.priority, k.enable.trans h.enable,
    k.flights.trans h.flights, k.collided.trans h.collided, k.lanesSeen.trans h.lanesSeen,
    forall₂_rests_trans h.targets k.targets⟩

/-- A READY or ACTIVE record whose stage, parts and rounds sent have moved on. -/
theorem chosen_of_stage {r : Record} (hr : r.state = .ready ∨ r.state = .active) (st : Stage) (ps : List Part) (n : Nat) :
    RecordChosen r { r with stage := st, parts := ps, roundsSent := n } :=
  ⟨settles_of_state (works_of_stage r st ps n r.collided r.lanesSeen) hr rfl, id, rfl, rfl, rfl, rfl, rfl,
    forall₂_rests_refl _⟩

/-- At COMPLETE no target is touched. -/
theorem enterDone_complete (s : State) (r : Record) : enterDone s .complete r = { r with state := .done .complete } := by
  have hclose : r.targets.map (closeTarget s r .complete) = r.targets := by
    conv_rhs => rw [← List.map_id r.targets]
    exact List.map_congr_left fun t _ => by
      unfold closeTarget
      split <;> rfl
  rw [enterDone, hclose]

theorem completeIfFinished_chosen (s : State) (r : Record) : RecordChosen r (completeIfFinished s r) := by
  have hsettles := completeIfFinished_settles s r
  unfold completeIfFinished at hsettles ⊢
  split at hsettles
  · rename_i h
    rw [enterDone_complete] at hsettles
    rw [if_pos h, enterDone_complete]
    exact ⟨hsettles, fun ha => absurd (h.1.symm.trans ha) nofun, rfl, rfl, rfl, rfl, rfl, forall₂_rests_refl _⟩
  · rename_i h
    rw [if_neg h]
    exact .refl r

theorem pendingDirect_pending {s : State} {g : Target} (h : pendingDirect s g = true) : g.outcome = .pending := by
  simp only [pendingDirect, Bool.and_eq_true, beq_iff_eq] at h
  exact h.1

/-- The record whose broadcast stage ends, before it is tested for completion (R54). -/
def followUp (s : State) (r : Record) : Record :=
  { r with
    stage := .followUp
    parts := []
    targets := if r.windows = 0 then
        r.targets.map fun t => if pendingDirect s t then { t with outcome := .unconfirmed } else t
      else r.targets }

theorem endBroadcast_eq (s : State) (r : Record) : endBroadcast s r = completeIfFinished s (followUp s r) := rfl

theorem followUp_chosen {s : State} {r : Record} (hr : r.state = .ready ∨ r.state = .active) :
    RecordChosen r (followUp s r) := by
  have hrests : List.Forall₂ TargetRests r.targets (followUp s r).targets := by
    show List.Forall₂ TargetRests r.targets (if r.windows = 0 then _ else r.targets)
    split
    · exact forall₂_rests_outcome _ _ _ fun g => pendingDirect_pending
    · exact forall₂_rests_refl _
  have hcont : List.Forall₂ targetContinues r.targets (followUp s r).targets :=
    hrests.imp fun _ _ h => ⟨h.unit, h.outcome⟩
  exact ⟨⟨⟨rfl, rfl, rfl, rfl, rfl, rfl, rfl, rfl, rfl, rfl, rfl, hcont⟩, fun h1 h2 => absurd hr (not_or.2 ⟨h1, h2⟩), .inl⟩,
    id, rfl, rfl, rfl, rfl, rfl, hrests⟩

theorem endBroadcast_chosen {s : State} {r : Record} (hr : r.state = .ready ∨ r.state = .active) :
    RecordChosen r (endBroadcast s r) := (followUp_chosen hr).trans (completeIfFinished_chosen s _)

theorem settleRounds_chosen (s : State) : ∀ (fuel : Nat) (r : Record), RecordChosen r (settleRounds s fuel r)
  | 0, r => .refl r
  | fuel + 1, r => by
    unfold settleRounds
    split
    · rename_i hr
      have laid := chosen_of_stage hr
      dsimp only
      split
      · split
        · split
          · exact (laid _ _ _).trans (settleRounds_chosen s fuel _)
          · exact (laid r.stage [] _).trans (completeIfFinished_chosen s _)
        · split
          · exact (laid _ _ _).trans (settleRounds_chosen s fuel _)
          · exact (laid r.stage _ _).trans (endBroadcast_chosen hr)
      · exact laid r.stage _ r.roundsSent
    · exact .refl r

theorem silentSpent_pending {s : State} {g : Target} (h : silentSpent s g = true) : g.outcome = .pending := by
  simp only [silentSpent, Bool.and_eq_true, beq_iff_eq] at h
  exact h.1.1.1

theorem evaluateRecord_chosen (s : State) (r : Record) : RecordChosen r (evaluateRecord s r) := by
  unfold evaluateRecord
  split
  · rename_i h
    have hr : r.state = .ready ∨ r.state = .active := by
      simp only [evaluationEnds, Bool.and_eq_true, Bool.or_eq_true, beq_iff_eq] at h
      exact h.1.1
    refine RecordChosen.trans ?_ (completeIfFinished_chosen s _)
    have hrests := forall₂_rests_outcome r.targets (silentSpent s) (.unreached .budgetSpent) fun g => silentSpent_pending
    exact ⟨⟨⟨rfl, rfl, rfl, rfl, rfl, rfl, rfl, rfl, rfl, rfl, rfl, hrests.imp fun _ _ h => ⟨h.unit, h.outcome⟩⟩,
      fun h1 h2 => absurd hr (not_or.2 ⟨h1, h2⟩), .inl⟩, id, rfl, rfl, rfl, rfl, rfl, hrests⟩
  · exact .refl r

theorem beginStage_chosen {s : State} {r : Record} (hr : r.state = .ready) : RecordChosen r (beginStage s r) := by
  have laid : ∀ (st : Stage) (ps : List Part), RecordChosen r { r with stage := st, parts := ps } := fun st ps =>
    chosen_of_stage (.inl hr) st ps r.roundsSent
  unfold beginStage
  split
  · exact completeIfFinished_chosen s r
  · split
    · exact (laid r.stage _).trans (settleRounds_chosen s _ _)
    · exact (laid .followUp []).trans (completeIfFinished_chosen s _)

/-- Choosing again is one of the relations that the lanes keep. -/
theorem chosen_byChoice : KeptByChoice RecordChosen :=
  ⟨.refl, .trans, fun s => settleRounds_chosen s roundFuel, evaluateRecord_chosen⟩

theorem tell_chosen (asked : List Phase) (s : State) : List.Forall₂ RecordChosen s.records (tell asked s).records :=
  chosen_byChoice.tell asked s

/-- A record that is neither READY nor ACTIVE is left alone. -/
theorem RecordChosen.same {r r' : Record} (h : RecordChosen r r') (h1 : r.state ≠ .ready) (h2 : r.state ≠ .active) :
    r' = r := h.toRecordSettles.rests h1 h2

end Sys2Proof.Machine

/-! ## SUBMIT (R43 to R46): O35, O36 -/

namespace Sys2Proof.Machine

open Sys2Proof.Claims

/-! ### The form of a SUBMIT (R43 checks 1 and 2) -/

theorem commandKindOfCode_eq (c : Byte) :
    commandKindOfCode c = if c.toNat = 0 then some .tariff else if c.toNat = 1 then some .rollcall else none := by
  unfold commandKindOfCode
  split
  · rfl
  · rfl
  · rename_i h0 h1
    have n0 : ¬c.toNat = 0 := fun h => h0 (BitVec.eq_of_toNat_eq h)
    have n1 : ¬c.toNat = 1 := fun h => h1 (BitVec.eq_of_toNat_eq h)
    rw [if_neg n0, if_neg n1]

theorem ofNat_byte_toNat (b : Byte) : byteOf b.toNat = b := BitVec.ofNat_toNat ..

/-- The condition that a code and its parameter give: the six codes in turn (R38, R173). -/
theorem conditionOf_eq (code : Nat) (param : Byte) :
    conditionOf code param.toNat =
      if code = 0 ∨ 6 < code ∨ (code = 2 ∧ param.toNat = 0) ∨ (code = 5 ∧ 15 < param.toNat) then none
      else if code = 1 then some .allActive
      else if code = 2 then some (.group param)
      else if code = 3 then some .phaseUnknown
      else if code = 4 then some .silent
      else if code = 5 then some (.qualityBelow param.toNat)
      else some .discover := by
  rcases Nat.lt_or_ge 6 code with h | h
  · rw [if_pos (.inr (.inl h))]
    unfold conditionOf
    split <;> first | omega | rfl
  · interval_cases code <;> simp [conditionOf, ofNat_byte_toNat]

theorem toNat_eq_zero_iff (b : Byte) : b = 0 ↔ b.toNat = 0 := ⟨fun h => h ▸ rfl, fun h => BitVec.eq_of_toNat_eq h⟩

/-- The target of a SUBMIT in its four types, for a field that checks 1 and 2 accept. -/
theorem targetOf_good {f : SubmitFields} (h : ¬submitBad f) {kind : CommandKind} (hk : kind = .tariff → f.kind.toNat = 0) :
    targetOf kind f.targetType f.target = some (submitTarget f) := by
  simp only [submitBad, not_or] at h
  obtain ⟨-, htype, hgroup, hcond, hcode, -⟩ := h
  have h4 : f.targetType.toNat = 0 ∨ f.targetType.toNat = 1 ∨ f.targetType.toNat = 2 ∨ f.targetType.toNat = 3 := by omega
  unfold targetOf submitTarget
  rcases h4 with ht | ht | ht | ht
  · simp only [ht, ↓reduceIte]
  · have hparam : ¬f.target.extractLsb' 0 8 = 0 := fun h0 => hgroup ⟨ht, (toNat_eq_zero_iff _).1 h0⟩
    simp only [ht, hparam, ↓reduceIte, one_ne_zero]
  · simp only [ht, ↓reduceIte, OfNat.ofNat_ne_zero, OfNat.ofNat_ne_one]
  · cases kind with
    | tariff => exact absurd ⟨ht, hk rfl⟩ hcond
    | rollcall =>
      simp only [ht, OfNat.ofNat_ne_zero, OfNat.ofNat_ne_one, Nat.succ_ne_self, ↓reduceIte,
        conditionOf_eq]
      rw [if_neg fun hbad => hcode ⟨ht, hbad⟩]
      split_ifs <;> rfl

/-- A target that checks 1 and 2 refuse. -/
theorem targetOf_bad {f : SubmitFields} {kind : CommandKind} (hk : kind = .tariff ↔ f.kind.toNat = 0)
    (h : 3 < f.targetType.toNat ∨ (f.targetType.toNat = 1 ∧ (f.target.extractLsb' 0 8).toNat = 0) ∨
      (f.targetType.toNat = 3 ∧ f.kind.toNat = 0) ∨
      (f.targetType.toNat = 3 ∧ ((f.target.extractLsb' 24 8).toNat = 0 ∨ 6 < (f.target.extractLsb' 24 8).toNat ∨
        ((f.target.extractLsb' 24 8).toNat = 2 ∧ (f.target.extractLsb' 0 8).toNat = 0) ∨
        ((f.target.extractLsb' 24 8).toNat = 5 ∧ 15 < (f.target.extractLsb' 0 8).toNat)))) :
    targetOf kind f.targetType f.target = none := by
  unfold targetOf
  rcases h with h | ⟨ht, hp⟩ | ⟨ht, h0⟩ | ⟨ht, hc⟩
  · split <;> first | omega | rfl
  · simp only [ht, (toNat_eq_zero_iff _).2 hp, ↓reduceIte]
  · simp only [ht, hk.2 h0]
  · cases kind with
    | tariff => simp only [ht]
    | rollcall => simp only [ht, conditionOf_eq, if_pos hc, Option.map_none]

/-- The kind that a SUBMIT's kind field gives (R172). -/
def submitKind (f : SubmitFields) : CommandKind := if f.kind = 0 then .tariff else .rollcall

theorem submitKind_tariff (f : SubmitFields) : submitKind f = .tariff ↔ f.kind.toNat = 0 := by
  rw [← toNat_eq_zero_iff]
  unfold submitKind
  split
  · simp_all
  · simp_all

theorem commandKindOfCode_submit {f : SubmitFields} (h : f.kind.toNat ≤ 1) : commandKindOfCode f.kind = some (submitKind f) := by
  rw [commandKindOfCode_eq]
  split
  · rw [(submitKind_tariff f).2 ‹_›]
  · rename_i h0
    rw [if_pos (by omega), submitKind, if_neg fun hz => h0 ((toNat_eq_zero_iff _).1 hz)]

theorem payloadOk_iff (f : SubmitFields) : payloadOk (submitKind f) f.payload = true ↔
    ¬(f.kind.toNat = 0 ∧ (f.payload.length = 0 ∨ 16 < f.payload.length)) ∧
      ¬(f.kind.toNat ≠ 0 ∧ f.payload.length ≠ 0) := by
  by_cases h : f.kind.toNat = 0
  · rw [(submitKind_tariff f).2 h]
    simp only [payloadOk, Bool.and_eq_true, decide_eq_true_eq]
    omega
  · have hroll : submitKind f = .rollcall := by
      cases hk : submitKind f with
      | tariff => exact absurd ((submitKind_tariff f).1 hk) h
      | rollcall => rfl
    rw [hroll]
    simp only [payloadOk, List.isEmpty_iff, ← List.length_eq_zero_iff]
    omega

theorem submitForm_good {f : SubmitFields} (h : ¬submitBad f) : submitForm f = some (submitKind f, submitTarget f) := by
  have htarget := targetOf_good h (submitKind_tariff f).1
  simp only [submitBad, not_or] at h
  obtain ⟨hkind, -, -, -, -, hempty, hroll, hid⟩ := h
  have hpayload : payloadOk (submitKind f) f.payload = true := (payloadOk_iff f).2 ⟨hempty, fun hp => hroll ⟨by omega, hp.2⟩⟩
  have hid' : (f.id != 0) = true := bne_iff_ne.2 hid
  simp only [submitForm, commandKindOfCode_submit (Nat.not_lt.1 hkind), htarget, hpayload, hid', Bool.and_self, ↓reduceIte]

theorem submitForm_bad {f : SubmitFields} (h : submitBad f) : submitForm f = none := by
  unfold submitForm
  split
  · rfl
  · rename_i kind hk
    by_cases hkind : f.kind.toNat ≤ 1
    · cases (commandKindOfCode_submit hkind).symm.trans hk
      split
      · rfl
      · rename_i spec htarget
        refine if_neg fun hpay => ?_
        rw [Bool.and_eq_true, bne_iff_ne] at hpay
        obtain ⟨hempty, hroll⟩ := (payloadOk_iff f).1 hpay.1
        have hsome : targetOf (submitKind f) f.targetType f.target ≠ none := by
          rw [htarget]
          nofun
        simp only [submitBad] at h
        rcases h with h | h | h | h | h | h | h | h
        · omega
        · exact hsome (targetOf_bad (submitKind_tariff f) (.inl h))
        · exact hsome (targetOf_bad (submitKind_tariff f) (.inr (.inl h)))
        · exact hsome (targetOf_bad (submitKind_tariff f) (.inr (.inr (.inl h))))
        · exact hsome (targetOf_bad (submitKind_tariff f) (.inr (.inr (.inr h))))
        · exact hempty h
        · exact hroll ⟨by omega, h.2⟩
        · exact hpay.2 h
    · rw [commandKindOfCode_eq, if_neg (show ¬f.kind.toNat = 0 by omega), if_neg (show ¬f.kind.toNat = 1 by omega)] at hk
      cases hk

/-! ### The checks in their order -/

theorem recordById_isSome {s : State} {id : BitVec 32} : (recordById s id).isSome = true ↔ ∃ r ∈ s.records, r.id = id := by
  simp [recordById]

/-- A SUBMIT whose form is good meets the other checks of R43 in turn. -/
theorem checkSubmit_of_good {f : SubmitFields} (h : ¬submitBad f) (s : State) :
    checkSubmit s f =
      if (recordById s f.id).isSome then .error .duplicateId
      else if 64 ≤ s.records.length then .error .queueFull
      else if (f.release ≠ 0 ∨ f.deadline ≠ 0) ∧ s.clock.isSet = false then .error .noClock
      else if f.deadline ≠ 0 ∧ f.deadline.toNat ≤ s.clock.seconds then .error .tooLate
      else if f.release ≠ 0 ∧ f.deadline ≠ 0 ∧ f.deadline.toNat ≤ f.release.toNat then .error .badWindow
      else
        match expandTarget s.units (submitTarget f) with
        | none => .error .unknownUnit
        | some set =>
          if set.isEmpty && submitTarget f != .cond .discover then .error .emptyTarget
          else .ok (submitKind f, submitTarget f, set) := by
  unfold checkSubmit
  split
  · rename_i hform
    cases (submitForm_good h).symm.trans hform
  · rename_i hform
    cases (submitForm_good h).symm.trans hform
    rfl

theorem serveSubmit_refused {s : State} {f : SubmitFields} {c : ResultCode} (h : checkSubmit s f = .error c) :
    serveSubmit f s = (s, [resultByte c]) := by
  simp only [serveSubmit, h, refuse]

/-- Settles O36: check by check, the first that fails answers. -/
theorem submitRefusedByFirstFailingCheck : Obligations.SubmitRefusedByFirstFailingCheck := by
  intro tag f s hroom refused duplicate full noClock late window
  have hanswer : ∀ c, checkSubmit s f = .error c → refused (resultByte c) := fun c h =>
    answers_of_serve (rq := .submit f) rfl rfl hroom fun u => serveSubmit_refused (s := { s with uli := u }) h
  refine ⟨fun hbad => hanswer .badField ?_, fun hgood => ?_⟩
  · simp only [checkSubmit, submitForm_bad hbad]
  have hcheck := checkSubmit_of_good hgood s
  have hdup : (recordById s f.id).isSome = true ↔ duplicate := recordById_isSome
  refine ⟨fun h => hanswer .duplicateId (by rw [hcheck, if_pos (hdup.2 h)]), fun hd => ?_⟩
  rw [if_neg (mt hdup.1 hd)] at hcheck
  refine ⟨fun h => hanswer .queueFull (by rw [hcheck, if_pos h]), fun hfull => ?_⟩
  rw [if_neg hfull] at hcheck
  refine ⟨fun h => hanswer .noClock (by rw [hcheck, if_pos h]), fun hclock => ?_⟩
  rw [if_neg hclock] at hcheck
  refine ⟨fun h => hanswer .tooLate (by rw [hcheck, if_pos h]), fun hlate => ?_⟩
  rw [if_neg hlate] at hcheck
  refine ⟨fun h => hanswer .badWindow (by rw [hcheck, if_pos h]), fun hwindow => ?_⟩
  rw [if_neg hwindow] at hcheck
  refine ⟨fun h => hanswer .unknownUnit (by rw [hcheck, h]), fun h hspec => hanswer .emptyTarget ?_⟩
  rw [hcheck, h]
  simp [hspec]

end Sys2Proof.Machine

/-! ## Requests that the queue answers with its records changed: O35, O38, O39, O40 -/

namespace Sys2Proof.Machine

open Sys2Proof.Claims

/-! ### What a request leaves of the state -/

/-- A request that finds room and whose owner leaves the uplink alone but for notice-due: the owner's state, with the
response queued (R148 to R150). -/
theorem exec_answered {c : Instr} {s : State} {r : Uli → State} {kind tag : Byte} {rq : Request} {content : List Byte}
    (hc : requestOf c = some (tag, rq)) (hk : requestKind rq + 0x80 = kind) (hroom : s.uli.responses.length < 4)
    (hserve : ∀ u, serve rq { s with uli := u } = (r u, content))
    (huli : ∀ u, (r u).uli = { u with noticeDue := (r u).uli.noticeDue }) :
    ∃ u v d, exec c s = .next { r u with uli := v, draws := d } ∧ responseQueued s.uli v { kind, tag, content } := by
  have hs := hserve (transmit s).uli
  rw [← transmit_rest s] at hs
  have hexec : exec c s = .next (transmit (respond { kind, tag, content } (r (transmit s).uli))) := by
    rw [exec_of_requestOf hc, intakeRequest_room hroom, perform, hs, hk]
  rw [transmit_respond_rest] at hexec
  exact ⟨_, _, _, hexec, responseQueued_respond { kind, tag, content } (huli _)⟩

/-- What the lanes' work leaves alone, whatever the uplink does beside it. -/
theorem LaneWork.outsideAnswered {s r : State} {u : Uli} {rs : List Record}
    (h : LaneWork { s with records := rs, uli := u } r) (v : Uli) (d : Nat) :
    outsideKept s { r with uli := v, draws := d } :=
  ⟨h.now, h.ptu, h.clock, h.profile, h.units, h.discovery, h.tagCounter, h.inFlight, h.nextExchange, h.abortRequests,
    h.lcm, h.mask, h.flags, h.pending⟩

/-! ### Records found by identifier and by serial number -/

theorem eq_of_id {rs : List Record} (hn : (rs.map Record.id).Nodup) {a b : Record} (ha : a ∈ rs) (hb : b ∈ rs)
    (h : a.id = b.id) : a = b := List.inj_on_of_nodup_map hn ha hb h

theorem recordById_eq {s : State} (hs : s.queueOk) {r : Record} (hr : r ∈ s.records) : recordById s r.id = some r := by
  cases hq : recordById s r.id with
  | none => exact absurd rfl (recordById_none.1 hq r hr)
  | some q =>
    obtain ⟨hmem, hid⟩ := recordById_mem hq
    rw [eq_of_id hs.idsApart hmem hr hid]

theorem recordOf_eq {s : State} (hs : (s.records.map Record.serial).Nodup) {r : Record} (hr : r ∈ s.records) :
    recordOf s r.serial = some r := by
  cases hq : recordOf s r.serial with
  | none => exact absurd (beq_self_eq_true r.serial) (List.find?_eq_none.1 hq r hr)
  | some q =>
    obtain ⟨hmem, hserial⟩ := recordOf_mem hq
    rw [eq_of_serial hs hmem hr hserial]

/-- The record of an identifier put back, and then what the lanes' choosing makes of all records. -/
theorem recordChanges_put {id : BitVec 32} {p : Record → Record → Prop} {s t : State} {r r' : Record} (hs : s.queueOk)
    (hr : r ∈ s.records) (hid : r.id = id) (hserial : r'.serial = r.serial)
    (ht : List.Forall₂ RecordChosen (s.records.map fun q => if q.serial = r'.serial then r' else q) t.records) (hp : ∀ q, RecordChosen r' q → p r q) :
    recordChanges id p s t := by
  have hput : List.Forall₂ (fun q q' => (q = r → q' = r') ∧ (q ≠ r → q' = q)) s.records
      (s.records.map fun q => if q.serial = r'.serial then r' else q) := by
    refine forall₂_put (fun q _ hne => ⟨fun he => absurd (he ▸ hserial.symm) hne, fun _ => rfl⟩) fun q hq he => ?_
    exact ⟨fun _ => rfl, fun hne => absurd (eq_of_serial hs.serialsApart hq hr (he.trans hserial)) hne⟩
  have hmem : List.Forall₂ (fun q q' => q ∈ s.records ∧ ((q = r → q' = r') ∧ (q ≠ r → q' = q))) s.records
      (s.records.map fun q => if q.serial = r'.serial then r' else q) := (List.forall₂_and_left _ _).2 ⟨fun q hq => hq, hput⟩
  refine forall₂_comp hmem ht fun q q' q'' ⟨hq, hsame, hother⟩ hchosen => ⟨fun he => ?_, fun hne => ?_⟩
  · obtain rfl := eq_of_id hs.idsApart hq hr (he.trans hid.symm)
    exact hp q'' (hsame rfl ▸ hchosen)
  · rw [← hother fun he => hne (he ▸ hid)]
    exact hchosen.continues

/-- What the lanes' choosing makes of the queue with one record put back. -/
theorem putRecord_chosen {r' : Record} (s : State) (u : Uli) :
    List.Forall₂ RecordChosen (s.records.map fun q => if q.serial = r'.serial then r' else q)
      (tell allPhases (putRecord r' { s with uli := u })).records := by
  have h := tell_chosen allPhases (putRecord r' { s with uli := u })
  rwa [putRecord, commitRecords_records] at h

/-! ### SUBMIT that passes (R43 to R46) -/

/-- What the lanes' choosing makes of the queue with its new record. -/
theorem admitNew_from (r : Record) (s : State) :
    LaneWork (admitted r s) (admitNew r s) ∧ List.Forall₂ RecordChosen (admitted r s).records (admitNew r s).records := by
  rw [admitNew_eq]
  split
  · exact ⟨tell_work _ _, tell_chosen _ _⟩
  · exact ⟨.refl _, chosen_byChoice.all_refl _⟩

/-- What an admission leaves of the state beside the queue (R45, R46). -/
theorem admitted_frame (r : Record) (s : State) :
    admitted r s =
      { s with
        records := s.records ++ [admittedRecord s r]
        tagCounter := nextTag r.tag
        nextSerial := s.nextSerial + 1
        events := (admitted r s).events
        uli := (admitted r s).uli } := by
  conv_lhs => rw [admitted, commitRecords_frame]
  rfl

theorem admittedRecord_chosen (s : State) (r : Record) : RecordChosen r (admittedRecord s r) := by
  unfold admittedRecord
  split
  · exact beginStage_chosen ‹_›
  · exact .refl r

theorem forall₂_append_one {α β : Type} {R : α → β → Prop} : ∀ {as : List α} {a : α} {cs : List β},
    List.Forall₂ R (as ++ [a]) cs → ∃ bs b, cs = bs ++ [b] ∧ List.Forall₂ R as bs ∧ R a b
  | [], a, _, .cons h .nil => ⟨[], _, rfl, .nil, h⟩
  | _ :: as, a, _, .cons h hs => by
    obtain ⟨bs, b, rfl, hbs, hb⟩ := forall₂_append_one (as := as) hs
    exact ⟨_ :: bs, b, rfl, .cons h hbs, hb⟩

/-- The queue after an admission: the old records go on, and the new one stands at the newest end (R40). -/
theorem admitNew_records (r : Record) (s : State) :
    ∃ olds r', (admitNew r s).records = olds ++ [r'] ∧ List.Forall₂ RecordChosen s.records olds ∧ RecordChosen r r' := by
  have h := (admitNew_from r s).2
  rw [admitted_records] at h
  obtain ⟨olds, r', heq, holds, hr⟩ := forall₂_append_one h
  exact ⟨olds, r', heq, holds, (admittedRecord_chosen s r).trans hr⟩

/-- The targets whose records have rounds (R51). -/
theorem firstStage_followUp_iff (spec : TargetSpec) :
    firstStage spec = .followUp ↔ (∃ a, spec = .unit a) ∨ spec = .cond .phaseUnknown ∨ spec = .cond .silent ∨
      ∃ q, spec = .cond (.qualityBelow q) := by
  cases spec with
  | unit a => simp [firstStage]
  | group g => simp [firstStage]
  | all => simp [firstStage]
  | cond c => cases c <;> simp [firstStage]

theorem submitPasses_check {s : State} {f : SubmitFields} {set : List Nat} (h : submitPasses s f set) :
    checkSubmit s f = .ok (submitKind f, submitTarget f, set) := by
  obtain ⟨hgood, hid, hlen, hclock, hlate, hwindow, hset, hne⟩ := h
  have hnone : ¬(recordById s f.id).isSome = true := by
    rw [recordById_none.2 hid]
    nofun
  have hunset : ¬((f.release ≠ 0 ∨ f.deadline ≠ 0) ∧ s.clock.isSet = false) := fun ⟨h1, h2⟩ => by
    rw [hclock h1] at h2
    cases h2
  have hempty : ¬(set.isEmpty && submitTarget f != .cond .discover) = true := by
    simp only [Bool.and_eq_true, List.isEmpty_iff, bne_iff_ne, not_and]
    exact fun h1 h2 => hne.elim (fun h => h h1) h2
  rw [checkSubmit_of_good hgood, if_neg hnone, if_neg (Nat.not_le.2 hlen), if_neg hunset,
    if_neg fun h => Nat.not_le.2 (hlate h.1) h.2, if_neg fun h => Nat.not_le.2 (hwindow h.1 h.2.1) h.2.2, hset]
  exact if_neg hempty

/-- A SUBMIT that passes its checks is answered with the tag and the number of targets, its record admitted (R46). -/
theorem exec_submit_passes {tag : Byte} {f : SubmitFields} {s : State} {set : List Nat} (hroom : s.uli.responses.length < 4)
    (h : submitPasses s f set) :
    let r := newRecord s f (submitKind f) (submitTarget f) set
    ∃ u v d, exec (.submit tag f) s = .next { admitNew r { s with uli := u } with uli := v, draws := d } ∧
      responseQueued s.uli v { kind := 0x81, tag, content := 0x00 :: bytes2 r.tag ++ bytes2 set.length } := by
  refine exec_answered (rq := .submit f) rfl rfl hroom (fun u => ?_) fun u => ?_
  · have hcheck : checkSubmit { s with uli := u } f = .ok (submitKind f, submitTarget f, set) := submitPasses_check h
    simp only [serve, serveSubmit, hcheck]
    rfl
  · have hcommit := raiseIf_work (decide ((s.records.filter isDone).length <
      ((s.records ++ [admittedRecord { s with uli := u } (newRecord s f (submitKind f) (submitTarget f) set)]).filter
        isDone).length)) .recordDone
      { s with
        uli := u
        records := s.records ++
          [admittedRecord { s with uli := u } (newRecord s f (submitKind f) (submitTarget f) set)] }
    have hadmit : (admitted (newRecord s f (submitKind f) (submitTarget f) set) { s with uli := u }).uli =
        { u with noticeDue :=
            (admitted (newRecord s f (submitKind f) (submitTarget f) set) { s with uli := u }).uli.noticeDue } := hcommit.uli
    rw [(admitNew_from _ _).1.uli, hadmit]

/-- Settles O35: the new record in its place, with what the lanes' choosing leaves of it. -/
theorem submitAdmitsRecord : Obligations.SubmitAdmitsRecord := by
  intro tag f s set hs hroom hgood hid hlen hclock hlate hwindow hset hne
  have hpass : submitPasses s f set := ⟨hgood, hid, hlen, hclock, hlate, hwindow, hset, hne⟩
  obtain ⟨u, v, d, hexec, hqueued⟩ := exec_submit_passes (tag := tag) hroom hpass
  obtain ⟨k, htag, hfree, hused⟩ := newRecord_tag (f := f) (kind := submitKind f) (spec := submitTarget f) (set := set) hs hlen
  obtain ⟨olds, r, hrecords, holds, hr⟩ :=
    admitNew_records (newRecord s f (submitKind f) (submitTarget f) set) { s with uli := u }
  obtain ⟨hwork, -⟩ := admitNew_from (newRecord s f (submitKind f) (submitTarget f) set) { s with uli := u }
  obtain ⟨-, cid, ctag, ckind, ctarget, cbudget, crounds, cwindows, crelease, cdeadline, cpayload, -⟩ := hr.continues
  have hadmitted := admitted_frame (newRecord s f (submitKind f) (submitTarget f) set) { s with uli := u }
  have hrounds : r.rounds = if firstStage (submitTarget f) = .followUp then none else some (clamp 1 4 f.rounds.toNat) := crounds
  have hstate : (newRecord s f (submitKind f) (submitTarget f) set).state =
      if f.release = 0 ∨ f.release.toNat ≤ s.clock.seconds then .ready else .waiting := rfl
  refine ⟨_, olds, r, k, hexec, hrecords, holds.imp fun _ _ h => h.continues, cid, ckind, ctarget, ?_, fun g hg => ?_,
    hr.priority, ?_, cbudget, cwindows, fun b hb => ?_, ?_, crelease, cdeadline, cpayload, hr.flights, fun hw => ?_,
    fun hle => ?_, fun ph => ?_, ctag.trans htag, fun q hq => ctag ▸ hfree q hq, hused, ?_, ?_, ?_, ?_, ?_, ?_, ?_, ?_,
    ?_, ?_⟩
  · rw [map_eq_of_forall₂ (fun a b (h : TargetRests a b) => h.unit) hr.targets]
    show (set.map newTarget).map Target.unit = set
    rw [List.map_map]
    exact List.map_id set
  · obtain ⟨g0, hg0, hrest⟩ := exists_of_forall₂_right hr.targets hg
    obtain ⟨i, -, rfl⟩ := List.mem_map.1 hg0
    exact ⟨hrest.attempts, hrest.notBefore, hrest.inFlight⟩
  · rw [hr.enable]
    simp [newRecord]
  · rw [hrounds] at hb
    split at hb
    · cases hb
    · cases hb
      rfl
  · rw [hrounds, ctarget]
    refine Iff.trans ?_ (firstStage_followUp_iff (submitTarget f))
    simp
  · have hwait : (newRecord s f (submitKind f) (submitTarget f) set).state = .waiting := by
      rw [hstate, if_neg]
      rintro (h0 | hle)
      · rw [h0] at hw
        exact absurd hw (Nat.not_lt_zero _)
      · omega
    rw [hr.same (by rw [hwait]; nofun) (by rw [hwait]; nofun)]
    refine ⟨hwait, fun g hg => ?_⟩
    obtain ⟨i, -, rfl⟩ := List.mem_map.1 hg
    rfl
  · exact hr.ready (hstate.trans (if_pos (.inr hle)))
  · rw [hr.lanesSeen]
    simp [newRecord, outOfReach]
  · have hcounter : (admitted (newRecord s f (submitKind f) (submitTarget f) set) { s with uli := u }).tagCounter =
        nextTag (newRecord s f (submitKind f) (submitTarget f) set).tag := rfl
    rw [ctag]
    exact hwork.tagCounter.trans hcounter
  · rw [ctag]
    exact hqueued
  · exact hwork.now.trans (by rw [hadmitted])
  · exact hwork.ptu.trans (by rw [hadmitted])
  · exact hwork.clock.trans (by rw [hadmitted])
  · exact hwork.profile.trans (by rw [hadmitted])
  · exact hwork.units.trans (by rw [hadmitted])
  · exact hwork.discovery.trans (by rw [hadmitted])
  · exact hwork.inFlight.trans (by rw [hadmitted])
  · exact hwork.lcm.trans (by rw [hadmitted])

/-! ### CANCEL (R63) -/

theorem exec_cancel_told {tag : Byte} {s : State} {r r' : Record} {b : Byte} (hroom : s.uli.responses.length < 4)
    (hr : r ∈ s.records) (hw : RecordWorks r r')
    (hserve : ∀ u, serveCancel r.id { s with uli := u } = (tell allPhases (putRecord r' { s with uli := u }), [0x00, b])) :
    ∃ u v d, exec (.cancel tag r.id) s =
        .next { tell allPhases (putRecord r' { s with uli := u }) with uli := v, draws := d } ∧
      responseQueued s.uli v { kind := 0x82, tag, content := [0x00, b] } ∧
      LaneWork { s with uli := u } (tell allPhases (putRecord r' { s with uli := u })) := by
  have hwork : ∀ u, LaneWork { s with uli := u } (tell allPhases (putRecord r' { s with uli := u })) := fun u =>
    (putRecord_work { s with uli := u } hr hw).trans (tell_work _ _)
  obtain ⟨u, v, d, hexec, hq⟩ := exec_answered (c := .cancel tag r.id) (rq := .cancel r.id) rfl rfl hroom hserve
    fun u => (hwork u).uli
  exact ⟨u, v, d, hexec, hq, hwork u⟩

theorem serveCancel_unknown {s : State} {id : BitVec 32} (h : ∀ r ∈ s.records, r.id ≠ id) :
    serveCancel id s = (s, [0x12]) := by
  unfold serveCancel
  rw [recordById_none.2 h]
  rfl

/-- A record that enters DONE raises RECORD_DONE as it is put back (R50). -/
theorem putRecord_recordDone {s : State} {r r' : Record} (hr : r ∈ s.records) (hserial : r'.serial = r.serial)
    (hn : isDone r = false) (hd : isDone r' = true) : flagSet (putRecord r' s) .recordDone = true := by
  refine commitRecords_flags (s := s) (fun q _ hq => ?_) hr hn ?_
  · split
    · exact hd
    · exact hq
  · rw [if_pos hserial.symm]
    exact hd

theorem serveCancel_undone {s : State} (hs : s.queueOk) {r : Record} (hr : r ∈ s.records)
    (h : r.state = .waiting ∨ r.state = .ready) :
    serveCancel r.id s = (tell allPhases (putRecord (enterDone s .cancelled r) s), [resultByte .ok, 4]) := by
  rw [serveCancel, recordById_eq hs hr]
  cases h <;> rename_i h <;> simp only [h]

theorem serveCancel_active {s : State} (hs : s.queueOk) {r : Record} (hr : r ∈ s.records) (h : r.state = .active) :
    serveCancel r.id s = (tell allPhases (putRecord { r with state := .closing .cancel } s), [resultByte .ok, 3]) := by
  rw [serveCancel, recordById_eq hs hr]
  simp only [h]

theorem serveCancel_closing {s : State} (hs : s.queueOk) {r : Record} (hr : r ∈ s.records) {c : ClosingCause}
    (h : r.state = .closing c) : serveCancel r.id s = (s, [resultByte .ok, 3]) := by
  rw [serveCancel, recordById_eq hs hr]
  simp only [h]

theorem serveCancel_done {s : State} (hs : s.queueOk) {r : Record} (hr : r ∈ s.records) {o : FinalOutcome}
    (h : r.state = .done o) : serveCancel r.id s = (s, [resultByte .wrongState, 4]) := by
  rw [serveCancel, recordById_eq hs hr]
  simp only [h]

theorem enterDone_cancelled_targets (s : State) (r : Record) :
    List.Forall₂ (fun g g' => g'.unit = g.unit ∧
      g'.outcome = if g.outcome = .pending then .unreached .cancelled else g.outcome) r.targets
      (enterDone s .cancelled r).targets := by
  refine List.forall₂_map_right_iff.2 (List.forall₂_same.2 fun g _ => ?_)
  unfold closeTarget
  split <;> exact ⟨rfl, rfl⟩

/-- Settles O38: the five states in turn. -/
theorem cancelActsByRecordState : Obligations.CancelActsByRecordState := by
  intro tag id s hs hroom
  refine ⟨fun hnone => answers_of_serve (rq := .cancel id) rfl rfl hroom fun u => ?_, fun r hr hid => ?_⟩
  · exact serveCancel_unknown (s := { s with uli := u }) hnone
  subst hid
  refine ⟨fun hst => ?_, fun hst => ?_, fun c hst => ?_, fun o hst => ?_⟩
  · have hundone : isDone r = false := by rcases hst with h | h <;> simp [isDone, h]
    have hclosed := enterDone_cancelled_works s hst
    obtain ⟨u, v, d, hexec, hq, hwork⟩ := exec_cancel_told (tag := tag) (b := 4) hroom hr hclosed
      fun u => serveCancel_undone (s := { s with uli := u }) hs hr hst
    refine ⟨_, hexec, hq, ?_, hwork.outsideAnswered v d, ?_⟩
    · exact flagSet_of_kept (tell_work allPhases _).flags
        (putRecord_recordDone (s := { s with uli := u }) hr hclosed.continues.1 hundone rfl)
    · refine recordChanges_put hs hr rfl hclosed.continues.1 (putRecord_chosen s u) fun q hq => ?_
      rw [hq.same nofun nofun]
      exact ⟨rfl, enterDone_cancelled_targets s r⟩
  · obtain ⟨u, v, d, hexec, hq, hwork⟩ := exec_cancel_told (tag := tag) (b := 3) hroom hr (closing_works r .cancel)
      fun u => serveCancel_active (s := { s with uli := u }) hs hr hst
    refine ⟨_, hexec, hq, hwork.outsideAnswered v d, ?_⟩
    exact recordChanges_put (r' := { r with state := .closing .cancel }) hs hr rfl rfl (putRecord_chosen s u)
      fun q hq => hq.same nofun nofun
  · exact answers_of_serve (rq := .cancel r.id) rfl rfl hroom
      fun u => serveCancel_closing (s := { s with uli := u }) hs hr hst
  · exact answers_of_serve (rq := .cancel r.id) rfl rfl hroom
      fun u => serveCancel_done (s := { s with uli := u }) hs hr hst

/-! ### ADJUST (R62) -/

theorem adjusted_enable (priority options : Byte) (r : Record) :
    (adjusted priority options r).enable =
      if options.getLsbD 0 = true ∧ options.getLsbD 1 = false then false
      else if options.getLsbD 1 = true ∧ options.getLsbD 0 = false then true else r.enable := by
  unfold adjusted
  cases options.getLsbD 0 <;> cases options.getLsbD 1 <;> rfl

theorem serveAdjust_unknown {s : State} {id : BitVec 32} (h : ∀ r ∈ s.records, r.id ≠ id) (priority options : Byte) :
    serveAdjust id priority options s = (s, [0x12]) := by
  unfold serveAdjust
  rw [recordById_none.2 h]
  rfl

theorem serveAdjust_done {s : State} (hs : s.queueOk) {r : Record} (hr : r ∈ s.records) (hd : isDone r = true)
    (priority options : Byte) : serveAdjust r.id priority options s = (s, [0x40]) := by
  unfold serveAdjust
  rw [recordById_eq hs hr]
  simp only [hd, ↓reduceIte, refuse]
  rfl

/-- An ADJUST of a record that is not DONE (R62): the record put back, and the lanes told where its standing changed. -/
theorem serveAdjust_of {s : State} (hs : s.queueOk) {r : Record} (hr : r ∈ s.records) (hd : isDone r = false)
    (priority options : Byte) :
    serveAdjust r.id priority options s =
      (if (adjusted priority options r).priority ≠ r.priority ∨ (adjusted priority options r).enable ≠ r.enable then
          tell allPhases (putRecord (adjusted priority options r) s)
        else putRecord (adjusted priority options r) s,
        [resultByte .ok, byteOf (adjusted priority options r).priority,
          boolByte (adjusted priority options r).enable]) := by
  unfold serveAdjust
  rw [recordById_eq hs hr]
  simp only [hd, Bool.false_eq_true, ↓reduceIte]

/-- A change that ends no record raises no flag as it is put back. -/
theorem putRecord_quiet {s : State} {r r' : Record} (hs : (s.records.map Record.serial).Nodup) (hr : r ∈ s.records)
    (hserial : r'.serial = r.serial) (hd : isDone r' = isDone r) :
    putRecord r' s = { s with records := s.records.map fun q => if q.serial = r'.serial then r' else q } := by
  have hdone : ∀ q ∈ s.records, (isDone ∘ fun q => if q.serial = r'.serial then r' else q) q = isDone q := fun q hq => by
    show isDone (if _ then _ else _) = _
    split
    · rename_i he
      rw [eq_of_serial hs hq hr (he.trans hserial), hd]
    · rfl
  have hcount : ((s.records.map fun q => if q.serial = r'.serial then r' else q).filter isDone).length =
      (s.records.filter isDone).length := by
    rw [← List.countP_eq_length_filter, ← List.countP_eq_length_filter, List.countP_map,
      List.countP_congr fun q hq => by rw [hdone q hq]]
  rw [putRecord, commitRecords, hcount, decide_eq_false (Nat.lt_irrefl _)]
  rfl

/-- What an ADJUST answers and leaves: the record put back, and at most the lanes' choosing after it (R62, R69). -/
theorem serveAdjust_answer {s : State} (hs : s.queueOk) {r : Record} (hr : r ∈ s.records) (hd : isDone r = false)
    (priority options : Byte) :
    ∃ t, serveAdjust r.id priority options s =
        (t, [0x00, byteOf (adjusted priority options r).priority, boolByte (adjusted priority options r).enable]) ∧
      LaneWork { s with
        records := s.records.map fun q =>
          if q.serial = (adjusted priority options r).serial then adjusted priority options r else q } t ∧
      List.Forall₂ RecordChosen
        (s.records.map fun q => if q.serial = (adjusted priority options r).serial then adjusted priority options r else q)
        t.records := by
  rw [serveAdjust_of hs hr hd, putRecord_quiet (r' := adjusted priority options r) hs.serialsApart hr rfl rfl]
  refine ⟨_, rfl, ?_⟩
  split
  · refine ⟨tell_work _ _, tell_chosen allPhases { s with
      records := s.records.map fun q => if q.serial = (adjusted priority options r).serial then _ else q }⟩
  · exact ⟨.refl _, chosen_byChoice.all_refl _⟩

/-- Settles O39: the record put back with its priority and enable, and the lanes told or not. -/
theorem adjustSetsPriorityAndEnable : Obligations.AdjustSetsPriorityAndEnable := by
  intro tag id priority options s hs hroom c hold lift
  refine ⟨fun hnone => answers_of_serve (rq := .adjust id priority options) rfl rfl hroom fun u => ?_, fun r hr hid => ?_⟩
  · exact serveAdjust_unknown (s := { s with uli := u }) hnone priority options
  subst hid
  refine ⟨fun hd => answers_of_serve (rq := .adjust r.id priority options) rfl rfl hroom fun u => ?_, fun hd => ?_⟩
  · exact serveAdjust_done (s := { s with uli := u }) hs hr hd priority options
  intro p e
  have hp : (adjusted priority options r).priority = p := rfl
  have he : (adjusted priority options r).enable = e := adjusted_enable priority options r
  have hout := fun u => serveAdjust_answer (s := { s with uli := u }) hs hr hd priority options
  choose t hserve hwork hchosen using hout
  obtain ⟨u, v, d, hexec, hq⟩ := exec_answered (c := c) (rq := .adjust r.id priority options) (kind := 0x83) rfl rfl hroom
    hserve fun u => (hwork u).uli
  rw [hp, he] at hq
  refine ⟨_, hexec, (hwork u).outsideAnswered v d, hq, ?_⟩
  · refine recordChanges_put (r' := adjusted priority options r) hs hr rfl rfl (hchosen u) fun q hq => ?_
    exact ⟨hq.priority.trans hp, hq.enable.trans he, hq.continues⟩

end Sys2Proof.Machine

/-! ## COLLECT (R64, R176): O40 -/

namespace Sys2Proof.Machine

open Sys2Proof.Claims

/-! ### Fields packed into bits -/

theorem natOfBits_append (as bs : List Bool) : natOfBits (as ++ bs) = natOfBits as * 2 ^ bs.length + natOfBits bs := by
  induction bs using List.reverseRecOn with
  | nil => simp [natOfBits]
  | append_singleton bs b ih =>
    have hsnoc : ∀ cs : List Bool, natOfBits (cs ++ [b]) = 2 * natOfBits cs + b.toNat := fun cs => by simp [natOfBits]
    rw [← List.append_assoc, hsnoc, hsnoc, ih, List.length_append, List.length_singleton, pow_succ]
    ring

@[simp] theorem bitsOf_length (w v : Nat) : (bitsOf w v).length = w := by simp [bitsOf]

theorem bitsOf_succ (w v : Nat) : bitsOf (w + 1) v = bitsOf w (v / 2) ++ [v.testBit 0] := by
  unfold bitsOf
  rw [List.range_succ, List.map_append]
  congr 1
  · refine List.map_congr_left fun i hi => ?_
    have hlt := List.mem_range.1 hi
    rw [Nat.testBit_div_two]
    congr 1
    omega
  · simp

/-- A field of `w` bits spells its number again, if it fits. -/
theorem natOfBits_bitsOf {w : Nat} : ∀ {v : Nat}, v < 2 ^ w → natOfBits (bitsOf w v) = v := by
  induction w with
  | zero =>
    intro v hv
    obtain rfl : v = 0 := by omega
    rfl
  | succ w ih =>
    intro v hv
    rw [bitsOf_succ, natOfBits_append, ih (by omega)]
    have hbit : natOfBits [v.testBit 0] = v % 2 := by
      rw [Nat.testBit_zero]
      rcases Nat.mod_two_eq_zero_or_one v with h | h <;> rw [h] <;> rfl
    rw [hbit, List.length_singleton]
    omega

theorem collectState_lt (x : RecordState) : collectState x < 8 := by
  unfold collectState
  split <;> decide

theorem countClass_lt {r : Record} (h : r.targets.length ≤ 1024) (c : OutcomeClass) : countClass r c < 2048 :=
  Nat.lt_of_le_of_lt (List.length_filter_le _ _) (by omega)

/-- The summary's 72 bits as one number (R176). -/
theorem natOfBits_summary {r : Record} (hlen : r.targets.length ≤ 1024) (hrounds : r.roundsSent ≤ 4) :
    natOfBits (summaryBits r) =
      ((((((collectState r.state * 8 + r.roundsSent) * 2048 + r.targets.length) * 2048 + countClass r .pending) * 2048 +
        countClass r .confirmed) * 2048 + countClass r .refused) * 2048 + countClass r .unreached) * 2048 +
        countClass r .unconfirmed := by
  have hcount : ∀ c, natOfBits (bitsOf 11 (countClass r c)) = countClass r c := fun c =>
    natOfBits_bitsOf (countClass_lt hlen c)
  rw [summaryBits]
  simp only [natOfBits_append, bitsOf_length, hcount, natOfBits_bitsOf (show collectState r.state < 2 ^ 3 from collectState_lt r.state),
    natOfBits_bitsOf (show r.roundsSent < 2 ^ 3 by omega), natOfBits_bitsOf (show r.targets.length < 2 ^ 11 by omega)]
  norm_num only

/-- Nine bytes spell a number of 72 bits again. -/
theorem natOfBytes_nine {v : Nat} (h : v < 2 ^ 72) :
    natOfBytes ((List.range 9).map fun i => byteOf (v / 256 ^ (8 - i))) = v := by
  have hlist : (List.range 9).map (fun i => byteOf (v / 256 ^ (8 - i))) =
      [byteOf (v / 256 ^ 8), byteOf (v / 256 ^ 7), byteOf (v / 256 ^ 6), byteOf (v / 256 ^ 5), byteOf (v / 256 ^ 4),
        byteOf (v / 256 ^ 3), byteOf (v / 256 ^ 2), byteOf (v / 256 ^ 1), byteOf (v / 256 ^ 0)] := rfl
  rw [hlist]
  simp only [natOfBytes, List.foldl, byteOf, BitVec.toNat_ofNat]
  omega

theorem natOfBytes_bytes2 {n : Nat} (h : n ≤ 65535) : natOfBytes (bytes2 n) = n := by
  simp only [natOfBytes, bytes2, List.foldl, BitVec.toNat_ofNat]
  omega

/-! ### The request -/

theorem classOfCode_none {cls : Byte} (h : 4 < cls.toNat) : classOfCode cls = none := by
  unfold classOfCode
  split
  case h_6 => rfl
  all_goals exact absurd h (by decide)

theorem classOfCode_some {cls : Byte} {k : OutcomeClass}
    (h : cls = 1 ∧ k = .confirmed ∨ cls = 2 ∧ k = .refused ∨ cls = 3 ∧ k = .unreached ∨ cls = 4 ∧ k = .unconfirmed) :
    classOfCode cls = some (some k) := by
  rcases h with ⟨rfl, rfl⟩ | ⟨rfl, rfl⟩ | ⟨rfl, rfl⟩ | ⟨rfl, rfl⟩ <;> rfl

theorem classOfCode_isSome {cls : Byte} (h : cls.toNat ≤ 4) : ∃ c, classOfCode cls = some c := by
  unfold classOfCode
  split
  case h_6 h0 h1 h2 h3 h4 =>
    have hne : ∀ n : Nat, cls = BitVec.ofNat 8 n ∨ cls.toNat ≠ n % 256 := fun n => by
      by_cases he : cls.toNat = n % 256
      · exact .inl (BitVec.eq_of_toNat_eq (by simpa using he))
      · exact .inr he
    have e0 := (hne 0).resolve_left h0
    have e1 := (hne 1).resolve_left h1
    have e2 := (hne 2).resolve_left h2
    have e3 := (hne 3).resolve_left h3
    have e4 := (hne 4).resolve_left h4
    omega
  all_goals exact ⟨_, rfl⟩

theorem serveCollect_unknown {s : State} {id : BitVec 32} (h : ∀ r ∈ s.records, r.id ≠ id) (cls : Byte) (start : BitVec 16)
    (options : Byte) : serveCollect id cls start options s = refuse .unknownId s := by
  rw [serveCollect, recordById_none.2 h]

theorem serveCollect_badClass {s : State} (hs : s.queueOk) {r : Record} (hr : r ∈ s.records) {cls : Byte}
    (h : 4 < cls.toNat) (start : BitVec 16) (options : Byte) :
    serveCollect r.id cls start options s = refuse .badField s := by
  rw [serveCollect, recordById_eq hs hr]
  simp only [classOfCode_none h]

/-- A record is removed by its identifier as by its serial number (R43). -/
theorem filter_serial_eq_filter_id {s : State} (hs : s.queueOk) {r : Record} (hr : r ∈ s.records) :
    (s.records.filter fun q => q.serial != r.serial) = s.records.filter fun q => q.id != r.id := by
  refine List.filter_congr fun q hq => ?_
  have hiff : q.serial = r.serial ↔ q.id = r.id :=
    ⟨fun h => by rw [eq_of_serial hs.serialsApart hq hr h], fun h => by rw [eq_of_id hs.idsApart hq hr h]⟩
  simp only [bne, beq_eq_decide, hiff]

/-- What a COLLECT leaves (R64): the queue without the record, where it is released. -/
def collected (id : BitVec 32) (options : Byte) (s : State) : State :=
  if options.getLsbD 0 = true then { s with records := s.records.filter fun q => q.id != id } else s

theorem collected_uli (id : BitVec 32) (options : Byte) (s : State) (u : Uli) :
    collected id options { s with uli := u } = { collected id options s with uli := u } := by
  unfold collected
  split <;> rfl

theorem serveCollect_badStart {s : State} (hs : s.queueOk) {r : Record} (hr : r ∈ s.records) (cls : Byte)
    {start : BitVec 16} (h : 1023 < start.toNat) (options : Byte) :
    serveCollect r.id cls start options s = refuse .badField s := by
  rw [serveCollect, recordById_eq hs hr]
  cases hc : classOfCode cls <;> simp only [if_pos h]

theorem serveCollect_wrongState {s : State} (hs : s.queueOk) {r : Record} (hr : r ∈ s.records) {cls : Byte}
    {c : Option OutcomeClass} (hc : classOfCode cls = some c) {start : BitVec 16} (h : ¬1023 < start.toNat) {options : Byte}
    (hrel : options.getLsbD 0 = true) (hopen : isDone r = false) :
    serveCollect r.id cls start options s = refuse .wrongState s := by
  rw [serveCollect, recordById_eq hs hr]
  simp only [hc, if_neg h, hrel, hopen, Bool.not_false, Bool.and_self, ↓reduceIte]

/-- A COLLECT that passes its checks: the summary, and the entries of its class if it has one (R64). -/
theorem serveCollect_ok {s : State} (hs : s.queueOk) {r : Record} (hr : r ∈ s.records) {cls : Byte} {c : Option OutcomeClass}
    (hc : classOfCode cls = some c) {start : BitVec 16} (h : ¬1023 < start.toNat) {options : Byte}
    (hdone : options.getLsbD 0 = true → isDone r = true) :
    serveCollect r.id cls start options s =
      (collected r.id options s,
        resultByte .ok :: summaryBytes r ++ (c.map fun c => collectTail s r c start.toNat).getD []) := by
  have hpass : ¬(options.getLsbD 0 && !isDone r) = true := by
    rw [Bool.and_eq_true, Bool.not_eq_true']
    exact fun ⟨h1, h2⟩ => absurd (hdone h1) (by rw [h2]; nofun)
  rw [serveCollect, recordById_eq hs hr, collected]
  simp only [hc, if_neg h, if_neg hpass, filter_serial_eq_filter_id hs hr]
  cases c <;> rfl

/-- Settles O40: the refusals in their order, the summary and the entries, and the summary's 72 bits. -/
theorem collectReportsAndReleases : Obligations.CollectReportsAndReleases := by
  refine ⟨fun tag id cls start options s hs hroom => ?_, fun r hlen hrounds hcollided => ⟨rfl, ?_, ?_⟩⟩
  · have hrefuse : ∀ {code : ResultCode},
        (∀ u, serveCollect id cls start options { s with uli := u } = refuse code { s with uli := u }) →
        answers (.collect tag id cls start options) s 0x84 tag [resultByte code] s := fun h =>
      answers_of_serve (rq := .collect id cls start options) rfl rfl hroom h
    refine ⟨fun hnone => hrefuse fun u => serveCollect_unknown (s := { s with uli := u }) hnone cls start options,
      fun r hr hid => ?_⟩
    subst hid
    refine ⟨fun hbad => hrefuse (code := .badField) fun u => ?_, fun hcls hle => ?_⟩
    · exact hbad.elim (fun h => serveCollect_badClass (s := { s with uli := u }) hs hr h start options)
        fun h => serveCollect_badStart (s := { s with uli := u }) hs hr cls h options
    obtain ⟨c, hc⟩ := classOfCode_isSome hcls
    have hstart : ¬1023 < start.toNat := Nat.not_lt.2 hle
    refine ⟨fun hrel hopen => hrefuse (code := .wrongState) fun u =>
      serveCollect_wrongState (s := { s with uli := u }) hs hr hc hstart hrel hopen, fun hdone => ?_⟩
    have hok : ∀ {c : Option OutcomeClass}, classOfCode cls = some c →
        answers (.collect tag r.id cls start options) s 0x84 tag
          (resultByte .ok :: summaryBytes r ++ (c.map fun c => collectTail s r c start.toNat).getD [])
          (collected r.id options s) := fun hc =>
      answers_of_serve (rq := .collect r.id cls start options) rfl rfl hroom fun u =>
        (serveCollect_ok (s := { s with uli := u }) hs hr hc hstart hdone).trans (by rw [collected_uli] <;> rfl)
    refine ⟨fun h0 => ?_, fun k hk => hok (classOfCode_some hk)⟩
    have hnone := hok (c := none) (by rw [h0]; rfl)
    rwa [Option.map_none, Option.getD_none, List.append_nil] at hnone
  · have hnum := natOfBits_summary hlen hrounds
    have hstate := collectState_lt r.state
    have hcount := fun c => countClass_lt hlen c
    have h0 := hcount .pending
    have h1 := hcount .confirmed
    have h2 := hcount .refused
    have h3 := hcount .unreached
    have h4 := hcount .unconfirmed
    have htake : (summaryBytes r).take 9 = (List.range 9).map fun i => byteOf (natOfBits (summaryBits r) / 256 ^ (8 - i)) :=
      rfl
    rw [htake, natOfBytes_nine (by omega), hnum]
  · exact natOfBytes_bytes2 hcollided

end Sys2Proof.Machine

/-! ## End reports taken by the queue (R58 to R60): O42 -/

namespace Sys2Proof.Machine

open Sys2Proof.Claims

/-! ### What a report makes of a target -/

/-- What an end report leaves of a target (R58, R59, R60), whatever choosing again makes of it after that. -/
structure TargetReported (retry budget : Nat) (rep : EndReport) (g g' : Target) : Prop where
  unit : g'.unit = g.unit
  kept : g.outcome ≠ .pending → g'.outcome = g.outcome
  marker : rep.units.contains g.unit = true → g'.inFlight = false
  answered : ∀ a, g.outcome = .pending → rep.answered.find? (fun x => x.1 == g.unit) = some a →
    g'.outcome = (if a.2 = 0 then .confirmed else .refused a.2) ∧ g'.attempts = g.attempts ∧ g'.notBefore = g.notBefore
  untried : rep.cause ≠ none ∨ rep.notAnswered ≠ some g.unit → g'.attempts = g.attempts ∧ g'.notBefore = g.notBefore
  missed : rep.cause = none → rep.notAnswered = some g.unit → g.outcome = .pending →
    rep.answered.find? (fun x => x.1 == g.unit) = none →
      g'.attempts = g.attempts + 1 ∧ (g.attempts + 1 = budget → g'.outcome = .unreached .budgetSpent) ∧
        (g.attempts + 1 ≠ budget →
          g'.notBefore = some { time := rep.endTime + min 255 (retry * (g.attempts + 1)) * 10240, passed := false })

/-- Choosing again leaves what a report settled. -/
theorem TargetReported.rests {retry budget : Nat} {rep : EndReport} {a b c : Target}
    (h : TargetReported retry budget rep a b) (k : TargetRests b c) : TargetReported retry budget rep a c where
  unit := k.unit.trans h.unit
  kept ha := (k.outcome (by rwa [h.kept ha])).trans (h.kept ha)
  marker hm := k.inFlight.trans (h.marker hm)
  answered x ha hx := by
    obtain ⟨hout, hatt, hnb⟩ := h.answered x ha hx
    have hdone : b.outcome ≠ .pending := by
      rw [hout]
      split <;> nofun
    exact ⟨(k.outcome hdone).trans hout, k.attempts.trans hatt, k.notBefore.trans hnb⟩
  untried hu := by
    obtain ⟨hatt, hnb⟩ := h.untried hu
    exact ⟨k.attempts.trans hatt, k.notBefore.trans hnb⟩
  missed hc hn ha hx := by
    obtain ⟨hatt, hspent, hagain⟩ := h.missed hc hn ha hx
    exact ⟨k.attempts.trans hatt, fun hb => (k.outcome (by rw [hspent hb]; nofun)).trans (hspent hb),
      fun hb => k.notBefore.trans (hagain hb)⟩

/-- A target as an end report leaves it (R60, steps 1 to 3). -/
def reportedTarget (retry budget : Nat) (rep : EndReport) (g : Target) : Target :=
  let t1 := applyAnswered rep.answered g
  let t2 := if rep.cause = none ∧ rep.notAnswered = some g.unit then applyNoAnswer retry budget rep.endTime t1 else t1
  if rep.units.contains g.unit then { t2 with inFlight := false } else t2

theorem reportedRecord_targets (s : State) (rep : EndReport) (r : Record) :
    (reportedRecord s rep r).targets = r.targets.map (reportedTarget s.profile.retry r.budget rep) := rfl

theorem applyAnswered_of_none {answered : List (Nat × Byte)} {g : Target}
    (h : answered.find? (fun x => x.1 == g.unit) = none) : applyAnswered answered g = g := by
  unfold applyAnswered
  rw [h]

theorem applyAnswered_of_some {answered : List (Nat × Byte)} {g : Target} {a : Nat × Byte}
    (h : answered.find? (fun x => x.1 == g.unit) = some a) (hg : g.outcome = .pending) :
    applyAnswered answered g = { g with outcome := if a.2 = 0 then .confirmed else .refused a.2 } := by
  unfold applyAnswered
  rw [h]
  exact if_pos hg

theorem applyAnswered_rest (answered : List (Nat × Byte)) (g : Target) :
    applyAnswered answered g = { g with outcome := (applyAnswered answered g).outcome } := by
  unfold applyAnswered
  split
  · rfl
  · split <;> rfl

theorem applyNoAnswer_done {retry budget endTime : Nat} {g : Target} (h : g.outcome ≠ .pending) :
    applyNoAnswer retry budget endTime g = g := if_neg h

theorem applyNoAnswer_missed {retry budget endTime : Nat} {g : Target} (h : g.outcome = .pending) :
    (applyNoAnswer retry budget endTime g).attempts = g.attempts + 1 ∧
      (g.attempts + 1 = budget → (applyNoAnswer retry budget endTime g).outcome = .unreached .budgetSpent) ∧
      (g.attempts + 1 ≠ budget → (applyNoAnswer retry budget endTime g).notBefore =
        some { time := endTime + min 255 (retry * (g.attempts + 1)) * 10240, passed := false }) := by
  rw [applyNoAnswer, if_pos h]
  dsimp only
  split
  · exact ⟨rfl, fun _ => rfl, fun hn => absurd ‹_› hn⟩
  · exact ⟨rfl, fun hb => absurd hb ‹_›, fun _ => rfl⟩

/-- But for its marker, a target that no no-answer rule reaches is as its answer leaves it. -/
theorem reportedTarget_untried {retry budget : Nat} {rep : EndReport} {g : Target}
    (h : ¬(rep.cause = none ∧ rep.notAnswered = some g.unit)) :
    reportedTarget retry budget rep g =
      { applyAnswered rep.answered g with inFlight := (reportedTarget retry budget rep g).inFlight } := by
  unfold reportedTarget
  simp only [if_neg h]
  split <;> rfl

theorem reportedTarget_missed {retry budget : Nat} {rep : EndReport} {g : Target} (hc : rep.cause = none)
    (hn : rep.notAnswered = some g.unit) :
    reportedTarget retry budget rep g =
      { applyNoAnswer retry budget rep.endTime (applyAnswered rep.answered g) with
        inFlight := (reportedTarget retry budget rep g).inFlight } := by
  unfold reportedTarget
  simp only [if_pos (And.intro hc hn)]
  split <;> rfl

theorem reportedTarget_continues (retry budget : Nat) (rep : EndReport) (g : Target) :
    targetContinues g (reportedTarget retry budget rep g) := by
  have h1 := (applyAnswered_step rep.answered 0 g).1
  by_cases h : rep.cause = none ∧ rep.notAnswered = some g.unit
  · rw [reportedTarget_missed h.1 h.2]
    exact targetContinues_trans h1 (applyNoAnswer_step retry budget rep.endTime _).1
  · rw [reportedTarget_untried h]
    exact h1

theorem reportedTarget_reported (retry budget : Nat) (rep : EndReport) (g : Target) :
    TargetReported retry budget rep g (reportedTarget retry budget rep g) := by
  obtain ⟨hunit, hkept⟩ := reportedTarget_continues retry budget rep g
  refine ⟨hunit, hkept, fun hm => by rw [reportedTarget, if_pos hm], fun a hg ha => ?_, fun hu => ?_,
    fun hc hn hg ha => ?_⟩
  · have hanswered := applyAnswered_of_some ha hg
    by_cases h : rep.cause = none ∧ rep.notAnswered = some g.unit
    · have hdone : (applyAnswered rep.answered g).outcome ≠ .pending := by
        rw [hanswered]
        show (if a.2 = 0 then _ else _ : TargetOutcome) ≠ _
        split <;> nofun
      rw [reportedTarget_missed h.1 h.2, applyNoAnswer_done hdone, hanswered]
      exact ⟨rfl, rfl, rfl⟩
    · rw [reportedTarget_untried h, hanswered]
      exact ⟨rfl, rfl, rfl⟩
  · rw [reportedTarget_untried (not_and_or.2 hu), applyAnswered_rest]
    exact ⟨rfl, rfl⟩
  · rw [reportedTarget_missed hc hn, applyAnswered_of_none ha]
    exact applyNoAnswer_missed hg

/-! ### What a report makes of its record -/

/-- A record whose last exchange has ended, and what choosing again may make of it (R57, R60). -/
structure FlightSettled (r r' : Record) : Prop where
  flights : r'.flights = r.flights - 1
  collided : r'.collided = r.collided
  targets : List.Forall₂ TargetRests r.targets r'.targets
  active : r.flights = 1 → r.state = .active → r'.state = .ready ∨ r'.state = .done .complete
  cancelled : r.flights = 1 → r.state = .closing .cancel → r'.state = .done .cancelled
  expired : r.flights = 1 → r.state = .closing .expiry → r'.state = .done .expired

theorem enterDone_rests (s : State) (o : FinalOutcome) (r : Record) :
    List.Forall₂ TargetRests r.targets (enterDone s o r).targets := by
  refine List.forall₂_map_right_iff.2 (List.forall₂_same.2 fun g _ => ?_)
  unfold closeTarget
  split
  · rename_i hg
    cases o
    · exact .refl g
    all_goals exact ⟨rfl, rfl, rfl, rfl, fun hn => absurd hg hn⟩
  · exact .refl g

theorem settleFlight_settled (s : State) (r : Record) : FlightSettled r (settleFlight s r) := by
  unfold settleFlight
  dsimp only
  split
  · split
    · rename_i hst
      have hc := completeIfFinished_chosen s { r with state := .ready, flights := r.flights - 1 }
      exact ⟨hc.flights, hc.collided, hc.targets, fun _ _ => hc.ready rfl, fun _ h => absurd (hst.symm.trans h) nofun,
        fun _ h => absurd (hst.symm.trans h) nofun⟩
    · rename_i hst
      exact ⟨rfl, rfl, enterDone_rests s .cancelled { r with flights := r.flights - 1 },
        fun _ h => absurd (hst.symm.trans h) nofun, fun _ _ => rfl, fun _ h => absurd (hst.symm.trans h) nofun⟩
    · rename_i hst
      exact ⟨rfl, rfl, enterDone_rests s .expired { r with flights := r.flights - 1 },
        fun _ h => absurd (hst.symm.trans h) nofun, fun _ h => absurd (hst.symm.trans h) nofun, fun _ _ => rfl⟩
    all_goals
      rename_i hst
      exact ⟨rfl, rfl, forall₂_rests_refl _, fun _ h => absurd (hst.symm.trans h) nofun,
        fun _ h => absurd (hst.symm.trans h) nofun, fun _ h => absurd (hst.symm.trans h) nofun⟩
  · have hn : r.flights ≠ 1 := by omega
    exact ⟨rfl, rfl, forall₂_rests_refl _, fun h => absurd h hn, fun h => absurd h hn, fun h => absurd h hn⟩

/-- Choosing again after the flight is settled, and before it. -/
theorem FlightSettled.chosen {a b c : Record} (h : FlightSettled a b) (k : RecordChosen b c) : FlightSettled a c := by
  have hdone : ∀ {o}, b.state = .done o → c.state = .done o := fun hb => by rw [k.same (by simp [hb]) (by simp [hb]), hb]
  exact ⟨k.flights.trans h.flights, k.collided.trans h.collided, forall₂_rests_trans h.targets k.targets,
    fun hf ha => (h.active hf ha).elim k.ready fun hb => .inr (hdone hb), fun hf hs => hdone (h.cancelled hf hs),
    fun hf hs => hdone (h.expired hf hs)⟩

theorem RecordChosen.flightSettled {a b c : Record} (h : RecordChosen a b) (k : FlightSettled b c) : FlightSettled a c := by
  have hclosing : ∀ {x}, a.state = .closing x → b.state = .closing x := fun ha => by
    rw [h.same (by simp [ha]) (by simp [ha]), ha]
  exact ⟨by rw [k.flights, h.flights], k.collided.trans h.collided, forall₂_rests_trans h.targets k.targets,
    fun hf ha => k.active (by rw [h.flights, hf]) (h.active ha), fun hf hs => k.cancelled (by rw [h.flights, hf]) (hclosing hs),
    fun hf hs => k.expired (by rw [h.flights, hf]) (hclosing hs)⟩

/-- Steps 1 to 5 of R60 on one record. -/
def settledByReport (s : State) (rep : EndReport) (r : Record) : Record :=
  settleFlight s (settleRounds s roundFuel (reportedRecord s rep r))

theorem settledByReport_settled (s : State) (rep : EndReport) (r : Record) :
    FlightSettled (reportedRecord s rep r) (settledByReport s rep r) :=
  (settleRounds_chosen s _ _).flightSettled (settleFlight_settled s _)

@[simp] theorem settledByReport_serial (s : State) (rep : EndReport) (r : Record) :
    (settledByReport s rep r).serial = r.serial :=
  (((reportedRecord_works s rep r).trans (settleRounds_works s _ _)).trans (settleFlight_works s _)).continues.1

theorem applyEndReport_of {s : State} {rep : EndReport} {r : Record} (h : recordOf s rep.serial = some r) :
    applyEndReport rep s = putRecord (settledByReport (releaseUnits rep.units s) rep r) (releaseUnits rep.units s) := by
  have h1 : recordOf (releaseUnits rep.units s) rep.serial = some r := h
  simp only [applyEndReport, h1]
  rfl

/-- What the report leaves of the state beside the queue (R42, R60). -/
theorem applyEndReport_frame (rep : EndReport) (s : State) :
    applyEndReport rep s =
      { s with
        inFlight := s.inFlight.filter fun u => !rep.units.contains u
        records := (applyEndReport rep s).records
        events := (applyEndReport rep s).events
        uli := (applyEndReport rep s).uli } := by
  unfold applyEndReport
  dsimp only
  split
  · rfl
  · rw [putRecord, commitRecords_frame]
    rfl

/-! ### The report taken -/

theorem takeQueueReport_none {n : Nat} {s : State} (h : s.endReports.length ≤ n) : takeQueueReport n s = s := by
  simp only [takeQueueReport, List.drop_eq_nil_of_le h]

theorem takeQueueReport_of {s : State} {before after : List EndReport} {rep : EndReport}
    (h : s.endReports = before ++ rep :: after) :
    takeQueueReport before.length s = tell allPhases (applyEndReport rep { s with endReports := before ++ after }) := by
  have hdrop : s.endReports.drop before.length = rep :: after := by rw [h, List.drop_left]
  have htake : s.endReports.take before.length = before := by rw [h, List.take_left]
  simp only [takeQueueReport, hdrop, htake]

theorem exec_endReport (n : Nat) (s : State) : exec (.endReport n) s = .next (transmit (takeQueueReport n s)) := rfl

/-- The record of a report put back, and its place in the queue. -/
theorem applyEndReport_record {s : State} (hs : s.queueOk) {r : Record} (hr : r ∈ s.records) {rep : EndReport}
    (hserial : r.serial = rep.serial) :
    settledByReport (releaseUnits rep.units s) rep r ∈ (applyEndReport rep s).records := by
  rw [applyEndReport_of (hserial ▸ recordOf_eq hs.serialsApart hr), putRecord, commitRecords_records]
  refine List.mem_map.2 ⟨r, hr, if_pos (settledByReport_serial _ _ _).symm⟩

/-- Settles O42: the report applied, and then what choosing again leaves of it. -/
theorem endReportSettlesTargets : Obligations.EndReportSettlesTargets := by
  refine ⟨fun n s h => becomes_of_transmit (by rw [exec_endReport, takeQueueReport_none h]) rfl,
    fun s before after rep hs hends => ?_⟩
  have hs0 : State.queueOk { s with endReports := before ++ after } := hs
  have hframe := applyEndReport_frame rep { s with endReports := before ++ after }
  have hwork := tell_work allPhases (applyEndReport rep { s with endReports := before ++ after })
  have hchosen := tell_chosen allPhases (applyEndReport rep { s with endReports := before ++ after })
  obtain ⟨more, hmore⟩ := (tell_choice allPhases (applyEndReport rep { s with endReports := before ++ after })).ends
  refine ⟨_, more, by rw [exec_endReport, takeQueueReport_of hends, transmit_rest], ?_, ?_, ?_, ?_, ?_, ?_,
    fun r hr hserial => ?_⟩
  · rw [hmore, hframe]
  · exact hwork.inFlight.trans (by rw [hframe])
  · exact hwork.units.trans (by rw [hframe])
  · exact hwork.clock.trans (by rw [hframe])
  · exact hwork.profile.trans (by rw [hframe])
  · exact hwork.ptu.trans (by rw [hframe])
  obtain ⟨r', hr', hc⟩ := exists_of_forall₂_left hchosen (applyEndReport_record hs0 hr hserial)
  have hsettled := (settledByReport_settled _ rep r).chosen hc
  refine ⟨r', hr', hc.continues.1.trans (settledByReport_serial _ _ _), hsettled.collided, hsettled.flights,
    fun hf => ⟨hsettled.active hf, hsettled.cancelled hf, hsettled.expired hf⟩, ?_⟩
  have hreported : List.Forall₂ (TargetReported s.profile.retry r.budget rep) r.targets
      (r.targets.map (reportedTarget s.profile.retry r.budget rep)) :=
    List.forall₂_map_right_iff.2 (List.forall₂_same.2 fun g _ => reportedTarget_reported _ _ rep g)
  exact forall₂_comp hreported hsettled.targets fun g g1 g' h1 h2 =>
    have h := h1.rests h2
    ⟨h.unit, h.kept, h.marker, h.answered, h.untried, h.missed⟩

end Sys2Proof.Machine

/-! ## Choosing again, lane by lane (R69, R80, R81)

Where the queue's evaluation ends nothing and no STOP waits on an ARMED lane, the lanes' choosing and their preemption
tests change the lanes and what aborted parts leave behind, and nothing else. -/

namespace Sys2Proof.Machine

open Sys2Proof.Claims

/-! ### What the lanes read as they choose -/

/-- Two states that lanes cannot tell apart as they choose and test: the queue, the table, the grids, the monitors, and
which lanes are usable. -/
structure SameView (s t : State) : Prop where
  now : t.now = s.now
  ptu : t.ptu = s.ptu
  clock : t.clock = s.clock
  profile : t.profile = s.profile
  units : t.units = s.units
  records : t.records = s.records
  inFlight : t.inFlight = s.inFlight
  lcm : t.lcm = s.lcm
  usable : ∀ ph, usable t ph = usable s ph

theorem SameView.refl (s : State) : SameView s s := ⟨rfl, rfl, rfl, rfl, rfl, rfl, rfl, rfl, fun _ => rfl⟩

theorem SameView.trans {a b c : State} (h : SameView a b) (k : SameView b c) : SameView a c :=
  ⟨k.now.trans h.now, k.ptu.trans h.ptu, k.clock.trans h.clock, k.profile.trans h.profile, k.units.trans h.units,
    k.records.trans h.records, k.inFlight.trans h.inFlight, k.lcm.trans h.lcm, fun ph => (k.usable ph).trans (h.usable ph)⟩

theorem unitAt_congr {s t : State} (h : t.units = s.units) (i : Nat) : unitAt t i = unitAt s i := by
  rw [unitAt, h, unitAt]

theorem eligible_congr {s t : State} (hn : t.now = s.now) (hu : t.units = s.units) (hf : t.inFlight = s.inFlight)
    (r : Record) (g : Target) : eligible t r g = eligible s r g := by
  simp only [eligible, backoffOver, unitAt_congr hu, hn, hf]

theorem offerFor_congr {s t : State} (hn : t.now = s.now) (hu : t.units = s.units) (hf : t.inFlight = s.inFlight)
    (r : Record) (ph : Option Phase) : offerFor t r ph = offerFor s r ph := by
  have hfirst : firstEligible t r ph = firstEligible s r ph := by
    simp only [firstEligible, eligible_congr hn hu hf, unitAt_congr hu]
  simp only [offerFor, hfirst]

/-- A lane's candidates depend on the queue, the table, what is in flight, the time, and whether it is usable (R56). -/
theorem offersTo_congr {s t : State} (hn : t.now = s.now) (hu : t.units = s.units) (hr : t.records = s.records)
    (hf : t.inFlight = s.inFlight) {ph : Phase} (hus : usable t ph = usable s ph) : offersTo t ph = offersTo s ph := by
  simp only [offersTo, hr, hus, offerFor_congr hn hu hf]

theorem candidates_congr {s t : State} (hn : t.now = s.now) (hu : t.units = s.units) (hr : t.records = s.records)
    (hf : t.inFlight = s.inFlight) {ph : Phase} (hus : usable t ph = usable s ph) : candidates t ph = candidates s ph := by
  rw [candidates, offersTo_congr hn hu hr hf hus, candidates]

theorem SameView.candidates {s t : State} (h : SameView s t) (ph : Phase) : candidates t ph = candidates s ph :=
  candidates_congr h.now h.units h.records h.inFlight (h.usable ph)

theorem phaseTrusted_congr {s t : State} (hp : t.ptu = s.ptu) (hf : t.profile = s.profile) (ph : Phase) :
    phaseTrusted t ph = phaseTrusted s ph := by
  have hu : ptuOf t ph = ptuOf s ph := by rw [ptuOf, hp, ptuOf]
  rw [phaseTrusted, hu, hf, phaseTrusted]

theorem usable_congr {s t : State} (hp : t.ptu = s.ptu) (hf : t.profile = s.profile) {ph : Phase}
    (hl : inService (laneOf t ph).state = inService (laneOf s ph).state) : usable t ph = usable s ph := by
  rw [usable, hl, phaseTrusted_congr hp hf, usable]

theorem jointMode_congr {s t : State} (hl : t.lcm = s.lcm) (hu : ∀ ph, usable t ph = usable s ph) :
    jointMode t = jointMode s := by
  have hany : (allPhases.any fun ph => usable t ph && (lcmOf t ph).mode == .robust) =
      allPhases.any fun ph => usable s ph && (lcmOf s ph).mode == .robust := by
    simp only [hu, lcmOf_of_lcm hl]
  rw [jointMode, hany, jointMode]

theorem priceOf_congr {s t : State} (h : SameView s t) (ph : Phase) (r : Record) (i : WorkItem) :
    priceOf t ph r i = priceOf s ph r i := by
  have hmode : priceMode t ph i = priceMode s ph i := by
    rw [priceMode, jointMode_congr h.lcm h.usable, lcmOf_of_lcm h.lcm, priceMode]
  have hplan : ∀ w mode lanes, planFor t r w mode lanes = planFor s r w mode lanes := fun w mode lanes => by
    cases w <;> simp only [planFor, unitAt_congr h.units, h.profile]
  rw [priceOf, hmode, hplan, priceOf]

theorem halfCyclesRemaining_congr {s t : State} (hc : t.clock = s.clock) (hp : t.ptu = s.ptu) (ph : Phase) (d : Nat) :
    halfCyclesRemaining t ph d = halfCyclesRemaining s ph d := by
  simp only [halfCyclesRemaining, ptuOf, hc, hp]

theorem fits_congr {s t : State} (h : SameView s t) (ph : Phase) (extra : Nat) (i : WorkItem) :
    fits t ph extra i = fits s ph extra i := by
  simp only [fits, recordOf, h.records, priceOf_congr h, halfCyclesRemaining_congr h.clock h.ptu]

/-! ### A lane chooses -/

/-- The reservation's item is no longer among the candidates (R77). -/
def lostReservation (cs : List WorkItem) (l : Lane) : Bool :=
  l.state == .reserved && l.reserved.any fun v => !cs.any (sameItem v.item)

/-- A lane with its pending winner chosen again from its candidates (R69, R77). -/
def chosenLane (cs : List WorkItem) (l : Lane) : Lane :=
  { l with
    winner := cs.head?
    state := if lostReservation cs l then .idle else l.state
    reserved := if lostReservation cs l then none else l.reserved }

theorem chosenLane_lost {cs : List WorkItem} {l : Lane} (h : lostReservation cs l = true) :
    chosenLane cs l = { l with winner := cs.head?, state := .idle, reserved := none } := by
  rw [chosenLane, h]
  rfl

theorem chosenLane_kept {cs : List WorkItem} {l : Lane} (h : lostReservation cs l = false) :
    chosenLane cs l = { l with winner := cs.head? } := by
  rw [chosenLane, h]
  rfl

theorem lostReservation_iff {cs : List WorkItem} {l : Lane} :
    lostReservation cs l = true ↔ l.state = .reserved ∧ ∃ v, l.reserved = some v ∧ cs.any (sameItem v.item) = false := by
  unfold lostReservation
  cases hv : l.reserved <;> simp

theorem chosenLane_unreserved {cs : List WorkItem} {l : Lane} (h : l.state ≠ .reserved) :
    chosenLane cs l = { l with winner := cs.head? } :=
  chosenLane_kept (Bool.eq_false_iff.2 fun hl => h (lostReservation_iff.1 hl).1)

theorem choosePending_eq (s : State) (ph : Phase) :
    choosePending s ph = setLane s ph (chosenLane (candidates s ph) (laneOf s ph)) := by
  unfold choosePending
  dsimp only
  split
  · rename_i v hst hv
    split
    · rename_i hany
      rw [chosenLane_kept (Bool.eq_false_iff.2 fun hl => ?_)]
      obtain ⟨w, hw, hnone⟩ := (lostReservation_iff.1 hl).2
      cases hv.symm.trans hw
      exact absurd (hany.symm.trans hnone) (by decide)
    · rename_i hnone
      rw [chosenLane_lost (lostReservation_iff.2 ⟨hst, v, hv, Bool.eq_false_iff.2 hnone⟩)]
  · rename_i hother
    rw [chosenLane_kept (Bool.eq_false_iff.2 fun hl => ?_)]
    obtain ⟨hst, v, hv, -⟩ := lostReservation_iff.1 hl
    exact hother v hst hv

@[simp] theorem chosenLane_winner (cs : List WorkItem) (l : Lane) : (chosenLane cs l).winner = cs.head? := rfl
@[simp] theorem chosenLane_exchange (cs : List WorkItem) (l : Lane) : (chosenLane cs l).exchange = l.exchange := rfl
@[simp] theorem chosenLane_stopDue (cs : List WorkItem) (l : Lane) : (chosenLane cs l).stopDue = l.stopDue := rfl
@[simp] theorem chosenLane_pauseDue (cs : List WorkItem) (l : Lane) : (chosenLane cs l).pauseDue = l.pauseDue := rfl
@[simp] theorem chosenLane_deferral (cs : List WorkItem) (l : Lane) : (chosenLane cs l).deferral = l.deferral := rfl

/-- A lane that loses its reservation stays in service (R68, R77). -/
theorem chosenLane_inService (cs : List WorkItem) (l : Lane) : inService (chosenLane cs l).state = inService l.state := by
  cases h : lostReservation cs l with
  | false => rw [chosenLane_kept h]
  | true =>
    rw [chosenLane_lost h, (lostReservation_iff.1 h).1]
    rfl

theorem chosenLane_state {cs : List WorkItem} {l : Lane} (h : l.state ≠ .reserved) : (chosenLane cs l).state = l.state := by
  rw [chosenLane_unreserved h]

theorem chosenLane_armed {cs : List WorkItem} {l : Lane} (h : (chosenLane cs l).state = .armed) : l.state = .armed := by
  cases hl : lostReservation cs l with
  | false => rwa [chosenLane_kept hl] at h
  | true =>
    rw [chosenLane_lost hl] at h
    cases h

/-- The lanes of `ps` with their pending winners chosen again. -/
def chosenState (s : State) (ps : List Phase) : State :=
  { s with lanes := perPhase fun ph => if ph ∈ ps then chosenLane (candidates s ph) (laneOf s ph) else laneOf s ph }

theorem laneOf_chosenState (s : State) (ps : List Phase) (ph : Phase) :
    laneOf (chosenState s ps) ph = if ph ∈ ps then chosenLane (candidates s ph) (laneOf s ph) else laneOf s ph :=
  atPhase_perPhase _ ph

theorem sameView_of_lanes {s : State} {ls : PerPhase Lane}
    (h : ∀ ph, inService (atPhase ls ph).state = inService (laneOf s ph).state) : SameView s { s with lanes := ls } :=
  ⟨rfl, rfl, rfl, rfl, rfl, rfl, rfl, rfl, fun ph => usable_congr (s := s) (t := { s with lanes := ls }) rfl rfl (h ph)⟩

theorem sameView_chosenState (s : State) (ps : List Phase) : SameView s (chosenState s ps) :=
  sameView_of_lanes fun ph => by
    rw [atPhase_perPhase]
    split
    · exact chosenLane_inService _ _
    · rfl

theorem sameView_choosePending (s : State) (p : Phase) : SameView s (choosePending s p) := by
  rw [choosePending_eq]
  refine sameView_of_lanes fun ph => ?_
  by_cases hq : ph = p
  · rw [hq, atPhase_putPhase_self, chosenLane_inService]
  · rw [atPhase_putPhase_of_ne _ _ hq]
    rfl

/-- The lanes choose one after the other, and each as if it were alone. -/
theorem foldl_choosePending : ∀ {ps : List Phase} (_ : ps.Nodup) (s : State), ps.foldl choosePending s = chosenState s ps
  | [], _, s => by
    have hl : (chosenState s []).lanes = s.lanes := perPhase_ext fun ph =>
      (laneOf_chosenState s [] ph).trans (if_neg List.not_mem_nil)
    exact congrArg (fun ls => { s with lanes := ls }) hl.symm
  | p :: ps, hn, s => by
    obtain ⟨hp, hn⟩ := List.nodup_cons.1 hn
    have hlanes : (chosenState (choosePending s p) ps).lanes = (chosenState s (p :: ps)).lanes := perPhase_ext fun ph => by
      refine (laneOf_chosenState _ ps ph).trans (Eq.trans ?_ (laneOf_chosenState s (p :: ps) ph).symm)
      rw [(sameView_choosePending s p).candidates, choosePending_eq]
      by_cases hq : ph = p
      · subst hq
        rw [if_neg hp, if_pos List.mem_cons_self, laneOf_setLane_self]
      · rw [laneOf_setLane_of_ne _ _ hq]
        simp only [List.mem_cons, hq, false_or]
    calc (p :: ps).foldl choosePending s = chosenState (choosePending s p) ps := foldl_choosePending hn _
      _ = { s with lanes := (chosenState (choosePending s p) ps).lanes } := by
        rw [choosePending_eq]
        rfl
      _ = chosenState s (p :: ps) := by
        rw [hlanes]
        rfl

/-! ### An abort reaches a part -/

/-- An ARMED lane holds its part, and no STOP waits on it (R67, R83). -/
def armedClear (l : Lane) : Prop := l.state = .armed → l.exchange ≠ none ∧ l.stopDue = false

theorem laneOk.armedClear {l : Lane} (h : laneOk l) : armedClear l := fun ha => by
  obtain ⟨hocc, -, -, hstop, -⟩ := h
  refine ⟨hocc.1 (by rw [ha]; rfl), Bool.eq_false_iff.2 fun hs => ?_⟩
  rcases hstop hs with h | h <;> exact absurd (ha.symm.trans h) nofun

/-- The lane as an abort leaves its part: released if ARMED, and otherwise with the abort due (R79, R81, R87, R109). -/
def abortedLane (c : AbortCause) (l : Lane) : Lane :=
  if l.state = .armed then landedLane (freedLane l)
  else { l with exchange := l.exchange.map fun x => { x with abortDue := some (x.abortDue.getD c) } }

/-- What an abort of a part changes of the state: the lanes, and what the part leaves behind. -/
structure AbortWork (s t : State) : Prop where
  rest : t = { s with
    lanes := t.lanes, endedParts := t.endedParts, endReports := t.endReports, learningReports := t.learningReports }
  winner : ∀ ph, (laneOf t ph).winner = (laneOf s ph).winner

theorem AbortWork.refl (s : State) : AbortWork s s := ⟨rfl, fun _ => rfl⟩

theorem AbortWork.trans {a b c : State} (h : AbortWork a b) (k : AbortWork b c) : AbortWork a c := by
  refine ⟨?_, fun ph => (k.winner ph).trans (h.winner ph)⟩
  have hb := h.rest
  have hc := k.rest
  rw [hb] at hc
  exact hc

theorem endPart_rest (ph : Phase) (c : Option AbortCause) (time : Nat) (s : State) :
    endPart ph c time s = { s with
      lanes := (endPart ph c time s).lanes
      endedParts := (endPart ph c time s).endedParts
      endReports := (endPart ph c time s).endReports
      learningReports := (endPart ph c time s).learningReports } := by
  unfold endPart
  split
  · rfl
  · dsimp only
    split <;> rfl

theorem endPart_lanes {ph : Phase} {x : Exchange} (c : Option AbortCause) (time : Nat) {s : State}
    (hx : (laneOf s ph).exchange = some x) : (endPart ph c time s).lanes = putPhase s.lanes ph (freedLane (laneOf s ph)) := by
  unfold endPart
  simp only [hx]
  split <;> rfl

theorem landLane_of_clear {ph : Phase} {s : State} (h : (laneOf s ph).stopDue = false) :
    landLane ph s = setLane s ph (landedLane (laneOf s ph)) := by
  unfold landLane landedLane
  simp only [h, Bool.false_eq_true, ↓reduceIte]
  split <;> rfl

theorem landedLane_winner (l : Lane) : (landedLane l).winner = l.winner := by
  unfold landedLane
  split
  · rfl
  · split <;> rfl

theorem abortedLane_winner (c : AbortCause) (l : Lane) : (abortedLane c l).winner = l.winner := by
  unfold abortedLane
  split
  · exact landedLane_winner _
  · rfl

theorem abortedLane_clear (c : AbortCause) (l : Lane) : armedClear (abortedLane c l) := fun ha => by
  unfold abortedLane at ha ⊢
  split at ha
  · rw [(landedLane_state _).1] at ha
    split at ha
    · cases ha
    · split at ha <;> cases ha
  · exact absurd ha ‹_›

/-- An abort of a part changes its own lane, and what the part leaves behind. -/
theorem abortPart_eq (c : AbortCause) {ph : Phase} {s : State} (h : armedClear (laneOf s ph)) :
    ∃ es rs ks, abortPart c ph s = { setLane s ph (abortedLane c (laneOf s ph)) with
      endedParts := es, endReports := rs, learningReports := ks } := by
  unfold abortPart abortedLane
  split
  · rename_i ha
    obtain ⟨hx, hs⟩ := h ha
    obtain ⟨x, hx⟩ := Option.ne_none_iff_exists'.1 hx
    have hlane : laneOf (endPart ph (some c) s.now s) ph = freedLane (laneOf s ph) := endPart_lane _ _ hx
    have hrest := endPart_rest ph (some c) s.now s
    rw [endPart_lanes _ _ hx] at hrest
    refine ⟨(endPart ph (some c) s.now s).endedParts, (endPart ph (some c) s.now s).endReports,
      (endPart ph (some c) s.now s).learningReports, ?_⟩
    rw [releaseArmed, landLane_of_clear (by rw [hlane]; exact hs), hlane]
    refine (congrArg (fun e => setLane e ph (landedLane (freedLane (laneOf s ph)))) hrest).trans ?_
    simp only [setLane, putPhase_putPhase]
  · exact ⟨s.endedParts, s.endReports, s.learningReports, rfl⟩

theorem abortPart_lane (c : AbortCause) {ph : Phase} {s : State} (h : armedClear (laneOf s ph)) (q : Phase) :
    laneOf (abortPart c ph s) q = if q = ph then abortedLane c (laneOf s q) else laneOf s q := by
  obtain ⟨es, rs, ks, he⟩ := abortPart_eq c h
  rw [he]
  show laneOf (setLane s ph _) q = _
  split
  · rename_i hq
    rw [hq, laneOf_setLane_self]
  · rename_i hq
    rw [laneOf_setLane_of_ne _ _ hq]

theorem abortPart_abortWork (c : AbortCause) {ph : Phase} {s : State} (h : armedClear (laneOf s ph)) :
    AbortWork s (abortPart c ph s) := by
  refine ⟨?_, fun q => ?_⟩
  · obtain ⟨es, rs, ks, he⟩ := abortPart_eq c h
    rw [he]
    rfl
  · rw [abortPart_lane c h]
    split
    · exact abortedLane_winner _ _
    · rfl

/-- Aborts of several parts, each as if it were alone. -/
theorem foldl_abortPart (c : AbortCause) : ∀ {ps : List Phase} (_ : ps.Nodup) {s : State}
    (_ : ∀ ph, armedClear (laneOf s ph)), AbortWork s (ps.foldl (fun st p => abortPart c p st) s) ∧
      ∀ q, laneOf (ps.foldl (fun st p => abortPart c p st) s) q =
        if q ∈ ps then abortedLane c (laneOf s q) else laneOf s q
  | [], _, s, _ => ⟨.refl s, fun q => (if_neg List.not_mem_nil).symm⟩
  | p :: ps, hn, s, hclear => by
    obtain ⟨hp, hn⟩ := List.nodup_cons.1 hn
    have hlane := abortPart_lane c (hclear p)
    obtain ⟨hwork, hlanes⟩ := foldl_abortPart c hn (s := abortPart c p s) fun ph => by
      rw [hlane]
      split
      · exact abortedLane_clear _ _
      · exact hclear ph
    refine ⟨(abortPart_abortWork c (hclear p)).trans hwork, fun q => (hlanes q).trans ?_⟩
    rw [hlane]
    by_cases hq : q = p
    · subst hq
      rw [if_neg hp, if_pos rfl, if_pos List.mem_cons_self]
    · simp only [List.mem_cons, hq, false_or, if_false]

/-! ### An exchange is aborted -/

/-- The lane with the abort of a joined exchange as a whole noted (R112). -/
def notedLane (n : Nat) (c : AbortCause) (l : Lane) : Lane :=
  { l with exchange := l.exchange.map fun x =>
      if x.exch = n ∧ x.joined = true then { x with wholeAbort := some (x.wholeAbort.getD c) } else x }

theorem noteWholeAbort_lane (n : Nat) (c : AbortCause) (s : State) (q : Phase) :
    laneOf (noteWholeAbort n c s) q = notedLane n c (laneOf s q) := atPhase_perPhase _ q

theorem notedLane_other {n : Nat} {c : AbortCause} {l : Lane} (h : ∀ x, l.exchange = some x → x.exch ≠ n) :
    notedLane n c l = l := by
  unfold notedLane
  cases hx : l.exchange with
  | none => rw [Option.map_none, ← hx]
  | some x => rw [Option.map_some, if_neg fun hc => h x hx hc.1, ← hx]

theorem notedLane_clear {n : Nat} {c : AbortCause} {l : Lane} (h : armedClear l) : armedClear (notedLane n c l) := fun ha => by
  obtain ⟨hx, hs⟩ := h ha
  refine ⟨fun hn => hx ?_, hs⟩
  exact Option.map_eq_none_iff.1 hn

theorem holdsExchange_iff {n : Nat} {s : State} {ph : Phase} :
    holdsExchange n s ph = true ↔ ∃ x, (laneOf s ph).exchange = some x ∧ x.exch = n := by
  unfold holdsExchange
  cases (laneOf s ph).exchange <;> simp

/-- The lanes that an abort of the exchange on a lane reaches (R81). -/
def abortReaches (s : State) (x : Exchange) (ph q : Phase) : Bool :=
  if x.joined then holdsExchange x.exch s q else q == ph

/-- The lane as the abort of its exchange leaves it: a joined one is noted as aborted whole (R81, R112). -/
def abortedWhole (c : AbortCause) (x : Exchange) (l : Lane) : Lane :=
  abortedLane c (if x.joined then notedLane x.exch c l else l)

theorem abortExchange_lanes (c : AbortCause) (x : Exchange) (ph : Phase) {s : State} (h : ∀ ph, armedClear (laneOf s ph)) :
    AbortWork s (abortExchange c x ph s) ∧ ∀ q, laneOf (abortExchange c x ph s) q =
      if abortReaches s x ph q then abortedWhole c x (laneOf s q) else laneOf s q := by
  unfold abortExchange abortReaches abortedWhole
  cases hj : x.joined with
  | false =>
    refine ⟨abortPart_abortWork c (h ph), fun q => ?_⟩
    simp only [Bool.false_eq_true, ↓reduceIte, beq_iff_eq]
    exact abortPart_lane c (h ph) q
  | true =>
    have hnoted : AbortWork s (noteWholeAbort x.exch c s) := ⟨rfl, fun q => by rw [noteWholeAbort_lane]; rfl⟩
    have hnodup : (allPhases.filter (holdsExchange x.exch s)).Nodup := List.Nodup.filter _ (by decide)
    obtain ⟨hwork, hlanes⟩ := foldl_abortPart c hnodup (s := noteWholeAbort x.exch c s) fun p => by
      rw [noteWholeAbort_lane]
      exact notedLane_clear (h p)
    refine ⟨hnoted.trans hwork, fun q => (hlanes q).trans ?_⟩
    rw [noteWholeAbort_lane]
    simp only [List.mem_filter, mem_allPhases, true_and, ↓reduceIte]
    split
    · rfl
    · rename_i hq
      exact notedLane_other fun y hy hn => hq (holdsExchange_iff.2 ⟨y, hy, hn⟩)

theorem abortedWhole_clear (c : AbortCause) (x : Exchange) (l : Lane) : armedClear (abortedWhole c x l) :=
  abortedLane_clear c _

theorem abortedLane_number {c : AbortCause} {y : Exchange} {l : Lane} (h : (abortedLane c l).exchange = some y) :
    ∃ z, l.exchange = some z ∧ y.exch = z.exch := by
  unfold abortedLane at h
  split at h
  · rw [(landedLane_kept _).1] at h
    cases h
  · obtain ⟨z, hz, rfl⟩ := Option.map_eq_some_iff.1 h
    exact ⟨z, hz, rfl⟩

theorem notedLane_number {n : Nat} {c : AbortCause} {y : Exchange} {l : Lane} (h : (notedLane n c l).exchange = some y) :
    ∃ z, l.exchange = some z ∧ y.exch = z.exch := by
  obtain ⟨z, hz, rfl⟩ := Option.map_eq_some_iff.1 h
  exact ⟨z, hz, by split <;> rfl⟩

/-- An aborted lane holds no other exchange than before. -/
theorem abortedWhole_number {c : AbortCause} {x y : Exchange} {l : Lane} (h : (abortedWhole c x l).exchange = some y) :
    ∃ z, l.exchange = some z ∧ y.exch = z.exch := by
  obtain ⟨w, hw, hyw⟩ := abortedLane_number h
  split at hw
  · obtain ⟨z, hz, hwz⟩ := notedLane_number hw
    exact ⟨z, hz, hyw.trans hwz⟩
  · exact ⟨w, hw, hyw⟩

/-! ### The preemption tests -/

theorem preemptionTest_free {s : State} {ph : Phase} (h : (laneOf s ph).exchange = none) : preemptionTest s ph = s := by
  simp only [preemptionTest, h]

theorem preemptionTest_of {s : State} {ph : Phase} {x : Exchange} (h : (laneOf s ph).exchange = some x) :
    preemptionTest s ph = if preemptionPasses s ph x then abortExchange .preempted x ph s else s := by
  simp only [preemptionTest, h]

/-- What the preemption tests of some lanes do, where `n` is the number of an exchange that is not tested. -/
structure TestWork (n : Nat) (s t : State) : Prop extends AbortWork s t where
  clear : ∀ ph, armedClear (laneOf t ph)
  kept : ∀ q x, (laneOf s q).exchange = some x → x.exch = n → laneOf t q = laneOf s q
  numbers : ∀ q y, (laneOf t q).exchange = some y → ∃ x, (laneOf s q).exchange = some x ∧ y.exch = x.exch

theorem TestWork.refl (n : Nat) {s : State} (h : ∀ ph, armedClear (laneOf s ph)) : TestWork n s s :=
  ⟨.refl s, h, fun _ _ _ _ => rfl, fun _ y hy => ⟨y, hy, rfl⟩⟩

theorem TestWork.trans {n : Nat} {a b c : State} (h : TestWork n a b) (k : TestWork n b c) : TestWork n a c :=
  ⟨h.toAbortWork.trans k.toAbortWork, k.clear,
    fun q x hx hn => by
      have hb := h.kept q x hx hn
      exact (k.kept q x (hb ▸ hx) hn).trans hb,
    fun q z hz => by
      obtain ⟨y, hy, hzy⟩ := k.numbers q z hz
      obtain ⟨x, hx, hyx⟩ := h.numbers q y hy
      exact ⟨x, hx, hzy.trans hyx⟩⟩

theorem preemptionTest_testWork {n : Nat} {s : State} {p : Phase} (h : ∀ ph, armedClear (laneOf s ph))
    (hn : ∀ x, (laneOf s p).exchange = some x → x.exch ≠ n) : TestWork n s (preemptionTest s p) := by
  cases hx : (laneOf s p).exchange with
  | none =>
    rw [preemptionTest_free hx]
    exact .refl n h
  | some x =>
    rw [preemptionTest_of hx]
    split
    · obtain ⟨hwork, hlanes⟩ := abortExchange_lanes .preempted x p h
      refine ⟨hwork, fun q => ?_, fun q y hy hyn => ?_, fun q y hy => ?_⟩
      · rw [hlanes]
        split
        · exact abortedWhole_clear _ _ _
        · exact h q
      · rw [hlanes, if_neg]
        intro hr
        unfold abortReaches at hr
        split at hr
        · obtain ⟨z, hz, hzx⟩ := holdsExchange_iff.1 hr
          cases hy.symm.trans hz
          exact hn x hx (hzx.symm.trans hyn)
        · obtain rfl := eq_of_beq hr
          exact hn y hy hyn
      · rw [hlanes] at hy
        split at hy
        · exact abortedWhole_number hy
        · exact ⟨y, hy, rfl⟩
    · exact .refl n h

theorem foldl_preemptionTest {n : Nat} : ∀ {ps : List Phase} {s : State}, (∀ ph, armedClear (laneOf s ph)) →
    (∀ p ∈ ps, ∀ x, (laneOf s p).exchange = some x → x.exch ≠ n) → TestWork n s (ps.foldl preemptionTest s)
  | [], _, h, _ => .refl n h
  | p :: ps, s, h, hn => by
    have hp := preemptionTest_testWork h (hn p List.mem_cons_self)
    refine hp.trans (foldl_preemptionTest hp.clear fun q hq y hy => ?_)
    obtain ⟨x, hx, hyx⟩ := hp.numbers q y hy
    rw [hyx]
    exact hn q (List.mem_cons_of_mem _ hq) x hx

/-! ### The lanes are told -/

/-- The lanes of `ps` choose, take their tests, and those that a test made unusable choose once more (R69, R80). -/
def chooseAndTest (ps : List Phase) (s : State) : State :=
  let s1 := ps.foldl choosePending s
  let s2 := ps.foldl preemptionTest s1
  (usabilityChanged s1 s2).foldl choosePending s2

theorem tell_eq (asked : List Phase) (s : State) :
    tell asked s =
      if asked.isEmpty then s
      else chooseAndTest (if s.records.any (evaluationEnds s) then allPhases else asked) (evaluateAll s) := rfl

theorem tell_allPhases (s : State) : tell allPhases s = chooseAndTest allPhases (evaluateAll s) := by
  rw [tell_eq]
  show chooseAndTest (if _ then allPhases else allPhases) _ = _
  rw [ite_self]

theorem commitRecords_self (s : State) : commitRecords s.records s = s := by
  rw [commitRecords, decide_eq_false (Nat.lt_irrefl _)]
  rfl

/-- An evaluation that ends no target changes nothing (R55). -/
theorem evaluateAll_quiet {s : State} (h : ∀ r ∈ s.records, evaluationEnds s r = false) : evaluateAll s = s := by
  have hmap : s.records.map (evaluateRecord s) = s.records := by
    conv_rhs => rw [← List.map_id s.records]
    exact List.map_congr_left fun r hr => by simp [evaluateRecord, h r hr]
  rw [evaluateAll, hmap, commitRecords_self]

theorem usabilityChanged_self (s : State) : usabilityChanged s s = [] := usabilityChanged_nil fun _ => rfl

/-- Where the evaluation ends nothing, the lanes asked choose and test, and no others. -/
theorem tell_of_quiet {s : State} (h : ∀ r ∈ s.records, evaluationEnds s r = false) (asked : List Phase) :
    tell asked s = chooseAndTest asked s := by
  have hany : s.records.any (evaluationEnds s) = false := List.any_eq_false.2 fun r hr => by simp [h r hr]
  rw [tell_eq, hany, evaluateAll_quiet h]
  cases asked with
  | nil =>
    show s = (usabilityChanged s s).foldl choosePending s
    rw [usabilityChanged_self, List.foldl_nil]
  | cons => rfl

/-- The state in which the tests have been taken. -/
def testedState (ps : List Phase) (s : State) : State := ps.foldl preemptionTest (chosenState s ps)

theorem usabilityChanged_nodup (s t : State) : (usabilityChanged s t).Nodup := List.Nodup.filter _ (by decide)

theorem chooseAndTest_eq {ps : List Phase} (hn : ps.Nodup) (s : State) :
    chooseAndTest ps s =
      chosenState (testedState ps s) (usabilityChanged (chosenState s ps) (testedState ps s)) := by
  rw [chooseAndTest, foldl_choosePending hn]
  exact foldl_choosePending (usabilityChanged_nodup _ _) _

theorem chosenState_rest (s : State) (ps : List Phase) : chosenState s ps = { s with lanes := (chosenState s ps).lanes } := rfl

theorem chosenState_clear {s : State} (h : ∀ ph, armedClear (laneOf s ph)) (ps : List Phase) (ph : Phase) :
    armedClear (laneOf (chosenState s ps) ph) := by
  rw [laneOf_chosenState]
  split
  · exact fun ha => h ph (chosenLane_armed ha)
  · exact h ph

theorem laneOf_chosenState_exchange (s : State) (ps : List Phase) (ph : Phase) :
    (laneOf (chosenState s ps) ph).exchange = (laneOf s ph).exchange := by
  rw [laneOf_chosenState]
  split <;> rfl

section
variable {s : State} {ps : List Phase}

theorem testedState_testWork (h : ∀ ph, armedClear (laneOf s ph)) {n : Nat}
    (hn : ∀ p ∈ ps, ∀ x, (laneOf s p).exchange = some x → x.exch ≠ n) :
    TestWork n (chosenState s ps) (testedState ps s) :=
  foldl_preemptionTest (chosenState_clear h ps) fun p hp x hx =>
    hn p hp x ((laneOf_chosenState_exchange s ps p).symm.trans hx)

theorem exists_unheld_number (s : State) : ∃ n, ∀ p x, (laneOf s p).exchange = some x → x.exch ≠ n := by
  refine ⟨((laneOf s .A).exchange.map Exchange.exch).getD 0 + ((laneOf s .B).exchange.map Exchange.exch).getD 0 +
    ((laneOf s .C).exchange.map Exchange.exch).getD 0 + 1, fun p x hx => ?_⟩
  cases p <;> rw [hx, Option.map_some, Option.getD_some] <;> omega

/-- Choosing and testing change the lanes, and what aborted parts leave behind. -/
theorem chooseAndTest_rest (hn : ps.Nodup) (h : ∀ ph, armedClear (laneOf s ph)) :
    chooseAndTest ps s = { s with
      lanes := (chooseAndTest ps s).lanes
      endedParts := (chooseAndTest ps s).endedParts
      endReports := (chooseAndTest ps s).endReports
      learningReports := (chooseAndTest ps s).learningReports } := by
  obtain ⟨n, hnum⟩ := exists_unheld_number s
  have htest := (testedState_testWork (ps := ps) h fun p _ => hnum p).rest
  rw [chooseAndTest_eq hn, chosenState, htest]
  rfl

/-- An exchange that no lane asked holds stays as it is, and so does its lane. -/
theorem chooseAndTest_kept (hp : ps.Nodup) (h : ∀ ph, armedClear (laneOf s ph)) {q : Phase} {x : Exchange}
    (hx : (laneOf s q).exchange = some x)
    (hn : ∀ p ∈ ps, ∀ y, (laneOf s p).exchange = some y → y.exch ≠ x.exch) :
    laneOf (chooseAndTest ps s) q = laneOf s q := by
  have hq : q ∉ ps := fun hq => hn q hq x hx rfl
  have hchosen : laneOf (chosenState s ps) q = laneOf s q := by rw [laneOf_chosenState, if_neg hq]
  have hwork := testedState_testWork h hn
  have htested : laneOf (testedState ps s) q = laneOf (chosenState s ps) q :=
    hwork.kept q x (hchosen.symm ▸ hx) rfl
  have hrest := hwork.rest
  have husable : usable (testedState ps s) q = usable (chosenState s ps) q := by
    refine usable_congr ?_ ?_ (by rw [htested]) <;> rw [hrest]
  rw [chooseAndTest_eq hp, laneOf_chosenState, if_neg, htested, hchosen]
  intro hm
  have hne := (List.mem_filter.1 hm).2
  rw [husable, bne_self_eq_false] at hne
  cases hne

/-- After all lanes have chosen and tested, each one's pending winner heads its candidates (R69). -/
theorem chooseAndTest_winner (h : ∀ ph, armedClear (laneOf s ph)) (ph : Phase) :
    (laneOf (chooseAndTest allPhases s) ph).winner = (candidates (chooseAndTest allPhases s) ph).head? := by
  obtain ⟨n, hnum⟩ := exists_unheld_number s
  have hwork := testedState_testWork (ps := allPhases) h fun p _ => hnum p
  have hrest := hwork.rest
  rw [chooseAndTest_eq (by decide), (sameView_chosenState _ _).candidates, laneOf_chosenState]
  split
  · rfl
  · rename_i hm
    have husable : usable (testedState allPhases s) ph = usable (chosenState s allPhases) ph := by
      by_contra hne
      exact hm (List.mem_filter.2 ⟨mem_allPhases ph, bne_iff_ne.2 fun he => hne he.symm⟩)
    have hcand : candidates (testedState allPhases s) ph = candidates s ph :=
      (candidates_congr (s := chosenState s allPhases) (by rw [hrest]) (by rw [hrest]) (by rw [hrest]) (by rw [hrest])
        husable).trans ((sameView_chosenState s allPhases).candidates ph)
    rw [hwork.winner, hcand, laneOf_chosenState, if_pos (mem_allPhases ph), chosenLane_winner]

end

end Sys2Proof.Machine

/-! ## RESTART and a not-before time that passes: O41, O43 -/

namespace Sys2Proof.Machine

open Sys2Proof.Claims

/-! ### RESTART (R65) -/

theorem candidates_of_no_records {s : State} (h : s.records = []) (ph : Phase) : candidates s ph = [] := by
  rw [candidates, offersTo, h]
  rfl

/-- A lane without candidates is not preempted (R80). -/
theorem preemptionTest_of_no_candidates {s : State} {ph : Phase} (h : candidates s ph = []) : preemptionTest s ph = s := by
  cases hx : (laneOf s ph).exchange with
  | none => exact preemptionTest_free hx
  | some x =>
    rw [preemptionTest_of hx, preemptionPasses, h]
    rfl

theorem foldl_preemptionTest_of_no_candidates {s : State} (h : ∀ ph, candidates s ph = []) :
    ∀ ps : List Phase, ps.foldl preemptionTest s = s
  | [] => rfl
  | p :: ps => by
    rw [List.foldl_cons, preemptionTest_of_no_candidates (h p)]
    exact foldl_preemptionTest_of_no_candidates h ps

/-- With no records left the lanes choose nothing, and nothing is preempted. -/
theorem tell_of_no_records {s : State} (h : s.records = []) : tell allPhases s = chosenState s allPhases := by
  have hcand : ∀ ph, candidates (chosenState s allPhases) ph = [] := fun ph =>
    candidates_of_no_records (s := chosenState s allPhases) h ph
  have htested : testedState allPhases s = chosenState s allPhases := foldl_preemptionTest_of_no_candidates hcand _
  have hquiet : ∀ r ∈ s.records, evaluationEnds s r = false := fun r hr => by
    rw [h] at hr
    exact absurd hr List.not_mem_nil
  have hnone : ∀ t, chosenState t [] = t := fun t => (foldl_choosePending List.nodup_nil t).symm
  rw [tell_of_quiet hquiet, chooseAndTest_eq (by decide), htested, usabilityChanged_self, hnone]

/-- A lane that chooses from nothing loses its winner and its reservation (R69, R77). -/
theorem chosenLane_nil {l : Lane} (h : l.state = .reserved ↔ l.reserved ≠ none) :
    chosenLane [] l =
      { l with winner := none, reserved := none, state := if l.state = .reserved then .idle else l.state } := by
  by_cases hst : l.state = .reserved
  · obtain ⟨v, hv⟩ := Option.ne_none_iff_exists'.1 (h.1 hst)
    rw [chosenLane_lost (lostReservation_iff.2 ⟨hst, v, hv, rfl⟩), if_pos hst]
    rfl
  · have hv : l.reserved = none := by
      by_contra hne
      exact hst (h.2 hne)
    rw [chosenLane_unreserved hst, if_neg hst, ← hv]
    rfl

/-- Settles O41: the lanes choose among no candidates. -/
theorem restartEmptiesQueueAlone : Obligations.RestartEmptiesQueueAlone := by
  intro tag s hs hroom
  refine answers_of_serve (rq := .restart) rfl rfl hroom fun u => ?_
  have hlanes : (chosenState (restarted { s with uli := u }) allPhases).lanes = perPhase fun ph =>
      { laneOf s ph with
        winner := none, deferral := 0, reserved := none
        state := if (laneOf s ph).state = .reserved then .idle else (laneOf s ph).state } := perPhase_ext fun ph => by
    have hrestart : laneOf (restarted { s with uli := u }) ph = { laneOf s ph with deferral := 0 } := atPhase_perPhase _ ph
    refine (laneOf_chosenState _ allPhases ph).trans ?_
    rw [if_pos (mem_allPhases ph), candidates_of_no_records rfl, hrestart, atPhase_perPhase]
    exact chosenLane_nil (hs ph).1.2.1
  rw [serve, serveRestart_eq, tell_of_no_records rfl]
  refine congrArg (fun t => (t, [resultByte .ok])) ?_
  exact congrArg (fun ls => { restarted { s with uli := u } with lanes := ls }) hlanes

/-! ### A not-before time passes (R55, R59) -/

/-- A target waits for a not-before time that has come: the claim's words for `backoffEnds`. -/
theorem backoffEnds_iff (s : State) (u : Nat) (g : Target) :
    backoffEnds s u g = true ↔ g.unit = u ∧ g.outcome = .pending ∧
      ∃ nb, g.notBefore = some nb ∧ nb.passed = false ∧ nb.time ≤ s.now := by
  unfold backoffEnds
  cases g.notBefore <;> simp [and_assoc]

/-- A target whose not-before time has passed, if it waited for one (log 13). -/
def passedTarget (s : State) (u : Nat) (g : Target) : Target :=
  if backoffEnds s u g then { g with notBefore := g.notBefore.map fun nb => { nb with passed := true } } else g

/-- The record with the unit's not-before time passed. -/
def passedRecord (s : State) (u : Nat) (r : Record) : Record := { r with targets := r.targets.map (passedTarget s u) }

theorem passNotBefore_eq (r : Record) (u : Nat) (s : State) :
    passNotBefore r u s = tell allPhases (putRecord (passedRecord s u r) s) := rfl

theorem exec_notBefore_unknown {s : State} {id : BitVec 32} (h : ∀ r ∈ s.records, r.id ≠ id) (u : Nat) :
    exec (.notBeforeTimePasses id u) s = .next (transmit s) := by
  show execNotBeforeTimePasses id u s = _
  rw [execNotBeforeTimePasses, recordById_none.2 h]

theorem exec_notBefore_of {s : State} (hs : s.queueOk) {r : Record} (hr : r ∈ s.records) (u : Nat) :
    exec (.notBeforeTimePasses r.id u) s =
      .next (transmit (if !isDone r && r.targets.any (backoffEnds s u) then passNotBefore r u s else s)) := by
  show execNotBeforeTimePasses r.id u s = _
  rw [execNotBeforeTimePasses, recordById_eq hs hr]

theorem passedTarget_kept (s : State) (u : Nat) (g : Target) :
    (passedTarget s u g).unit = g.unit ∧ (passedTarget s u g).outcome = g.outcome ∧
      (passedTarget s u g).attempts = g.attempts ∧ (passedTarget s u g).inFlight = g.inFlight := by
  unfold passedTarget
  split <;> exact ⟨rfl, rfl, rfl, rfl⟩

/-- A time that has passed is over for good (R55, log 13). -/
theorem backoffOver_passed {s : State} {g : Target} {o : Option NotBefore}
    (h : g.notBefore = o.map fun nb => { nb with passed := true }) : backoffOver s g = true := by
  unfold backoffOver
  cases o <;> rw [h] <;> rfl

/-- A target whose not-before time is over is eligible just as R55's other conditions have it. -/
theorem eligible_iff {s : State} {r : Record} {g : Target} (h : backoffOver s g = true) :
    eligible s r g = true ↔ g.outcome = .pending ∧ g.inFlight = false ∧ g.unit ∉ s.inFlight ∧ g.attempts < r.budget ∧
      ¬((unitAt s g.unit).state = .silent ∧ 1 ≤ g.attempts) := by
  simp [eligible, h, and_assoc, imp_iff_not_or]

theorem transmit_candidates (s : State) (ph : Phase) : candidates (transmit s) ph = candidates s ph := by
  rw [transmit_rest]
  rfl

/-- Once every lane has been told, each one's pending winner heads its candidates (R69). -/
theorem tell_allPhases_winner {s : State} (h : ∀ ph, armedClear (laneOf s ph)) (ph : Phase) :
    (laneOf (tell allPhases s) ph).winner = (candidates (tell allPhases s) ph).head? := by
  rw [tell_allPhases]
  refine chooseAndTest_winner (fun ph => ?_) ph
  rw [evaluateAll, commitRecords_frame]
  exact h ph

/-- Settles O43: the time marked as passed, and what the lanes' choosing leaves of it. -/
theorem backoffTimePasses : Obligations.BackoffTimePasses := by
  intro s id u hs hl
  refine ⟨fun hnone => becomes_of_transmit (exec_notBefore_unknown hnone u) rfl, fun r hr hid => ?_⟩
  subst hid
  intro due
  have hdue : ∀ g, due g ↔ backoffEnds s u g = true := fun g => (backoffEnds_iff s u g).symm
  refine ⟨fun hidle => becomes_of_transmit (r := s) ?_ rfl, fun hd ⟨g, hg, hgdue⟩ => ?_⟩
  · rw [exec_notBefore_of hs hr, if_neg]
    rw [Bool.and_eq_true, Bool.not_eq_true', List.any_eq_true]
    rintro ⟨hd, g, hg, hends⟩
    exact hidle.elim (fun h => absurd (h.symm.trans hd) (by decide)) fun h => h g hg ((hdue g).2 hends)
  have hexec : exec (.notBeforeTimePasses r.id u) s = .next (transmit (tell allPhases (putRecord (passedRecord s u r) s))) := by
    rw [exec_notBefore_of hs hr, if_pos, passNotBefore_eq]
    rw [Bool.and_eq_true, Bool.not_eq_true', List.any_eq_true]
    exact ⟨hd, g, hg, (hdue g).1 hgdue⟩
  have hwork : LaneWork s (tell allPhases (putRecord (passedRecord s u r) s)) :=
    (putRecord_work s hr (backoffEnds_works s u r)).trans (tell_work _ _)
  have hclear : ∀ ph, armedClear (laneOf (putRecord (passedRecord s u r) s) ph) := fun ph => by
    rw [putRecord_quiet (r' := passedRecord s u r) hs.serialsApart hr rfl rfl]
    exact (hl ph).1.armedClear
  have hchosen := putRecord_chosen (r' := passedRecord s u r) s s.uli
  refine ⟨_, hexec, hwork.outside, fun ph => ?_, ?_⟩
  · rw [transmit_laneOf, transmit_candidates]
    exact tell_allPhases_winner hclear ph
  · rw [recordChanges, transmit_records]
    refine recordChanges_put (r' := passedRecord s u r) hs hr rfl rfl hchosen fun q hq => ?_
    have hcont := recordContinues_trans (backoffEnds_works s u r).continues hq.continues
    refine ⟨hcont, ?_⟩
    have hpassed : List.Forall₂ (fun g g1 => g1 = passedTarget s u g) r.targets (passedRecord s u r).targets :=
      List.forall₂_map_right_iff.2 (List.forall₂_same.2 fun g _ => rfl)
    refine forall₂_comp hpassed hq.targets fun g g1 g' h1 hrest => ?_
    obtain ⟨hunit, -, hatt, hin⟩ := passedTarget_kept s u g
    subst h1
    have hattempts := hrest.attempts.trans hatt
    have hinFlight := hrest.inFlight.trans hin
    refine ⟨hattempts, hinFlight, fun hn => ?_, fun hy => ?_⟩
    · rw [hrest.notBefore, passedTarget, if_neg fun he => hn ((hdue g).2 he)]
    · have hnb : g'.notBefore = g.notBefore.map fun nb => { nb with passed := true } := by
        rw [hrest.notBefore, passedTarget, if_pos ((hdue g).1 hy)]
      have hover := backoffOver_passed (s := transmit (tell allPhases (putRecord (passedRecord s u r) s))) hnb
      refine ⟨hnb, hover, (eligible_iff hover).trans ?_⟩
      obtain ⟨-, -, -, -, -, hbudget, -⟩ := hcont
      have hu : g'.unit = u := (hrest.unit.trans hunit).trans hy.1
      rw [hinFlight, hattempts, hu, hbudget, unitAt_congr ((transmit_units _).trans hwork.units), transmit_inFlight,
        hwork.inFlight]

end Sys2Proof.Machine

/-! ## Aborts that reach an exchange from outside (R80, R81, R87): O32 -/

namespace Sys2Proof.Machine

open Sys2Proof.Claims

/-! ### The queue's abort request (R87) -/

theorem exec_abortRequest_none {s : State} {ph : Phase} (h : ∀ a ∈ s.abortRequests, a.lane ≠ ph) :
    exec (.abortRequest ph) s = .next (transmit s) := by
  have hfind : s.abortRequests.find? (fun a => a.lane == ph) = none :=
    List.find?_eq_none.2 fun a ha => by simpa using h a ha
  show execAbortRequest ph s = _
  rw [execAbortRequest, hfind]

theorem exec_abortRequest_of {s : State} {ph : Phase} {q : AbortRequest}
    (h : s.abortRequests.find? (fun a => a.lane == ph) = some q) :
    exec (.abortRequest ph) s = .next (transmit (abortRequestTaken q s)) := by
  show execAbortRequest ph s = _
  rw [execAbortRequest, h]

theorem not_enters_stopped {s t : State} {ph : Phase} (h : (laneOf t ph).state = (laneOf s ph).state) :
    ((laneOf s ph).state != .stopped && (laneOf t ph).state == .stopped) = false := by
  rw [h]
  cases (laneOf s ph).state <;> rfl

/-- Where every lane keeps its state, no lane has to choose again (R69). -/
theorem askedAfterControl_nil {s t : State} (hp : t.ptu = s.ptu) (hf : t.profile = s.profile)
    (h : ∀ ph, (laneOf t ph).state = (laneOf s ph).state) : askedAfterControl s t = [] := by
  have hany : (allPhases.any fun ph => (laneOf s ph).state != .stopped && (laneOf t ph).state == .stopped) = false :=
    List.any_eq_false.2 fun ph _ => by simp [not_enters_stopped (h ph)]
  rw [askedAfterControl, hany, usabilityChanged_nil fun ph => usable_congr hp hf (by rw [h ph])]
  rfl

/-- The queue's requests with one of them taken from transit. -/
def requestTaken (q : AbortRequest) (s : State) : State := { s with abortRequests := s.abortRequests.erase q }

theorem abortRequestTaken_eq (q : AbortRequest) (s : State) :
    abortRequestTaken q s =
      tell (askedAfterControl s (takeAbortRequest q (requestTaken q s))) (takeAbortRequest q (requestTaken q s)) := rfl

/-- A request that leaves every lane in its state has no lane choose. -/
theorem abortRequestTaken_quiet {s : State} {q : AbortRequest}
    (h : ∀ ph, (laneOf (takeAbortRequest q (requestTaken q s)) ph).state = (laneOf s ph).state) :
    abortRequestTaken q s = takeAbortRequest q (requestTaken q s) := by
  have hwork := takeAbortRequest_work q (requestTaken q s)
  have hnil : askedAfterControl s (takeAbortRequest q (requestTaken q s)) = [] :=
    askedAfterControl_nil hwork.ptu hwork.profile h
  rw [abortRequestTaken_eq, hnil, tell_nil]

theorem takeAbortRequest_ignored {s : State} {q : AbortRequest}
    (h : ∀ x, (laneOf s q.lane).exchange = some x → x.serial ≠ q.serial) : takeAbortRequest q s = s := by
  unfold takeAbortRequest
  split
  · rfl
  · rename_i x hx
    exact if_neg (h x hx)

theorem takeAbortRequest_lane {s : State} {q : AbortRequest} {x : Exchange} (h : ∀ ph, armedClear (laneOf s ph))
    (hx : (laneOf s q.lane).exchange = some x) (hs : x.serial = q.serial) (p : Phase) :
    laneOf (takeAbortRequest q s) p =
      if p = q.lane then abortedLane q.cause (notedLane x.exch q.cause (laneOf s p))
      else notedLane x.exch q.cause (laneOf s p) := by
  simp only [takeAbortRequest, hx, if_pos hs]
  have hclear : armedClear (laneOf (noteWholeAbort x.exch q.cause s) q.lane) := by
    rw [noteWholeAbort_lane]
    exact notedLane_clear (h q.lane)
  rw [abortPart_lane q.cause hclear, noteWholeAbort_lane]

/-- A SENDING or LISTENING lane has the abort due; a cause that was due before stands (R87). -/
theorem abortedLane_due {c : AbortCause} {l : Lane} (h : l.state ≠ .armed) :
    abortedLane c l =
      { l with exchange := l.exchange.map fun x => { x with abortDue := some (x.abortDue.getD c) } } := if_neg h

theorem abortedLane_armed {c : AbortCause} {l : Lane} (h : l.state = .armed) :
    abortedLane c l = landedLane (freedLane l) := if_pos h

theorem freedLane_landed {l : Lane} (h : l.stopDue = false) :
    (landedLane (freedLane l)).exchange = none ∧
      (landedLane (freedLane l)).state = if l.pauseDue then .paused else .idle := by
  refine ⟨(landedLane_kept _).1, (landedLane_state _).1.trans ?_⟩
  show (if l.stopDue then _ else _) = _
  rw [h]
  rfl

theorem notedLane_part {n : Nat} {c : AbortCause} {l : Lane} {x : Exchange} (hx : l.exchange = some x) :
    ∃ o, (notedLane n c l).exchange = some { x with wholeAbort := o } := by
  rw [notedLane, hx, Option.map_some]
  split
  · exact ⟨_, rfl⟩
  · exact ⟨x.wholeAbort, rfl⟩

section
variable {s : State} {q : AbortRequest} {x : Exchange}

/-- A request that finds its exchange SENDING or LISTENING (R87). -/
theorem abortRequestTaken_due (hl : ∀ p, armedClear (laneOf s p)) (hst : (laneOf s q.lane).state ≠ .armed)
    (hx : (laneOf s q.lane).exchange = some x) (hs : x.serial = q.serial) :
    (laneOf (abortRequestTaken q s) q.lane).state = (laneOf s q.lane).state ∧
      (abortRequestTaken q s).records = s.records ∧
      ∃ y, (laneOf (abortRequestTaken q s) q.lane).exchange = some y ∧ y.exch = x.exch ∧ y.position = x.position ∧
        y.abortDue = some (x.abortDue.getD q.cause) := by
  have hmark : takeAbortRequest q (requestTaken q s) =
      markAbort q.lane q.cause (noteWholeAbort x.exch q.cause (requestTaken q s)) := by
    have hx' : (laneOf (requestTaken q s) q.lane).exchange = some x := hx
    simp only [takeAbortRequest, hx', if_pos hs]
    exact if_neg fun ha => hst (by rwa [noteWholeAbort_lane] at ha)
  have hlane : ∀ p, laneOf (takeAbortRequest q (requestTaken q s)) p = if p = q.lane then
      abortedLane q.cause (notedLane x.exch q.cause (laneOf s p)) else notedLane x.exch q.cause (laneOf s p) :=
    takeAbortRequest_lane (s := requestTaken q s) hl hx hs
  have hmine := (hlane q.lane).trans (if_pos rfl)
  rw [abortedLane_due (l := notedLane x.exch q.cause (laneOf s q.lane)) hst] at hmine
  have hquiet : abortRequestTaken q s = takeAbortRequest q (requestTaken q s) := abortRequestTaken_quiet fun p => by
    by_cases hp : p = q.lane
    · rw [hp, hmine]
      rfl
    · rw [hlane, if_neg hp]
      rfl
  obtain ⟨o, ho⟩ := notedLane_part (n := x.exch) (c := q.cause) hx
  rw [hquiet, hmine, ho]
  refine ⟨rfl, ?_, _, rfl, rfl, rfl, rfl⟩
  rw [hmark]
  rfl

/-- A request that finds its exchange ARMED releases the lane (R87, R109). -/
theorem abortRequestTaken_armed (hl : ∀ p, armedClear (laneOf s p)) (hst : (laneOf s q.lane).state = .armed)
    (hstop : (laneOf s q.lane).stopDue = false) (hx : (laneOf s q.lane).exchange = some x) (hs : x.serial = q.serial) :
    (laneOf (abortRequestTaken q s) q.lane).exchange = none ∧
      (laneOf (abortRequestTaken q s) q.lane).state = if (laneOf s q.lane).pauseDue then .paused else .idle := by
  have hlane : laneOf (takeAbortRequest q (requestTaken q s)) q.lane =
      abortedLane q.cause (notedLane x.exch q.cause (laneOf s q.lane)) :=
    (takeAbortRequest_lane (s := requestTaken q s) hl hx hs q.lane).trans (if_pos rfl)
  obtain ⟨hexchange, hstate⟩ := freedLane_landed (l := notedLane x.exch q.cause (laneOf s q.lane)) hstop
  rw [abortedLane_armed (l := notedLane x.exch q.cause (laneOf s q.lane)) hst] at hlane
  rw [← hlane] at hexchange hstate
  have hfree : freeLane (laneOf (takeAbortRequest q (requestTaken q s)) q.lane) := by
    refine ⟨hexchange, ?_, ?_⟩
    · rw [hstate]
      split <;> rfl
    · rw [hstate]
      split <;> nofun
  obtain ⟨w, hw⟩ := (tell_choice (askedAfterControl s (takeAbortRequest q (requestTaken q s)))
    (takeAbortRequest q (requestTaken q s))).free q.lane hfree
  rw [abortRequestTaken_eq, hw]
  exact ⟨hexchange, hstate⟩

end

/-! ### The preemption test in the claim's words (R80) -/

theorem urgentWaits_iff {s : State} (hn : (s.records.map Record.serial).Nodup) (ph : Phase) :
    (candidates s ph).any (fun i => decide (s.profile.urgent ≤ i.priority) && fits s ph 1 i) = true ↔ urgentWaits s ph := by
  have hfits : ∀ i, fits s ph 1 i = true ↔
      ∃ r ∈ s.records, r.serial = i.serial ∧ priceOf s ph r i + 1 ≤ halfCyclesRemaining s ph r.deadline := fun i => by
    constructor
    · intro h
      cases hr : recordOf s i.serial with
      | none => simp [fits, hr] at h
      | some r =>
        obtain ⟨hmem, hserial⟩ := recordOf_mem hr
        exact ⟨r, hmem, hserial, by simpa [fits, hr] using h⟩
    · rintro ⟨r, hmem, hserial, hle⟩
      have hr := recordOf_eq hn hmem
      rw [hserial] at hr
      simpa [fits, hr] using hle
  rw [List.any_eq_true]
  simp only [Bool.and_eq_true, decide_eq_true_eq, hfits]
  rfl

theorem preemptible_iff (l : Lane) (x : Exchange) :
    preemptible l x = true ↔
      l.state = .armed ∨ (∃ w, x.plan.kind = .broadcast w) ∨ x.plan.kind = .unicast 0 ∨ x.position ≤ x.plan.n := by
  unfold preemptible
  cases x.plan.kind <;> simp

theorem preemptionPasses_iff {s : State} (hn : (s.records.map Record.serial).Nodup) (ph : Phase) (x : Exchange) :
    preemptionPasses s ph x = true ↔ urgentWaits s ph ∧ preemptibleNow s ph x := by
  unfold preemptionPasses preemptibleNow
  rw [Bool.and_eq_true, Bool.and_eq_true, Bool.and_eq_true, urgentWaits_iff hn, preemptible_iff, decide_eq_true_eq,
    Option.isNone_iff_eq_none]
  tauto

/-- States that look alike to the lanes have the same urgent candidates waiting. -/
theorem SameView.urgentWaits {s t : State} (h : SameView s t) (ph : Phase) : urgentWaits t ph ↔ urgentWaits s ph := by
  unfold Claims.urgentWaits
  rw [h.candidates, h.profile, h.records]
  simp only [priceOf_congr h, halfCyclesRemaining_congr h.clock h.ptu]

/-! ### One exchange tested on all its lanes -/

/-- An induction along steps that leave a state as it is until one of them takes it to where no later step changes it. -/
theorem foldl_reaches {α : Type} {f : State → α → State} {v : State} {Q : State → Prop}
    (hstart : ∀ a, f v a = v ∨ Q (f v a)) (hstay : ∀ t a, Q t → Q (f t a)) {a : α} (ha : Q (f v a)) :
    ∀ {as : List α}, a ∈ as → ∀ {t}, t = v ∨ Q t → Q (as.foldl f t)
  | b :: as, hmem, t, ht => by
    rw [List.foldl_cons]
    have hrest : ∀ {as : List α} {t}, Q t → Q (as.foldl f t) := fun {as t} ht => by
      induction as generalizing t with
      | nil => exact ht
      | cons c cs ih => exact ih (hstay t c ht)
    rcases ht with rfl | ht
    · rcases List.mem_cons.1 hmem with rfl | hmem
      · exact hrest ha
      · exact foldl_reaches hstart hstay ha hmem (hstart b)
    · exact hrest (hstay t b ht)

/-- All exchanges in progress are parts of the one on lane `ph` (R74, R78). -/
def oneExchange (s : State) (ph : Phase) (x : Exchange) : Prop :=
  ∀ q y, q ≠ ph → (laneOf s q).exchange = some y → x.joined = true ∧ y.joined = true ∧ y.exch = x.exch

theorem abortedWhole_free {c : AbortCause} {x : Exchange} {l : Lane} (h : armedClear l) (hx : l.exchange = none) :
    abortedWhole c x l = l := by
  have hst : l.state ≠ .armed := fun ha => (h ha).1 hx
  have hnoted : (if x.joined then notedLane x.exch c l else l) = l := by
    split
    · exact notedLane_other fun y hy => absurd (hx.symm.trans hy) nofun
    · rfl
  rw [abortedWhole, hnoted, abortedLane_due hst, hx, Option.map_none, ← hx]

theorem abortedWhole_congr {c : AbortCause} {x y : Exchange} {l : Lane} (hj : y.joined = x.joined)
    (hn : x.joined = true → y.exch = x.exch) : abortedWhole c y l = abortedWhole c x l := by
  unfold abortedWhole
  rw [hj]
  split
  · rw [hn ‹_›]
  · rfl

/-- An aborted lane holds nothing that a preemption test could abort once more (R80). -/
theorem abortedWhole_abortDue {c : AbortCause} {x y : Exchange} {l : Lane} (h : (abortedWhole c x l).exchange = some y) :
    y.abortDue ≠ none := by
  unfold abortedWhole abortedLane at h
  generalize (if x.joined then notedLane x.exch c l else l) = m at h
  split at h
  · rw [(landedLane_kept _).1] at h
    cases h
  · obtain ⟨z, -, rfl⟩ := Option.map_eq_some_iff.1 h
    nofun

theorem preemptionTest_of_abortDue {s : State} {p : Phase}
    (h : ∀ y, (laneOf s p).exchange = some y → y.abortDue ≠ none) : preemptionTest s p = s := by
  cases hy : (laneOf s p).exchange with
  | none => exact preemptionTest_free hy
  | some y =>
    obtain ⟨c, hc⟩ := Option.ne_none_iff_exists'.1 (h y hy)
    rw [preemptionTest_of hy, preemptionPasses, hc]
    simp

section
variable {v : State} {ph : Phase} {x : Exchange}

/-- Wherever the test of the one exchange passes, all its parts are aborted, and nothing else changes on the lanes. -/
theorem abortExchange_one (hclear : ∀ q, armedClear (laneOf v q)) (hx : (laneOf v ph).exchange = some x)
    (hone : oneExchange v ph x) {p : Phase} {y : Exchange} (hy : (laneOf v p).exchange = some y) (q : Phase) :
    laneOf (abortExchange .preempted y p v) q = abortedWhole .preempted x (laneOf v q) := by
  have hsame : y.joined = x.joined ∧ (x.joined = true → y.exch = x.exch) := by
    by_cases hp : p = ph
    · subst hp
      cases hx.symm.trans hy
      exact ⟨rfl, fun _ => rfl⟩
    · obtain ⟨hj, hyj, hn⟩ := hone p y hp hy
      exact ⟨hyj.trans hj.symm, fun _ => hn⟩
  rw [(abortExchange_lanes .preempted y p hclear).2 q, abortedWhole_congr hsame.1 hsame.2]
  split
  · rfl
  · rename_i hr
    cases hz : (laneOf v q).exchange with
    | none => exact (abortedWhole_free (hclear q) hz).symm
    | some z =>
      refine absurd ?_ hr
      unfold abortReaches
      by_cases hj : x.joined = true
      · have hzn : z.exch = y.exch := by
          rw [hsame.2 hj]
          by_cases hq : q = ph
          · subst hq
            cases hx.symm.trans hz
            rfl
          · exact (hone q z hq hz).2.2
        rw [hsame.1, if_pos hj]
        exact holdsExchange_iff.2 ⟨z, hz, hzn⟩
      · have halone : ∀ r z, (laneOf v r).exchange = some z → r = ph := fun r z hz =>
          by_contra fun hr => hj (hone r z hr hz).1
        rw [hsame.1, if_neg hj, halone q z hz, halone p y hy]
        exact beq_self_eq_true ph

/-- The tests of all lanes abort the one exchange where its own lane's test passes (R80, R81). -/
theorem foldl_preemptionTest_one (hclear : ∀ q, armedClear (laneOf v q)) (hx : (laneOf v ph).exchange = some x)
    (hone : oneExchange v ph x) (hpass : preemptionPasses v ph x = true) (q : Phase) :
    laneOf (allPhases.foldl preemptionTest v) q = abortedWhole .preempted x (laneOf v q) := by
  refine foldl_reaches (v := v) (Q := fun t => ∀ q, laneOf t q = abortedWhole .preempted x (laneOf v q)) (fun p => ?_)
    (fun t p ht q => ?_) (a := ph) (fun q => ?_) (mem_allPhases ph) (.inl rfl) q
  · cases hy : (laneOf v p).exchange with
    | none => exact .inl (preemptionTest_free hy)
    | some y =>
      rw [preemptionTest_of hy]
      split
      · exact .inr (abortExchange_one hclear hx hone hy)
      · exact .inl rfl
  · rw [preemptionTest_of_abortDue, ht q]
    intro y hy
    rw [ht p] at hy
    exact abortedWhole_abortDue hy
  · rw [preemptionTest_of hx, if_pos hpass]
    exact abortExchange_one hclear hx hone hx q

/-- Where the one lane's test fails and no other holds an exchange, the tests change nothing. -/
theorem foldl_preemptionTest_fails (hx : (laneOf v ph).exchange = some x) (hpass : preemptionPasses v ph x = false)
    (hone : ∀ q, q ≠ ph → (laneOf v q).exchange = none) : ∀ ps : List Phase, ps.foldl preemptionTest v = v
  | [] => rfl
  | p :: ps => by
    have hp : preemptionTest v p = v := by
      by_cases hq : p = ph
      · rw [hq, preemptionTest_of hx, hpass]
        rfl
      · exact preemptionTest_free (hone p hq)
    rw [List.foldl_cons, hp]
    exact foldl_preemptionTest_fails hx hpass hone ps

end

/-! ### The lanes as an ADJUST leaves them -/

theorem chosenState_exchange (s : State) (ps : List Phase) (q : Phase) :
    (laneOf (chosenState s ps) q).exchange = (laneOf s q).exchange := laneOf_chosenState_exchange s ps q

theorem chosenState_state {s : State} {q : Phase} (h : (laneOf s q).state ≠ .reserved) (ps : List Phase) :
    (laneOf (chosenState s ps) q).state = (laneOf s q).state := by
  rw [laneOf_chosenState]
  split
  · exact chosenLane_state h
  · rfl

/-- The lane of a part of an aborted exchange: released if ARMED, else with the abort due, and noted as whole if joined. -/
theorem abortedWhole_part {c : AbortCause} {x y : Exchange} {l : Lane} (hl : armedClear l) (hy : l.exchange = some y)
    (hsame : x.joined = true → y.joined = true ∧ y.exch = x.exch) :
    (l.state ≠ .armed → (abortedWhole c x l).state = l.state ∧ (abortedWhole c x l).exchange = some { y with
        abortDue := some (y.abortDue.getD c)
        wholeAbort := if x.joined = true then some (y.wholeAbort.getD c) else y.wholeAbort }) ∧
      (l.state = .armed → (abortedWhole c x l).exchange = none ∧
        (abortedWhole c x l).state = if l.pauseDue then .paused else .idle) := by
  unfold abortedWhole
  by_cases hj : x.joined = true
  · obtain ⟨hyj, hyn⟩ := hsame hj
    have hnoted : (notedLane x.exch c l).exchange = some { y with wholeAbort := some (y.wholeAbort.getD c) } := by
      rw [notedLane, hy, Option.map_some, if_pos ⟨hyn, hyj⟩]
    rw [if_pos hj]
    refine ⟨fun hst => ?_, fun hst => ?_⟩
    · rw [abortedLane_due (l := notedLane x.exch c l) hst, hnoted]
      exact ⟨rfl, by rw [if_pos hj]; rfl⟩
    · rw [abortedLane_armed (l := notedLane x.exch c l) hst]
      exact freedLane_landed (l := notedLane x.exch c l) (hl hst).2
  · rw [if_neg hj]
    refine ⟨fun hst => ?_, fun hst => ?_⟩
    · rw [abortedLane_due hst, hy]
      exact ⟨rfl, by rw [if_neg hj]; rfl⟩
    · rw [abortedLane_armed hst]
      exact freedLane_landed (hl hst).2

section
variable {w : State} {ph : Phase} {x : Exchange}

theorem chosenState_passes_iff (hn : (w.records.map Record.serial).Nodup) (hst : (laneOf w ph).state ≠ .reserved) :
    preemptionPasses (chosenState w allPhases) ph x = true ↔ urgentWaits w ph ∧ preemptibleNow w ph x := by
  rw [preemptionPasses_iff (s := chosenState w allPhases) hn, (sameView_chosenState w allPhases).urgentWaits,
    preemptibleNow, chosenState_state hst]
  rfl

/-- The lanes told, with an urgent candidate for the one preemptible exchange: each part is aborted (R80, R81). -/
theorem tell_aborts_one (hquiet : ∀ r ∈ w.records, evaluationEnds w r = false) (hlanes : ∀ q, laneOk (laneOf w q))
    (hn : (w.records.map Record.serial).Nodup) (hx : (laneOf w ph).exchange = some x) (hone : oneExchange w ph x)
    (hwait : urgentWaits w ph) (hpre : preemptibleNow w ph x) {q : Phase} {y : Exchange}
    (hy : (laneOf w q).exchange = some y) :
    ((laneOf w q).state ≠ .armed → (laneOf (tell allPhases w) q).state = (laneOf w q).state ∧
        (laneOf (tell allPhases w) q).exchange = some { y with
          abortDue := some (y.abortDue.getD .preempted)
          wholeAbort := if x.joined = true then some (y.wholeAbort.getD .preempted) else y.wholeAbort }) ∧
      ((laneOf w q).state = .armed → (laneOf (tell allPhases w) q).exchange = none ∧
        (laneOf (tell allPhases w) q).state = if (laneOf w q).pauseDue then .paused else .idle) := by
  have hoccupied : ∀ {p z}, (laneOf w p).exchange = some z → (laneOf w p).state ≠ .reserved := fun {p z} hz hr => by
    have hocc := (hlanes p).1.2 (by rw [hz]; nofun)
    rw [hr] at hocc
    cases hocc
  have hclear : ∀ p, armedClear (laneOf (chosenState w allPhases) p) :=
    chosenState_clear (fun p => (hlanes p).armedClear) allPhases
  have hchosen : laneOf (chosenState w allPhases) q = { laneOf w q with winner := (candidates w q).head? } := by
    rw [laneOf_chosenState, if_pos (mem_allPhases q), chosenLane_unreserved (hoccupied hy)]
  have hone' : oneExchange (chosenState w allPhases) ph x := fun p z hp hz =>
    hone p z hp ((chosenState_exchange w allPhases p).symm.trans hz)
  have hpass := (chosenState_passes_iff (x := x) hn (hoccupied hx)).2 ⟨hwait, hpre⟩
  have htested : laneOf (testedState allPhases w) q = abortedWhole .preempted x (laneOf (chosenState w allPhases) q) :=
    foldl_preemptionTest_one hclear ((chosenState_exchange w allPhases ph).trans hx) hone' hpass q
  have hsame : x.joined = true → y.joined = true ∧ y.exch = x.exch := fun hj => by
    by_cases hq : q = ph
    · subst hq
      cases hx.symm.trans hy
      exact ⟨hj, rfl⟩
    · exact (hone q y hq hy).2
  obtain ⟨hdue, hreleased⟩ := abortedWhole_part (c := .preempted) (x := x) (hclear q)
    ((chosenState_exchange w allPhases q).trans hy) hsame
  rw [← htested, hchosen] at hdue hreleased
  rw [tell_of_quiet hquiet, chooseAndTest_eq (by decide), chosenState_exchange]
  refine ⟨fun hst => ?_, fun hst => ?_⟩
  · obtain ⟨hstate, hexchange⟩ := hdue hst
    exact ⟨(chosenState_state (by rw [hstate]; exact hoccupied hy) _).trans hstate, hexchange⟩
  · obtain ⟨hexchange, hstate⟩ := hreleased hst
    refine ⟨hexchange, (chosenState_state ?_ _).trans hstate⟩
    rw [hstate]
    split <;> nofun

/-- The lanes told, with nothing urgent for the one exchange: it stays as it is. -/
theorem tell_leaves_one (hquiet : ∀ r ∈ w.records, evaluationEnds w r = false) (hlanes : ∀ q, laneOk (laneOf w q))
    (hn : (w.records.map Record.serial).Nodup) (hx : (laneOf w ph).exchange = some x)
    (hno : ¬(urgentWaits w ph ∧ preemptibleNow w ph x)) (hone : ∀ q, q ≠ ph → (laneOf w q).exchange = none) :
    (laneOf (tell allPhases w) ph).exchange = some x ∧ (laneOf (tell allPhases w) ph).state = (laneOf w ph).state := by
  have hst : (laneOf w ph).state ≠ .reserved := fun hr => by
    have hocc := (hlanes ph).1.2 (by rw [hx]; nofun)
    rw [hr] at hocc
    cases hocc
  have hfails : preemptionPasses (chosenState w allPhases) ph x = false :=
    Bool.eq_false_iff.2 fun h => hno ((chosenState_passes_iff hn hst).1 h)
  have htested : testedState allPhases w = chosenState w allPhases :=
    foldl_preemptionTest_fails ((chosenState_exchange w allPhases ph).trans hx) hfails
      (fun q hq => (chosenState_exchange w allPhases q).trans (hone q hq)) allPhases
  have hnone : chosenState (chosenState w allPhases) [] = chosenState w allPhases :=
    (foldl_choosePending List.nodup_nil _).symm
  rw [tell_of_quiet hquiet, chooseAndTest_eq (by decide), htested, usabilityChanged_self, hnone]
  exact ⟨(chosenState_exchange w allPhases ph).trans hx, chosenState_state hst allPhases⟩

end

/-! ### The claim -/

/-- An ADJUST that changes the record (R62): the queue with it put back, and every lane told. -/
theorem exec_adjust_told {tag : Byte} {priority options : Byte} {s : State} {r : Record} (hs : s.queueOk)
    (hroom : s.uli.responses.length < 4) (hr : r ∈ s.records) (hd : isDone r = false)
    (hne : adjusted priority options r ≠ r) :
    ∃ u v d, exec (.adjust tag r.id priority options) s = .next { tell allPhases { s with
        records := s.records.map fun q => if q.id = r.id then adjusted priority options r else q
        uli := u } with uli := v, draws := d } := by
  have hchanged : (adjusted priority options r).priority ≠ r.priority ∨ (adjusted priority options r).enable ≠ r.enable := by
    by_contra hsame
    rw [not_or, not_not, not_not] at hsame
    refine hne ?_
    calc adjusted priority options r = { r with
          priority := (adjusted priority options r).priority, enable := (adjusted priority options r).enable } := rfl
      _ = r := by rw [hsame.1, hsame.2]
  have hmap : (s.records.map fun q => if q.serial = (adjusted priority options r).serial then adjusted priority options r else q) =
      s.records.map fun q => if q.id = r.id then adjusted priority options r else q :=
    List.map_congr_left fun q hq => by
      have hiff : q.serial = r.serial ↔ q.id = r.id :=
        ⟨fun h => by rw [eq_of_serial hs.serialsApart hq hr h], fun h => by rw [eq_of_id hs.idsApart hq hr h]⟩
      show (if q.serial = r.serial then _ else _) = _
      simp only [hiff]
  obtain ⟨u, v, d, hexec, -⟩ := exec_answered (c := .adjust tag r.id priority options) (s := s)
    (r := fun u => tell allPhases { s with
      records := s.records.map fun q => if q.id = r.id then adjusted priority options r else q, uli := u })
    (rq := .adjust r.id priority options) rfl rfl hroom (fun u => by
      have hput := putRecord_quiet (s := { s with uli := u }) (r' := adjusted priority options r) hs.serialsApart hr rfl rfl
      rw [serve, serveAdjust_of (s := { s with uli := u }) hs hr hd, if_pos hchanged, hput, hmap]) fun u =>
    (tell_work allPhases { s with
      records := s.records.map fun q => if q.id = r.id then adjusted priority options r else q, uli := u }).uli
  exact ⟨u, v, d, hexec⟩

/-- Settles O32: the request taken by its lane, and the tests that an ADJUST brings. -/
theorem abortRequestReachesItsExchange : Obligations.AbortRequestReachesItsExchange := by
  refine ⟨fun ph s h => becomes_of_transmit (exec_abortRequest_none h) rfl, fun ph s q hl hq => ?_, ?_⟩
  · have hexec := exec_abortRequest_of hq
    obtain rfl : q.lane = ph := by simpa using List.find?_some hq
    refine ⟨fun hother => becomes_of_transmit (r := requestTaken q s) ?_ rfl, fun x hx hserial => ?_⟩
    · have hignored : takeAbortRequest q (requestTaken q s) = requestTaken q s := takeAbortRequest_ignored hother
      rw [hexec, abortRequestTaken_quiet fun ph => by rw [hignored]; rfl, hignored]
    · have hlanes : ∀ p, armedClear (laneOf s p) := fun p => (hl p).1.armedClear
      have hwork : LaneWork (requestTaken q s) (abortRequestTaken q s) :=
        (takeAbortRequest_work q (requestTaken q s)).trans (tell_work _ _)
      refine ⟨_, hexec, ?_, ?_, ?_, fun hst => ?_, fun hst hstop => ?_⟩
      · exact (transmit_abortRequests _).trans hwork.abortRequests
      · exact (transmit_units _).trans hwork.units
      · exact (transmit_inFlight _).trans hwork.inFlight
      · obtain ⟨hstate, hrecords, y, hy⟩ := abortRequestTaken_due hlanes hst hx hserial
        rw [transmit_laneOf, transmit_records]
        exact ⟨hstate, hrecords, y, hy⟩
      · rw [transmit_laneOf]
        exact abortRequestTaken_armed hlanes hst hstop hx hserial
  · intro tag id priority options s r r' ph x hs hl hroom hr hid hd hr' hne hx s' hquiet hone
    subst hid
    have hadjusted : r' = adjusted priority options r := by
      have henable := adjusted_enable priority options r
      rw [hr', ← henable]
      rfl
    subst hadjusted
    obtain ⟨u, v, d, hexec⟩ := exec_adjust_told (tag := tag) hs hroom hr hd hne
    have hview : SameView s' { s' with uli := u } := ⟨rfl, rfl, rfl, rfl, rfl, rfl, rfl, rfl, fun _ => rfl⟩
    have hserials : (s'.records.map Record.serial).Nodup := by
      have hmap : s'.records.map Record.serial = s.records.map Record.serial := by
        rw [List.map_map]
        refine List.map_congr_left fun q hq => ?_
        show Record.serial (if _ then _ else _) = _
        split
        · rw [eq_of_id hs.idsApart hq hr ‹_›]
          rfl
        · rfl
      rw [hmap]
      exact hs.serialsApart
    have hquiet' : ∀ q ∈ ({ s' with uli := u } : State).records, evaluationEnds { s' with uli := u } q = false := hquiet
    have hlanes : ∀ q, laneOk (laneOf { s' with uli := u } q) := fun q => (hl q).1
    refine ⟨_, hexec, ?_, fun hwait hpre q y hy _ => ?_, fun hno hfree => ?_⟩
    · show (tell allPhases { s' with uli := u }).records = s'.records
      rw [tell_of_quiet hquiet', chooseAndTest_rest (by decide) fun q => (hlanes q).armedClear]
    · exact tell_aborts_one hquiet' hlanes hserials hx hone ((hview.urgentWaits ph).2 hwait) hpre hy
    · exact tell_leaves_one hquiet' hlanes hserials hx
        (fun h => hno ⟨(hview.urgentWaits ph).1 h.1, h.2⟩) hfree

end Sys2Proof.Machine

/-! ## The grant opportunity of a free lane (R70 to R73): O27, O28 -/

namespace Sys2Proof.Machine

open Sys2Proof.Claims

/-! ### Lengths of plans (R95, R97 to R99) -/

theorem bitsPerHalf_eq (w : Nat) (mode : Mode) : bitsPerHalf (dataWindows w) mode = bitsAHalf w mode := by
  cases mode <;> rfl

theorem bitsAHalf_pos {w : Nat} (h : 24 ≤ w) (mode : Mode) : 1 ≤ bitsAHalf w mode := by
  unfold bitsAHalf
  split <;> omega

theorem halfCyclesFor_eq {bits deff : Nat} (h : 1 ≤ deff) : halfCyclesFor bits deff = ceilDiv bits deff := by
  have hmod := Nat.div_add_mod bits deff
  unfold halfCyclesFor ceilDiv
  split
  · rename_i h0
    rw [h0, Nat.add_zero] at hmod
    refine Nat.div_eq_of_lt_le ?_ ?_
    · rw [Nat.add_zero, Nat.mul_comm, hmod]
      omega
    · rw [Nat.add_zero, Nat.succ_mul, Nat.mul_comm, hmod]
      omega
  · have hlt := Nat.mod_lt bits h
    refine Nat.div_eq_of_lt_le ?_ ?_
    · rw [Nat.succ_mul, Nat.mul_comm]
      omega
    · rw [Nat.succ_mul, Nat.succ_mul, Nat.mul_comm]
      omega

theorem ceilDiv_le (bits deff : Nat) : ceilDiv bits deff ≤ bits := by
  unfold ceilDiv
  split
  · exact Nat.div_le_self bits deff
  · rename_i h0
    have hb : bits ≠ 0 := fun h => h0 (by rw [h, Nat.zero_mod])
    have hd : deff ≠ 1 := fun h => h0 (by rw [h, Nat.mod_one])
    rcases Nat.eq_zero_or_pos deff with rfl | hpos
    · rw [Nat.div_zero]
      omega
    · have hhalf : bits / deff ≤ bits / 2 := Nat.div_le_div_left (by omega) (by decide)
      omega

/-- The plan of a unit reached directly (R97, R98). -/
theorem planFor_direct {s : State} {u : Nat} (h : (unitAt s u).route = []) (hw : 24 ≤ s.profile.w) (r : Record) (mode : Mode)
    (lanes : List Phase) :
    planFor s r (.unicast u) mode lanes =
      { kind := .unicast 0
        n := ceilDiv (104 + 8 * r.payload.length) (bitsAHalf s.profile.w mode)
        a := ceilDiv 88 (bitsAHalf s.profile.w mode)
        t := ceilDiv (104 + 8 * r.payload.length) (bitsAHalf s.profile.w mode) +
          ceilDiv 88 (bitsAHalf s.profile.w mode) + 2
        lanes } := by
  have hpos := bitsAHalf_pos hw mode
  have hlen : frameLength r (.unicast u) 0 = 104 + 8 * r.payload.length := rfl
  simp only [planFor, h, List.length_nil, hlen, bitsPerHalf_eq, halfCyclesFor_eq hpos, unicastLength, Nat.zero_add, Nat.one_mul]

/-- The plan of a broadcast part (R97, R99). -/
theorem planFor_part {s : State} (hw : 24 ≤ s.profile.w) (r : Record) (k : Nat) (mode : Mode) (lanes : List Phase) :
    planFor s r (.part k) mode lanes =
      { kind := .broadcast r.windows
        n := ceilDiv (frameLength r (.part k) 0) (bitsAHalf s.profile.w mode)
        a := ceilDiv 88 (bitsAHalf s.profile.w mode)
        t := broadcastLength (ceilDiv (frameLength r (.part k) 0) (bitsAHalf s.profile.w mode))
          (ceilDiv 88 (bitsAHalf s.profile.w mode)) r.windows
        lanes } := by
  have hpos := bitsAHalf_pos hw mode
  simp only [planFor, bitsPerHalf_eq, halfCyclesFor_eq hpos]

/-- Without a deadline every exchange of a short plan fits (R18, R71). -/
theorem fits_of_price {s : State} {ph : Phase} {i : WorkItem} {r : Record} (hr : recordOf s i.serial = some r)
    (hd : r.deadline = 0) (hp : priceOf s ph r i ≤ 65535) : fits s ph 0 i = true := by
  have hrem : halfCyclesRemaining s ph r.deadline = 65535 := if_pos hd
  simp only [fits, hr, hrem, Nat.add_zero, hp, decide_true]

/-! ### The one candidate -/

theorem mem_insertItem {i j : WorkItem} : ∀ js : List WorkItem, j ∈ insertItem i js ↔ j = i ∨ j ∈ js
  | [] => by simp [insertItem]
  | k :: ks => by
    unfold insertItem
    split
    · exact List.mem_cons
    · rw [List.mem_cons, mem_insertItem ks, List.mem_cons]
      tauto

/-- The candidates are the offers, in arbitration order (R69). -/
theorem mem_candidates {s : State} {ph : Phase} {j : WorkItem} : j ∈ candidates s ph ↔ j ∈ offersTo s ph := by
  have hfold : ∀ (is sorted : List WorkItem),
      j ∈ is.foldl (fun sorted i => insertItem i sorted) sorted ↔ j ∈ is ∨ j ∈ sorted := fun is => by
    induction is with
    | nil => simp
    | cons i is ih =>
      intro sorted
      rw [List.foldl_cons, ih, mem_insertItem, List.mem_cons]
      tauto
  rw [candidates, hfold]
  simp

theorem sameItem_self (i : WorkItem) : sameItem i i = true := by simp [sameItem]

theorem offered_of_candidate {s : State} {ph : Phase} {i : WorkItem} (h : i ∈ candidates s ph) :
    (offersTo s ph).any (sameItem i) = true :=
  List.any_eq_true.2 ⟨i, mem_candidates.1 h, sameItem_self i⟩

/-- An idle lane on a trusted phase with one candidate, which passes the walk (R71), while no evaluation is due. -/
structure LoneItem (s : State) (ph : Phase) (i : WorkItem) (r : Record) : Prop where
  lanes : s.lanesOk
  serialsApart : (s.records.map Record.serial).Nodup
  idle : (laneOf s ph).state = .idle
  trusted : phaseTrusted s ph = true
  mem : r ∈ s.records
  serial : i.serial = r.serial
  lone : candidates s ph = [i]
  routed : routeBroken s i = false
  fits : fits s ph 0 i = true
  quiet : ∀ q ∈ s.records, evaluationEnds s q = false

namespace LoneItem

variable {s t : State} {ph : Phase} {i : WorkItem} {r : Record}

theorem recordOf (h : LoneItem s ph i r) : recordOf s i.serial = some r := h.serial ▸ recordOf_eq h.serialsApart h.mem

theorem offered (h : LoneItem s ph i r) : (offersTo s ph).any (sameItem i) = true :=
  offered_of_candidate (h.lone ▸ List.mem_singleton.2 rfl)

theorem competes (h : LoneItem s ph i r) : competes r = true := by
  obtain ⟨q, hq, hserial, hc⟩ := offered_competes h.offered
  rwa [eq_of_serial h.serialsApart hq h.mem (hserial.trans h.serial)] at hc

theorem free (h : LoneItem s ph i r) : (laneOf s ph).exchange = none ∧ (laneOf s ph).reserved = none :=
  ⟨(h.lanes ph).1.exchange_none (by rw [h.idle]; rfl), (h.lanes ph).1.reserved_none (by rw [h.idle]; nofun)⟩

/-- A free lane's pending winner, its deferral count, and the flags raised on the way make no difference. -/
theorem of_lane (h : LoneItem s ph i r) (w : Option WorkItem) (n : Nat) (e : Events) (u : Uli) :
    LoneItem { setLane s ph { laneOf s ph with winner := w, deferral := n } with events := e, uli := u } ph i r := by
  have hlane : ∀ q, laneOf { setLane s ph { laneOf s ph with winner := w, deferral := n } with events := e, uli := u } q =
      if q = ph then { laneOf s ph with winner := w, deferral := n } else laneOf s q := fun q => by
    show laneOf (setLane s ph _) q = _
    split
    · rename_i hq
      rw [hq, laneOf_setLane_self]
    · rename_i hq
      rw [laneOf_setLane_of_ne _ _ hq]
  have hview : SameView s { setLane s ph { laneOf s ph with winner := w, deferral := n } with events := e, uli := u } :=
    ⟨rfl, rfl, rfl, rfl, rfl, rfl, rfl, rfl, fun q => usable_congr (s := s)
      (t := { setLane s ph { laneOf s ph with winner := w, deferral := n } with events := e, uli := u }) rfl rfl (by
        rw [hlane]
        split
        · rename_i hq
          rw [hq]
        · rfl)⟩
  refine ⟨fun q => ?_, h.serialsApart, by rw [hlane, if_pos rfl]; exact h.idle, ?_, h.mem, h.serial,
    (hview.candidates ph).trans h.lone, ?_, (fits_congr hview ph 0 i).trans h.fits, h.quiet⟩
  · rw [hlane]
    split
    · rename_i hq
      exact hq ▸ h.lanes q
    · exact h.lanes q
  · exact (phaseTrusted_congr (s := s) rfl rfl ph).trans h.trusted
  · exact h.routed

end LoneItem

/-! ### The grant (R57, R73, R90) -/

theorem evaluationEnds_congr {s t : State} (h : t.units = s.units) (r : Record) :
    evaluationEnds t r = evaluationEnds s r := by
  have hspent : silentSpent t = silentSpent s := funext fun g => by simp only [silentSpent, unitAt_congr h]
  rw [evaluationEnds, hspent, evaluationEnds]

/-- A record that competes is READY or ACTIVE (R47). -/
theorem state_of_competes {r : Record} (h : competes r = true) : r.state = .ready ∨ r.state = .active := by
  simp only [competes, Bool.and_eq_true, Bool.or_eq_true, beq_iff_eq] at h
  exact h.1.1

/-- A grant only sets markers, so it gives an evaluation nothing to end (R55, R57). -/
theorem evaluationEnds_granted {s : State} {r : Record} (hr : r.state = .ready ∨ r.state = .active)
    (h : evaluationEnds s r = false) (ph : Phase) (i : WorkItem) (units : List Nat) :
    evaluationEnds s (grantedRecord ph i units r) = false := by
  refine Bool.eq_false_iff.2 fun he => Bool.eq_false_iff.1 h ?_
  simp only [evaluationEnds, Bool.and_eq_true, Bool.or_eq_true, beq_iff_eq, List.any_eq_true] at he ⊢
  obtain ⟨⟨-, hstage⟩, g', hg', hspent⟩ := he
  refine ⟨⟨hr, hstage⟩, ?_⟩
  obtain ⟨g, hg, rfl⟩ := List.mem_map.1 hg'
  refine ⟨g, hg, ?_⟩
  split at hspent
  · simp [silentSpent] at hspent
  · exact hspent

/-- What a grant leaves before the other lanes are told. -/
def grantState (ph : Phase) (i : WorkItem) (r : Record) (lanes : List Phase) (mode : Mode) (forced : Bool) (s : State) :
    State :=
  applyGrant ph i (grantTargets s r ph i)
    (occupy ph .sending (exchangeFor s r i (grantTargets s r ph i) lanes mode forced 1)
      { s with nextExchange := s.nextExchange + 1 })

/-- What a grant to a lane leaves once the other lanes have been told. -/
structure LaneGranted (ph : Phase) (i : WorkItem) (r : Record) (lanes : List Phase) (mode : Mode) (forced : Bool)
    (s t : State) : Prop where
  lane : laneOf t ph = { laneOf s ph with
    state := .sending
    reserved := none
    exchange := some (exchangeFor s r i (grantTargets s r ph i) lanes mode forced 1) }
  records : t.records = s.records.map fun q =>
    if q.serial = r.serial then grantedRecord ph i (grantTargets s r ph i) r else q
  inFlight : t.inFlight = s.inFlight ++ (grantTargets s r ph i).filter fun u => !s.inFlight.contains u
  nextExchange : t.nextExchange = s.nextExchange + 1
  lcm : t.lcm = s.lcm
  events : t.events = s.events

section
variable {s : State} {ph : Phase} {i : WorkItem} {r : Record}

theorem isDone_granted (hr : r.state = .ready ∨ r.state = .active) (units : List Nat) :
    isDone (grantedRecord ph i units r) = isDone r := by
  have hstate : (grantedRecord ph i units r).state = .active := by
    show (if r.state = .ready then _ else r.state) = _
    rcases hr with h | h <;> rw [h] <;> rfl
  rcases hr with h | h <;> simp [isDone, hstate, h]

theorem grantState_eq (hn : (s.records.map Record.serial).Nodup) (hr : r ∈ s.records) (hi : i.serial = r.serial)
    (hst : r.state = .ready ∨ r.state = .active) (lanes : List Phase) (mode : Mode) (forced : Bool) :
    grantState ph i r lanes mode forced s = { s with
      nextExchange := s.nextExchange + 1
      lanes := putPhase s.lanes ph { laneOf s ph with
        state := .sending
        reserved := none
        exchange := some (exchangeFor s r i (grantTargets s r ph i) lanes mode forced 1) }
      records := s.records.map fun q => if q.serial = r.serial then grantedRecord ph i (grantTargets s r ph i) r else q
      inFlight := s.inFlight ++ (grantTargets s r ph i).filter fun u => !s.inFlight.contains u } := by
  have hrec : recordOf (occupy ph .sending (exchangeFor s r i (grantTargets s r ph i) lanes mode forced 1)
      { s with nextExchange := s.nextExchange + 1 }) i.serial = some r := hi ▸ recordOf_eq (s := s) hn hr
  have hput := putRecord_quiet (s := occupy ph .sending (exchangeFor s r i (grantTargets s r ph i) lanes mode forced 1)
      { s with nextExchange := s.nextExchange + 1 }) (r' := grantedRecord ph i (grantTargets s r ph i) r) hn hr rfl
      (isDone_granted hst _)
  rw [grantState, applyGrant_some hrec, hput]
  rfl

theorem mem_otherLanes {p ph : Phase} : p ∈ otherLanes ph ↔ p ≠ ph := by
  simp [otherLanes, mem_allPhases]

theorem otherLanes_nodup (ph : Phase) : (otherLanes ph).Nodup := List.Nodup.filter _ (by decide)

/-- The other lanes told of a grant leave the granted lane and the queue as they are: the new exchange has a number of its
own (log 18), and a grant gives an evaluation nothing to end. -/
theorem tell_grantState (hl : s.lanesOk) (hn : (s.records.map Record.serial).Nodup) (hr : r ∈ s.records)
    (hi : i.serial = r.serial) (hst : r.state = .ready ∨ r.state = .active)
    (hquiet : ∀ q ∈ s.records, evaluationEnds s q = false) (lanes : List Phase) (mode : Mode) (forced : Bool) :
    LaneGranted ph i r lanes mode forced s (tell (otherLanes ph) (grantState ph i r lanes mode forced s)) := by
  have hg := grantState_eq (ph := ph) hn hr hi hst lanes mode forced
  generalize grantState ph i r lanes mode forced s = g at hg
  have hlane : ∀ p, laneOf g p = if p = ph then { laneOf s ph with
      state := .sending
      reserved := none
      exchange := some (exchangeFor s r i (grantTargets s r ph i) lanes mode forced 1) } else laneOf s p := fun p => by
    rw [hg]
    show atPhase (putPhase _ _ _) p = _
    split
    · rename_i hp
      rw [hp, atPhase_putPhase_self]
    · rename_i hp
      rw [atPhase_putPhase_of_ne _ _ hp]
      rfl
  have hmine := (hlane ph).trans (if_pos rfl)
  have hgquiet : ∀ q ∈ g.records, evaluationEnds g q = false := fun q hq => by
    rw [evaluationEnds_congr (s := s) (by rw [hg])]
    rw [hg] at hq
    obtain ⟨p, hp, rfl⟩ := List.mem_map.1 hq
    split
    · exact evaluationEnds_granted hst (hquiet r hr) ph i _
    · exact hquiet p hp
  have hclear : ∀ p, armedClear (laneOf g p) := fun p => by
    rw [hlane]
    split
    · exact fun ha => absurd ha nofun
    · exact (hl p).1.armedClear
  have hrest := chooseAndTest_rest (otherLanes_nodup ph) hclear
  have hkept := chooseAndTest_kept (otherLanes_nodup ph) hclear (q := ph) (by rw [hmine]) fun p hp y hy => by
    rw [hlane, if_neg (mem_otherLanes.1 hp)] at hy
    exact Nat.ne_of_lt ((hl p).2 y hy)
  rw [tell_of_quiet hgquiet]
  refine ⟨hkept.trans hmine, ?_, ?_, ?_, ?_, ?_⟩ <;> rw [hrest, hg]

end

/-- A per-lane grant of the one candidate (R73). -/
theorem LoneItem.grantOnLane {s : State} {ph : Phase} {i : WorkItem} {r : Record} (h : LoneItem s ph i r) (forced : Bool) :
    LaneGranted ph i r [] (lcmOf s ph).mode forced s (grantOnLane ph i forced s) := by
  have heq : Machine.grantOnLane ph i forced s =
      tell (otherLanes ph) (grantState ph i r [] (lcmOf s ph).mode forced s) := by
    simp only [Machine.grantOnLane, h.offered, ↓reduceIte, h.recordOf]
    rfl
  rw [heq]
  exact tell_grantState h.lanes h.serialsApart h.mem h.serial (state_of_competes h.competes) h.quiet _ _ _

/-! ### The walk and the carrier test (R71, R72) -/

theorem walkCandidates_one {s : State} {ph : Phase} {i : WorkItem} (hroute : routeBroken s i = false)
    (hfits : fits s ph 0 i = true) : walkCandidates ph [i] s = (s, some i, false) := by
  unfold walkCandidates
  split
  · simp only [hroute, hfits, Bool.false_eq_true, ↓reduceIte]
  · simp only [hfits, ↓reduceIte]

/-- A free lane meets its opportunity with the one candidate in hand (R71). -/
theorem LoneItem.opportunity {s : State} {ph : Phase} {i : WorkItem} {r : Record} (h : LoneItem s ph i r) (v : Verdict) :
    opportunity ph v s = carrierTest ph v i s := by
  have hres : reservedFor s i ph = false := by
    unfold reservedFor
    rw [h.idle]
    rfl
  simp only [Machine.opportunity, h.lone, walkCandidates_one h.routed h.fits, Bool.false_eq_true, ↓reduceIte, hres]

theorem tell_one_free {s : State} {ph : Phase} (hquiet : ∀ q ∈ s.records, evaluationEnds s q = false)
    (hx : (laneOf s ph).exchange = none) : tell [ph] s = choosePending s ph := by
  have htest : preemptionTest (choosePending s ph) ph = choosePending s ph :=
    preemptionTest_free (by rw [choosePending_eq, laneOf_setLane_self]; exact hx)
  rw [tell_of_quiet hquiet]
  show (usabilityChanged (choosePending s ph) (preemptionTest (choosePending s ph) ph)).foldl choosePending
    (preemptionTest (choosePending s ph) ph) = _
  rw [htest, usabilityChanged_self, List.foldl_nil]

/-- The lane with the one candidate as its pending winner. -/
theorem LoneItem.chosen {s : State} {ph : Phase} {i : WorkItem} {r : Record} (h : LoneItem s ph i r) :
    LoneItem (choosePending s ph) ph i r := by
  rw [choosePending_eq, chosenLane_unreserved (by rw [h.idle]; nofun)]
  exact h.of_lane (candidates s ph).head? (laneOf s ph).deferral s.events s.uli

/-- An idle lane at its boundary: it chooses, and meets its opportunity (R69, R70). -/
theorem LoneItem.laneBoundary {s : State} {ph : Phase} {i : WorkItem} {r : Record} (h : LoneItem s ph i r)
    (ended : EndedHalf) {v : Verdict} (hv : v ≠ .none) (o : ReportOrder) :
    laneBoundary ph ended v o s = carrierTest ph v i (choosePending s ph) := by
  have hadvance : laneAdvance ph ended o s = s := by
    unfold laneAdvance
    rw [h.idle]
  have hopp : isOpportunity (choosePending s ph) ph v = true := by
    have hne : (v != .none) = true := bne_iff_ne.2 hv
    rw [isOpportunity, h.chosen.idle, h.chosen.trusted, hne]
    rfl
  have hasked : ¬((laneOf s ph).state = .stopped ∧ (laneOf s ph).state ≠ .stopped) := fun ⟨h1, h2⟩ => h2 h1
  simp only [Machine.laneBoundary, hadvance, if_neg hasked, tell_one_free h.quiet h.free.1, hopp, ↓reduceIte]
  exact h.chosen.opportunity v

/-! ### The boundary around the lane's work (R12, R130 to R136) -/

/-- The state in which a lane does its work at a boundary: the grid has moved on, and the monitor may have acted (R136). -/
def boundaryStart (ph : Phase) (mf : Bool) (s : State) : State :=
  let s1 := setPtu s ph (nextHalf s.profile.w (ptuOf s ph))
  if mf then measure ph (endedHalf (ptuOf s ph)) s1 else s1

/-- What follows the lane's work: the monitor, if it has not acted, and the start state (R130, R136). -/
def boundaryEnd (ph : Phase) (mf : Bool) (ended : EndedHalf) (s : State) : State :=
  reportStart ph (if mf then s else measure ph ended s)

theorem takeBoundary_eq (ph : Phase) (mf : Bool) (o : ReportOrder) (s : State) :
    takeBoundary ph mf o s = boundaryEnd ph mf (endedHalf (ptuOf s ph))
      (laneBoundary ph (endedHalf (ptuOf s ph)) (verdictOn (lcmOf s ph) (endedHalf (ptuOf s ph))) o (boundaryStart ph mf s)) := by
  cases mf <;> rfl

theorem measure_frame (ph : Phase) (ended : EndedHalf) (s : State) :
    measure ph ended s = { s with
      lcm := (measure ph ended s).lcm, events := (measure ph ended s).events, uli := (measure ph ended s).uli } := by
  unfold measure
  dsimp only
  rw [raiseIf_frame, raiseIf_frame]
  rfl

theorem measure_lineBusy (ph : Phase) (ended : EndedHalf) (s : State) :
    flagSet (measure ph ended s) .lineBusy = flagSet s .lineBusy :=
  (flagSet_raiseIf_of_ne _ _ (by decide)).trans (flagSet_raiseIf_of_ne _ _ (by decide))

theorem boundaryStart_frame (ph : Phase) (mf : Bool) (s : State) :
    boundaryStart ph mf s = { s with
      ptu := putPhase s.ptu ph (nextHalf s.profile.w (ptuOf s ph))
      lcm := (boundaryStart ph mf s).lcm
      events := (boundaryStart ph mf s).events
      uli := (boundaryStart ph mf s).uli } := by
  cases mf with
  | false => rfl
  | true => exact measure_frame ph (endedHalf (ptuOf s ph)) (setPtu s ph (nextHalf s.profile.w (ptuOf s ph)))

theorem boundaryStart_lineBusy (ph : Phase) (mf : Bool) (s : State) :
    flagSet (boundaryStart ph mf s) .lineBusy = flagSet s .lineBusy := by
  cases mf with
  | false => rfl
  | true => exact measure_lineBusy ph _ (setPtu s ph (nextHalf s.profile.w (ptuOf s ph)))

theorem boundaryEnd_frame (ph : Phase) (mf : Bool) (ended : EndedHalf) (s : State) :
    boundaryEnd ph mf ended s = { s with
      lcm := (boundaryEnd ph mf ended s).lcm
      events := (boundaryEnd ph mf ended s).events
      uli := (boundaryEnd ph mf ended s).uli } := by
  cases mf with
  | true => rfl
  | false =>
    exact congrArg (fun m => { m with lcm := (boundaryEnd ph false ended s).lcm }) (measure_frame ph ended s)

theorem boundaryEnd_lineBusy (ph : Phase) (mf : Bool) (ended : EndedHalf) (s : State) :
    flagSet (boundaryEnd ph mf ended s) .lineBusy = flagSet s .lineBusy := by
  cases mf with
  | true => rfl
  | false => exact measure_lineBusy ph ended s

/-- The monitor's mode as the lane finds it is the one that a grant latches (R101, R136). -/
theorem latchedMode_boundary {ph : Phase} {mf : Bool} {s t : State} (ended : EndedHalf)
    (h : t.lcm = (boundaryStart ph mf s).lcm) :
    latchedMode s (transmit (boundaryEnd ph mf ended t)) ph mf = (lcmOf (boundaryStart ph mf s) ph).mode := by
  cases mf with
  | false => rfl
  | true =>
    show (lcmOf (transmit (reportStart ph t)) ph).mode = _
    obtain ⟨gap, hgap⟩ := reportStart_lcm ph t
    rw [transmit_lcmOf, hgap]
    show (lcmOf t ph).mode = _
    rw [lcmOf_of_lcm h]

theorem nextHalf_timing (w : Nat) (u : Ptu) : (nextHalf w u).timing = u.timing := by
  unfold nextHalf
  split
  · split <;> rfl
  · rfl

theorem usable_boundaryStart {ph : Phase} {s : State} (h : (ptuOf s ph).timing = .locked) (mf : Bool) (q : Phase) :
    usable (boundaryStart ph mf s) q = usable s q := by
  rw [boundaryStart_frame]
  exact usable_setPtu_locked h ((nextHalf_timing _ _).trans h) q

/-! ### A boundary with one candidate -/

theorem planFor_congr {s t : State} (hu : t.units = s.units) (hp : t.profile = s.profile) (r : Record) (w : Work)
    (mode : Mode) (lanes : List Phase) : planFor t r w mode lanes = planFor s r w mode lanes := by
  cases w <;> simp only [planFor, unitAt_congr hu, hp]

theorem exchangeFor_congr {s t : State} (hn : t.nextExchange = s.nextExchange) (hu : t.units = s.units)
    (hp : t.profile = s.profile) (r : Record) (i : WorkItem) (units : List Nat) (lanes : List Phase) (mode : Mode)
    (forced : Bool) (n : Nat) : exchangeFor t r i units lanes mode forced n = exchangeFor s r i units lanes mode forced n := by
  have hrelays : relayAddresses t i.work = relayAddresses s i.work := by
    cases i.work <;> simp only [relayAddresses, unitAt_congr hu]
  have haddress : targetAddress t i.work = targetAddress s i.work := by
    cases i.work <;> simp only [targetAddress, unitAt_congr hu]
  have hboost : boostFor t r i.work mode forced = boostFor s r i.work mode forced := by
    cases i.work <;> simp only [boostFor, unitAt_congr hu, hp]
  simp only [exchangeFor, hrelays, haddress, hboost, planFor_congr hu hp, hn, unitAt_congr hu]

theorem grantTargets_congr {s t : State} (hu : t.units = s.units) (hf : t.inFlight = s.inFlight) (r : Record) (ph : Phase)
    (i : WorkItem) : grantTargets t r ph i = grantTargets s r ph i := by
  simp only [grantTargets, pendingDirect, isDirect, unitAt_congr hu, hf]

/-- A boundary that ends a quiet half-cycle of an idle lane with one candidate, which fits and needs no relay. -/
structure LoneBoundary (s : State) (ph : Phase) (h : HalfCycle) (cyc : Cycle) (i : WorkItem) (r : Record) : Prop where
  ready : boundaryReady s ph h cyc
  locked : (ptuOf s ph).timing = .locked
  idle : (laneOf s ph).state = .idle
  start : (lcmOf s ph).start = some { state := .idle, gap := false }
  lanes : s.lanesOk
  queue : s.queueOk
  mem : r ∈ s.records
  serial : i.serial = r.serial
  deadline : r.deadline = 0
  direct : ∀ u, i.work = .unicast u → (unitAt s u).route = []
  short : ∀ mode, (planFor s r i.work mode []).t ≤ 65535
  lone : candidates s ph = [i]
  quiet : ∀ q ∈ s.records, evaluationEnds s q = false

theorem routeBroken_direct {s : State} {i : WorkItem} (h : ∀ u, i.work = .unicast u → (unitAt s u).route = []) :
    routeBroken s i = false := by
  unfold routeBroken
  split
  · rfl
  · rename_i u hu
    rw [h u hu]
    rfl

namespace LoneBoundary

variable {s : State} {ph : Phase} {h : HalfCycle} {cyc : Cycle} {i : WorkItem} {r : Record}

theorem loneItem (hb : LoneBoundary s ph h cyc i r) (mf : Bool) : LoneItem (boundaryStart ph mf s) ph i r := by
  have hframe := boundaryStart_frame ph mf s
  have husable := usable_boundaryStart hb.locked mf
  generalize boundaryStart ph mf s = b at hframe husable
  have hnow : b.now = s.now := by rw [hframe]
  have hunits : b.units = s.units := by rw [hframe]
  have hprofile : b.profile = s.profile := by rw [hframe]
  have hrecords : b.records = s.records := by rw [hframe]
  have hinFlight : b.inFlight = s.inFlight := by rw [hframe]
  have hlane : ∀ q, laneOf b q = laneOf s q := fun q => by
    rw [hframe]
    rfl
  have hserials : (b.records.map Record.serial).Nodup := hrecords ▸ hb.queue.serialsApart
  have hmem : r ∈ b.records := hrecords ▸ hb.mem
  have hrec : recordOf b i.serial = some r := hb.serial ▸ recordOf_eq hserials hmem
  refine ⟨fun q => ?_, hserials, (congrArg Lane.state (hlane ph)).trans hb.idle, ?_, hmem, hb.serial, ?_, ?_, ?_, fun q hq => ?_⟩
  · rw [hlane, hframe]
    exact hb.lanes q
  · have hptu : (ptuOf b ph).timing = .locked := by
      rw [hframe]
      exact (congrArg Ptu.timing (atPhase_putPhase_self ..)).trans ((nextHalf_timing _ _).trans hb.locked)
    rw [phaseTrusted, hptu]
  · exact (candidates_congr hnow hunits hrecords hinFlight (husable ph)).trans hb.lone
  · exact routeBroken_direct fun u hu => (congrArg Entry.route (unitAt_congr hunits u)).trans (hb.direct u hu)
  · refine fits_of_price hrec hb.deadline ?_
    rw [priceOf, planFor_congr hunits hprofile]
    exact hb.short _
  · rw [evaluationEnds_congr hunits]
    exact hb.quiet q (hrecords ▸ hq)

theorem verdict (hb : LoneBoundary s ph h cyc i r) :
    verdictOn (lcmOf s ph) (endedHalf (ptuOf s ph)) = if busy h ≤ (h.w - 2) / 8 then .clear else .notClear := by
  obtain ⟨-, hh, -⟩ := hb.ready
  have hended : endedHalf (ptuOf s ph) = { samples := h.samples, w := h.w, time := h.start + h.length } := by
    simp only [endedHalf, hh]
  rw [hended, verdictOn, hb.start]
  rfl

/-- The boundary taken: the lane passes its carrier test on its one candidate (R70 to R72). -/
theorem exec (hb : LoneBoundary s ph h cyc i r) (mf : Bool) (o : ReportOrder) :
    Machine.exec (.halfCycleBoundary ph mf o) s = .next (transmit (boundaryEnd ph mf (endedHalf (ptuOf s ph))
      (carrierTest ph (if busy h ≤ (h.w - 2) / 8 then .clear else .notClear) i
        (choosePending (boundaryStart ph mf s) ph)))) := by
  have hv : verdictOn (lcmOf s ph) (endedHalf (ptuOf s ph)) ≠ .none := by
    rw [hb.verdict]
    split <;> nofun
  rw [exec_halfCycleBoundary_due (boundaryDue_of_ready hb.ready), takeBoundary_eq, (hb.loneItem mf).laneBoundary _ hv o,
    hb.verdict]

end LoneBoundary

/-! ### The direct unicast -/

/-- A lane that acts on its choice counts no deferral (R72). -/
def undeferred (ph : Phase) (s : State) : State := setLane s ph { laneOf s ph with deferral := 0 }

theorem LoneItem.undeferred {s : State} {ph : Phase} {i : WorkItem} {r : Record} (h : LoneItem s ph i r) :
    LoneItem (undeferred ph s) ph i r := h.of_lane (laneOf s ph).winner 0 s.events s.uli

theorem LoneItem.raised {s : State} {ph : Phase} {i : WorkItem} {r : Record} (h : LoneItem s ph i r) (f : Flag) :
    LoneItem (raise f s) ph i r := by
  have hlane := h.of_lane (laneOf s ph).winner (laneOf s ph).deferral (raise f s).events (raise f s).uli
  have hsame : setLane s ph { laneOf s ph with winner := (laneOf s ph).winner, deferral := (laneOf s ph).deferral } = s := by
    show { s with lanes := putPhase s.lanes ph (atPhase s.lanes ph) } = s
    rw [putPhase_atPhase_self]
  rw [hsame] at hlane
  rwa [raise_frame]

/-- What the lane's own work up to a grant keeps of the state in which the boundary finds it. -/
structure BoundaryKept (ph : Phase) (mf : Bool) (s t : State) : Prop where
  profile : t.profile = s.profile
  units : t.units = s.units
  records : t.records = s.records
  inFlight : t.inFlight = s.inFlight
  nextExchange : t.nextExchange = s.nextExchange
  lcm : t.lcm = (boundaryStart ph mf s).lcm

theorem boundaryKept_chosen (ph : Phase) (mf : Bool) (s : State) :
    BoundaryKept ph mf s (choosePending (boundaryStart ph mf s) ph) := by
  have hstart : BoundaryKept ph mf s (boundaryStart ph mf s) := by
    refine ⟨?_, ?_, ?_, ?_, ?_, rfl⟩ <;> rw [boundaryStart_frame]
  rw [choosePending_eq]
  exact ⟨hstart.profile, hstart.units, hstart.records, hstart.inFlight, hstart.nextExchange, hstart.lcm⟩

theorem BoundaryKept.undeferred {ph : Phase} {mf : Bool} {s t : State} (h : BoundaryKept ph mf s t) :
    BoundaryKept ph mf s (undeferred ph t) := ⟨h.profile, h.units, h.records, h.inFlight, h.nextExchange, h.lcm⟩

theorem BoundaryKept.raised {ph : Phase} {mf : Bool} {s t : State} (h : BoundaryKept ph mf s t) (f : Flag) :
    BoundaryKept ph mf s (raise f t) := by
  rw [raise_frame]
  exact ⟨h.profile, h.units, h.records, h.inFlight, h.nextExchange, h.lcm⟩

/-- The unicast item of a record's target. -/
def unicastItem (r : Record) (u : Nat) : WorkItem :=
  { serial := r.serial, work := .unicast u, joined := false, priority := r.priority }

theorem boostFor_unicast_iff (s : State) (r : Record) (u : Nat) (mode : Mode) (forced : Bool) :
    boostFor s r (.unicast u) mode forced = true ↔
      forced = true ∨ (∀ v, (unitAt s u).quality = some v → v < s.profile.boost) ∨
        ∃ g ∈ r.targets, g.unit = u ∧ g.attempts + 1 = r.budget := by
  cases hq : (unitAt s u).quality <;> simp [boostFor, hq]

section
variable {s : State} {ph : Phase} {h : HalfCycle} {cyc : Cycle} {r : Record} {u : Nat} {mf : Bool}

theorem loneBoundary_unicast (hl : loneUnicast s ph h cyc r u false) : LoneBoundary s ph h cyc (unicastItem r u) r := by
  obtain ⟨hready, hlocked, hidle, hstart, hlanes, hqueue, hprofile, hmem, hdeadline, hpayload, hroute, hlone, hquiet⟩ := hl
  refine ⟨hready, hlocked, hidle, hstart, hlanes, hqueue, hmem, rfl, hdeadline, fun v hv => ?_, fun mode => ?_, hlone,
    hquiet⟩
  · cases hv
    exact hroute
  · have hplan := planFor_direct hroute hprofile.1.1 r mode []
    have hn := ceilDiv_le (104 + 8 * r.payload.length) (bitsAHalf s.profile.w mode)
    have ha := ceilDiv_le 88 (bitsAHalf s.profile.w mode)
    show (planFor s r (.unicast u) mode []).t ≤ 65535
    rw [hplan]
    show _ + _ + 2 ≤ 65535
    omega

/-- A granted unicast in the claim's words (R57, R90, R97, R98, R102). -/
theorem unicastGranted_of {c t : State} {forced : Bool} (hkept : BoundaryKept ph mf s c) (hmem : r ∈ s.records)
    (hst : r.state = .ready ∨ r.state = .active) (hw : 24 ≤ s.profile.w) (hroute : (unitAt s u).route = [])
    (hdeferral : (laneOf c ph).deferral = 0)
    (hg : LaneGranted ph (unicastItem r u) r [] (lcmOf c ph).mode forced c t) (ended : EndedHalf) :
    unicastGranted s (transmit (boundaryEnd ph mf ended t)) ph mf r u forced := by
  have hmode := latchedMode_boundary (mf := mf) ended (hg.lcm.trans hkept.lcm)
  have hcmode : (lcmOf c ph).mode = latchedMode s (transmit (boundaryEnd ph mf ended t)) ph mf := by
    rw [hmode, lcmOf_of_lcm hkept.lcm]
  have hframe := boundaryEnd_frame ph mf ended t
  have hlane : laneOf (transmit (boundaryEnd ph mf ended t)) ph = laneOf t ph := by
    rw [transmit_laneOf, hframe]
    rfl
  have hx : (laneOf t ph).exchange = some (exchangeFor s r (unicastItem r u) [u] []
      (latchedMode s (transmit (boundaryEnd ph mf ended t)) ph mf) forced 1) := by
    rw [hg.lane, hcmode, exchangeFor_congr hkept.nextExchange hkept.units hkept.profile]
    rfl
  have hplan := planFor_direct hroute hw r (latchedMode s (transmit (boundaryEnd ph mf ended t)) ph mf) []
  unfold unicastGranted
  rw [hlane, hx]
  refine ⟨by rw [hg.lane], by rw [hg.lane]; exact hdeferral, ?_, ?_, ?_, _, rfl, rfl, rfl, rfl, rfl, rfl, rfl, rfl, rfl, rfl,
    rfl, rfl, rfl, rfl, rfl, rfl, ?_, ?_, ?_, ?_, ?_, ?_, ?_⟩
  · have hin : (transmit (boundaryEnd ph mf ended t)).inFlight = s.inFlight ++ [u].filter fun u => !s.inFlight.contains u := by
      rw [transmit_inFlight, hframe, ← hkept.inFlight]
      exact hg.inFlight
    rw [hin, List.mem_append]
    by_cases hu : u ∈ s.inFlight
    · exact .inl hu
    · exact .inr (List.mem_filter.2 ⟨List.mem_singleton.2 rfl, by simpa using hu⟩)
  · rw [transmit_nextExchange, hframe, ← hkept.nextExchange]
    exact hg.nextExchange
  · refine ⟨grantedRecord ph (unicastItem r u) [u] r, ?_, rfl, ?_, rfl, fun g hgm hgu => ?_⟩
    · have hrecords : (transmit (boundaryEnd ph mf ended t)).records =
          s.records.map fun q => if q.serial = r.serial then grantedRecord ph (unicastItem r u) [u] r else q := by
        rw [transmit_records, hframe, ← hkept.records]
        exact hg.records
      rw [hrecords]
      exact List.mem_map.2 ⟨r, hmem, if_pos rfl⟩
    · show (if r.state = .ready then _ else r.state) = _
      rcases hst with h | h <;> rw [h] <;> rfl
    · obtain ⟨g0, -, rfl⟩ := List.mem_map.1 hgm
      split
      · rfl
      · rename_i hn
        have hu0 : g0.unit = u := by rwa [if_neg hn] at hgu
        exact absurd (by rw [hu0]; simp) hn
  · exact congrArg Plan.kind hplan
  · exact congrArg Plan.lanes hplan
  · exact congrArg Plan.n hplan
  · exact congrArg Plan.a hplan
  · exact (congrArg Plan.t hplan).trans (congrArg (fun p => Plan.n p + Plan.a p + 2) hplan).symm
  · have hrelays : relayAddresses s (.unicast u) = [] := by
      show (unitAt s u).route.map _ = []
      rw [hroute, List.map_nil]
    exact congrArg (fun relays => lineFrame r (.unicast u) (((unitAt s u).address).getD 0) relays
      (latchedMode s (transmit (boundaryEnd ph mf ended t)) ph mf)) hrelays
  · exact boostFor_unicast_iff s r u (latchedMode s (transmit (boundaryEnd ph mf ended t)) ph mf) forced

/-- The lane acts on its one direct unicast (R72, R73). -/
theorem actOn_unicast {c : State} (hc : LoneItem c ph (unicastItem r u) r) (forced : Bool) :
    LaneGranted ph (unicastItem r u) r [] (lcmOf c ph).mode forced (undeferred ph c)
      (actOn ph (unicastItem r u) forced c) :=
  hc.undeferred.grantOnLane forced

end

/-- Settles O27: the carrier test passes, and the lane grants. -/
theorem clearLineGrantsUnicast : Obligations.ClearLineGrantsUnicast := by
  intro ph mf o s h cyc r u hl hclear
  have hb := loneBoundary_unicast hl
  have hitem := (hb.loneItem mf).chosen
  obtain ⟨-, -, -, -, -, -, hprofile, -, -, -, hroute, -⟩ := hl
  have hexec := hb.exec mf o
  rw [if_pos hclear] at hexec
  exact ⟨_, hexec, unicastGranted_of (boundaryKept_chosen ph mf s).undeferred hb.mem (state_of_competes hitem.competes)
    hprofile.1.1 hroute (by rw [undeferred, laneOf_setLane_self]) (actOn_unicast hitem false) _⟩

theorem carrierTest_below {s : State} {ph : Phase} {i : WorkItem} (h : (laneOf s ph).deferral + 1 < s.profile.deferral) :
    carrierTest ph .notClear i s = setLane s ph { laneOf s ph with deferral := (laneOf s ph).deferral + 1 } := if_pos h

theorem carrierTest_limit {s : State} {ph : Phase} {i : WorkItem} (h : ¬(laneOf s ph).deferral + 1 < s.profile.deferral) :
    carrierTest ph .notClear i s = actOn ph i true (raise .lineBusy s) := if_neg h

/-- A free lane comes to its opportunity with nothing changed but its pending winner. -/
theorem chosenStart_lane {s : State} {ph : Phase} (h : (laneOf s ph).state = .idle) (mf : Bool) :
    ∃ w, laneOf (choosePending (boundaryStart ph mf s) ph) ph = { laneOf s ph with winner := w } := by
  have hlane : laneOf (boundaryStart ph mf s) ph = laneOf s ph := by
    rw [boundaryStart_frame]
    rfl
  rw [choosePending_eq, laneOf_setLane_self, hlane, chosenLane_unreserved (by rw [h]; nofun)]
  exact ⟨_, rfl⟩

/-- Settles O28: below the limit the count goes up, and at the limit the lane grants all the same. -/
theorem busyLineDefersThenForces : Obligations.BusyLineDefersThenForces := by
  intro ph mf o s h cyc r u hl hbusy
  have hb := loneBoundary_unicast hl
  have hitem := (hb.loneItem mf).chosen
  have hkept := boundaryKept_chosen ph mf s
  obtain ⟨-, -, -, -, -, -, hprofile, -, -, -, hroute, -⟩ := hl
  have hexec := hb.exec mf o
  rw [if_neg (Nat.not_le.2 hbusy)] at hexec
  obtain ⟨w, hlane⟩ := chosenStart_lane hb.idle mf
  have hcount : (laneOf (choosePending (boundaryStart ph mf s) ph) ph).deferral = (laneOf s ph).deferral := by rw [hlane]
  refine ⟨_, hexec, fun hbelow => ?_, fun hlimit => ?_⟩
  · rw [carrierTest_below (by rwa [hcount, hkept.profile]), hcount, hlane]
    generalize hd : setLane (choosePending (boundaryStart ph mf s) ph) ph
      { laneOf s ph with winner := w, deferral := (laneOf s ph).deferral + 1 } = d
    have hframe := boundaryEnd_frame ph mf (endedHalf (ptuOf s ph)) d
    have hdlane : laneOf d ph = { laneOf s ph with winner := w, deferral := (laneOf s ph).deferral + 1 } := by
      rw [← hd, laneOf_setLane_self]
    have htlane : laneOf (transmit (boundaryEnd ph mf (endedHalf (ptuOf s ph)) d)) ph = laneOf d ph := by
      rw [transmit_laneOf, hframe]
      rfl
    rw [htlane, hdlane]
    refine ⟨hb.idle, (hb.lanes ph).1.exchange_none (by rw [hb.idle]; rfl), rfl, ?_, ?_, ?_⟩
    · rw [transmit_records, hframe, ← hkept.records, ← hd]
      rfl
    · rw [transmit_inFlight, hframe, ← hkept.inFlight, ← hd]
      rfl
    · rw [transmit_flagSet, boundaryEnd_lineBusy, ← boundaryStart_lineBusy ph mf s, ← hd, choosePending_eq]
      rfl
  · rw [carrierTest_limit (by rw [hcount, hkept.profile]; exact Nat.not_lt.2 hlimit)]
    have hgrant := actOn_unicast (hitem.raised .lineBusy) true
    refine ⟨unicastGranted_of (hkept.raised .lineBusy).undeferred hb.mem (state_of_competes hitem.competes) hprofile.1.1
      hroute (by rw [undeferred, laneOf_setLane_self]) hgrant _, ?_⟩
    rw [transmit_flagSet, boundaryEnd_lineBusy, flagSet, hgrant.events]
    exact flagSet_raise_self .lineBusy _


end Sys2Proof.Machine

/-! ## Broadcast rounds laid out, run and settled (R51 to R54)

What `settleRounds` does to a record is said once by the standing of the round's parts: a round with a part that has not
ended stays, and a round whose last part has ended is followed by the next one or by the end of the stage. -/

namespace Sys2Proof.Machine

open Sys2Proof.Claims

/-! ### Choosing again leaves the rounds alone -/

/-- A target that no evaluation ends unless it has been tried (R55). -/
structure TargetUntried (g g' : Target) : Prop extends TargetRests g g' where
  untried : g.attempts = 0 → g'.outcome = g.outcome

theorem TargetUntried.refl (g : Target) : TargetUntried g g := ⟨.refl g, fun _ => rfl⟩

theorem TargetUntried.trans {a b c : Target} (h : TargetUntried a b) (k : TargetUntried b c) : TargetUntried a c :=
  ⟨h.toTargetRests.trans k.toTargetRests, fun h0 => (k.untried (h.attempts.trans h0)).trans (h.untried h0)⟩

theorem untried_refl (gs : List Target) : List.Forall₂ TargetUntried gs gs := List.forall₂_same.2 fun g _ => .refl g

theorem untried_trans {as bs cs : List Target} (h : List.Forall₂ TargetUntried as bs)
    (k : List.Forall₂ TargetUntried bs cs) : List.Forall₂ TargetUntried as cs :=
  forall₂_comp h k fun _ _ _ => TargetUntried.trans

/-- A record's rounds stand as they were. -/
structure RoundsRest (r r' : Record) : Prop where
  stage : r'.stage = r.stage
  parts : r'.parts = r.parts
  roundsSent : r'.roundsSent = r.roundsSent

theorem RoundsRest.refl (r : Record) : RoundsRest r r := ⟨rfl, rfl, rfl⟩

theorem RoundsRest.trans {a b c : Record} (h : RoundsRest a b) (k : RoundsRest b c) : RoundsRest a c :=
  ⟨k.stage.trans h.stage, k.parts.trans h.parts, k.roundsSent.trans h.roundsSent⟩

/-- What an evaluation leaves of a record (R55): its rounds as they are, and every target not yet tried. -/
structure RecordEvaluated (r r' : Record) : Prop extends RecordChosen r r', RoundsRest r r' where
  untried : List.Forall₂ TargetUntried r.targets r'.targets

theorem RecordEvaluated.refl (r : Record) : RecordEvaluated r r := ⟨.refl r, .refl r, untried_refl _⟩

theorem RecordEvaluated.trans {a b c : Record} (h : RecordEvaluated a b) (k : RecordEvaluated b c) :
    RecordEvaluated a c :=
  ⟨h.toRecordChosen.trans k.toRecordChosen, h.toRoundsRest.trans k.toRoundsRest, untried_trans h.untried k.untried⟩

theorem completeIfFinished_evaluated (s : State) (r : Record) : RecordEvaluated r (completeIfFinished s r) := by
  have hchosen := completeIfFinished_chosen s r
  unfold completeIfFinished at hchosen ⊢
  split
  · rename_i h
    rw [if_pos h] at hchosen
    rw [enterDone_complete] at hchosen ⊢
    exact ⟨hchosen, ⟨rfl, rfl, rfl⟩, untried_refl _⟩
  · exact .refl r

theorem silentSpent_tried {s : State} {g : Target} (h : silentSpent s g = true) : g.attempts ≠ 0 := by
  simp only [silentSpent, Bool.and_eq_true, decide_eq_true_eq] at h
  omega

theorem evaluateRecord_evaluated (s : State) (r : Record) : RecordEvaluated r (evaluateRecord s r) := by
  have hchosen := evaluateRecord_chosen s r
  unfold evaluateRecord at hchosen ⊢
  split
  · rename_i h
    rw [if_pos h] at hchosen
    have hdone := completeIfFinished_evaluated s
      { r with targets := r.targets.map fun t =>
          if silentSpent s t then { t with outcome := .unreached .budgetSpent } else t }
    refine ⟨hchosen, ⟨hdone.stage, hdone.parts, hdone.roundsSent⟩, untried_trans ?_ hdone.untried⟩
    refine List.forall₂_map_right_iff.2 (List.forall₂_same.2 fun g _ => ?_)
    split
    · rename_i hspent
      have hpending := silentSpent_pending hspent
      exact ⟨⟨rfl, rfl, rfl, rfl, fun hn => absurd hpending hn⟩, fun h0 => absurd h0 (silentSpent_tried hspent)⟩
    · exact .refl g
  · exact .refl r

theorem evaluateAll_records (s : State) : (evaluateAll s).records = s.records.map (evaluateRecord s) :=
  commitRecords_records _ s

theorem evaluateAll_laneOf (s : State) (ph : Phase) : laneOf (evaluateAll s) ph = laneOf s ph := by
  rw [evaluateAll, commitRecords_frame]
  rfl

/-- While no lane told is armed for a STOP, choosing again is an evaluation and no more (R55, R69). -/
theorem tell_evaluated {s : State} {asked : List Phase} (hn : asked.Nodup) (h : ∀ ph, armedClear (laneOf s ph)) :
    List.Forall₂ RecordEvaluated s.records (tell asked s).records := by
  rw [tell_eq]
  split
  · exact List.forall₂_same.2 fun r _ => .refl r
  · have hclear : ∀ ph, armedClear (laneOf (evaluateAll s) ph) := fun ph => evaluateAll_laneOf s ph ▸ h ph
    rw [chooseAndTest_rest (by split; exacts [by decide, hn]) hclear]
    show List.Forall₂ _ _ (evaluateAll s).records
    rw [evaluateAll_records]
    exact List.forall₂_map_right_iff.2 (List.forall₂_same.2 fun r _ => evaluateRecord_evaluated s r)

/-! ### The parts of a round -/

theorem outOfReach_eq (s : State) (ph : Phase) : outOfReach s ph = !inReach s ph := by
  unfold outOfReach inReach
  cases hs : (laneOf s ph).state == .stopped <;> cases hp : (ptuOf s ph).timing == .lost <;> simp [bne, hs, hp]

/-- Another round would carry something (R54). -/
def hasRoundWork (s : State) (r : Record) : Bool := isDiscover r || r.targets.any (pendingDirect s)

/-- The units that a record's next round is laid out over (R52). -/
def directUnits (s : State) (r : Record) : List Nat := (r.targets.filter (pendingDirect s)).map Target.unit

theorem hasRoundWork_iff {s : State} {r : Record} :
    hasRoundWork s r = true ↔ isDiscover r = true ∨ directUnits s r ≠ [] := by
  simp [hasRoundWork, directUnits, List.filter_eq_nil_iff]

theorem skipPart_one (s : State) (ph : Phase) :
    skipPart s { lane := some ph, standing := .offered } =
      { lane := some ph, standing := if inReach s ph = true then .offered else .ended } := by
  simp only [skipPart, outOfReach_eq]
  cases inReach s ph <;> rfl

theorem skipPart_joined (s : State) :
    skipPart s { lane := none, standing := .offered } =
      { lane := none, standing := if allPhases.any (inReach s) = true then .offered else .ended } := by
  have hall : allPhases.all (outOfReach s) = !allPhases.any (inReach s) := by
    rw [List.not_any_eq_all_not]
    exact congrArg (List.all allPhases) (funext fun ph => outOfReach_eq s ph)
  simp only [skipPart, hall]
  cases allPhases.any (inReach s) <;> rfl

/-- The parts laid out, and those out of reach skipped at once (R52, R53). -/
theorem layoutParts_skipped (s : State) (r : Record) :
    (layoutParts s r).map (skipPart s) = laidOut s (isDiscover r) (directUnits s r) := by
  simp only [layoutParts, laidOut, directUnits, List.any_map]
  split
  · rename_i h
    rw [if_pos (by exact h), List.map_singleton, skipPart_joined]
  · rename_i h
    rw [if_neg (by exact h), List.map_map]
    exact List.map_congr_left fun ph _ => skipPart_one s ph

theorem layoutParts_offered {s : State} {r : Record} {p : Part} (hp : p ∈ layoutParts s r) : p.standing = .offered := by
  simp only [layoutParts] at hp
  split at hp
  · rw [List.mem_singleton.1 hp]
  · obtain ⟨ph, -, rfl⟩ := List.mem_map.1 hp
    rfl

theorem layoutParts_ne_nil {s : State} {r : Record} (h : hasRoundWork s r = true) : layoutParts s r ≠ [] := by
  simp only [layoutParts]
  split
  · nofun
  · rename_i hknown
    simp only [Bool.or_eq_true, not_or, List.any_eq_true, not_exists, not_and] at hknown
    obtain ⟨hd, hknown⟩ := hknown
    obtain ⟨g, hg⟩ := List.exists_mem_of_ne_nil _
      ((hasRoundWork_iff.1 h).resolve_left hd)
    obtain ⟨g, hg, -⟩ := List.mem_map.1 hg
    cases hph : (unitAt s g.unit).phase with
    | none => exact absurd (by rw [hph]; rfl) (hknown g hg)
    | some ph =>
      have hmem : ph ∈ allPhases.filter fun ph =>
          (r.targets.filter (pendingDirect s)).any fun t => (unitAt s t.unit).phase == some ph :=
        List.mem_filter.2 ⟨mem_allPhases ph, List.any_eq_true.2 ⟨g, hg, by rw [hph]; exact beq_self_eq_true _⟩⟩
      exact fun hnil => List.ne_nil_of_mem hmem (List.map_eq_nil_iff.1 hnil)

/-- With every lane in reach no part is skipped (R53). -/
theorem skipPart_inReach {s : State} (h : ∀ ph, inReach s ph = true) (p : Part) : skipPart s p = p := by
  obtain ⟨lane, standing⟩ := p
  cases standing with
  | offered =>
    cases lane with
    | none => rw [skipPart_joined, if_pos (List.any_eq_true.2 ⟨.A, mem_allPhases _, h .A⟩)]
    | some ph => rw [skipPart_one, if_pos (h ph)]
  | inFlight => rfl
  | ended => rfl

theorem map_skipPart_inReach {s : State} (h : ∀ ph, inReach s ph = true) (ps : List Part) : ps.map (skipPart s) = ps := by
  rw [List.map_congr_left fun p _ => skipPart_inReach h p, List.map_id']

/-! ### One pass of settling -/

/-- A round counted as sent (R54). -/
def roundSent (s : State) (r : Record) : Record :=
  { r with parts := r.parts.map (skipPart s), roundsSent := r.roundsSent + 1 }

/-- The next round laid out (R52, R54). -/
def roundBegun (s : State) (r : Record) : Record :=
  { r with stage := .broadcast (r.roundsSent + 1), parts := layoutParts s r }

theorem settleRounds_resting {r : Record} (h : ¬(r.state = .ready ∨ r.state = .active)) (s : State) (fuel : Nat) :
    settleRounds s fuel r = r := by
  cases fuel with
  | zero => rfl
  | succ fuel => exact if_neg h

section
variable {s : State} {r : Record}

/-- A round with a part that has not ended stays (R53). -/
theorem settleRounds_open (hr : r.state = .ready ∨ r.state = .active)
    (h : ∃ p ∈ r.parts.map (skipPart s), p.standing ≠ .ended) (fuel : Nat) :
    settleRounds s (fuel + 1) r = { r with parts := r.parts.map (skipPart s) } := by
  have hopen : ¬(r.parts.map (skipPart s) ≠ [] ∧
      (r.parts.map (skipPart s)).all (fun p => p.standing == .ended) = true) := fun ⟨_, hall⟩ => by
    obtain ⟨p, hp, hne⟩ := h
    exact hne (by simpa using List.all_eq_true.1 hall p hp)
  simp only [settleRounds, if_pos hr, if_neg hopen]

/-- A round whose last part has ended is followed by the next one, or ends the broadcast stage (R54). -/
theorem settleRounds_over (hr : r.state = .ready ∨ r.state = .active) (hne : r.parts.map (skipPart s) ≠ [])
    (h : ∀ p ∈ r.parts.map (skipPart s), p.standing = .ended) (fuel : Nat) :
    settleRounds s (fuel + 1) r =
      if r.roundsSent + 1 < r.rounds.getD 0 ∧ hasRoundWork s r = true then
        settleRounds s fuel (roundBegun s (roundSent s r))
      else if isDiscover r = true then completeIfFinished s { roundSent s r with parts := [] }
      else endBroadcast s (roundSent s r) := by
  have hover : r.parts.map (skipPart s) ≠ [] ∧
      (r.parts.map (skipPart s)).all (fun p => p.standing == .ended) = true :=
    ⟨hne, List.all_eq_true.2 fun p hp => beq_iff_eq.2 (h p hp)⟩
  have hsame : isDiscover { r with parts := r.parts.map (skipPart s), roundsSent := r.roundsSent + 1 } = isDiscover r := rfl
  simp only [settleRounds, if_pos hr, if_pos hover, hasRoundWork]
  by_cases hd : isDiscover r = true
  · by_cases hm : r.roundsSent + 1 < r.rounds.getD 0
    · simp only [hd, hm, decide_true, Bool.true_or, and_self, ↓reduceIte]
      rfl
    · simp only [hd, hm, decide_false, Bool.false_eq_true, false_and, ↓reduceIte]
      rfl
  · by_cases hm : r.roundsSent + 1 < r.rounds.getD 0 ∧ r.targets.any (pendingDirect s) = true
    · simp only [hd, hm.1, hm.2, decide_true, Bool.and_self, Bool.or_true, and_self, Bool.false_eq_true, ↓reduceIte]
      rfl
    · have hm' : ¬(decide (r.roundsSent + 1 < r.rounds.getD 0) && r.targets.any (pendingDirect s)) = true := by
        simpa using hm
      simp only [hd, hm, hm', Bool.false_or, Bool.false_eq_true, ↓reduceIte]
      rfl

/-- A round with a part in reach begins and stays (R52, R53). -/
theorem settleRounds_begun (hr : r.state = .ready ∨ r.state = .active)
    (h : ∃ p ∈ laidOut s (isDiscover r) (directUnits s r), p.standing ≠ .ended) (fuel : Nat) :
    settleRounds s (fuel + 1) (roundBegun s r) =
      { roundBegun s r with parts := laidOut s (isDiscover r) (directUnits s r) } := by
  rw [← layoutParts_skipped] at h ⊢
  exact settleRounds_open (r := roundBegun s r) hr h fuel

theorem completeIfFinished_roundsSent (s : State) (r : Record) : (completeIfFinished s r).roundsSent = r.roundsSent :=
  (completeIfFinished_evaluated s r).roundsSent

theorem endBroadcast_roundsSent (s : State) (r : Record) : (endBroadcast s r).roundsSent = r.roundsSent :=
  completeIfFinished_roundsSent s (followUp s r)

theorem roundsSent_le_settleRounds (s : State) : ∀ (fuel : Nat) (r : Record),
    r.roundsSent ≤ (settleRounds s fuel r).roundsSent
  | 0, r => le_rfl
  | fuel + 1, r => by
    have hnext : ∀ st ps, r.roundsSent ≤
        (settleRounds s fuel { r with stage := st, parts := ps, roundsSent := r.roundsSent + 1 }).roundsSent := fun st ps =>
      (Nat.le_succ _).trans
        (roundsSent_le_settleRounds s fuel { r with stage := st, parts := ps, roundsSent := r.roundsSent + 1 })
    unfold settleRounds
    split
    · dsimp only
      split
      · split
        · split
          · exact hnext _ _
          · rw [completeIfFinished_roundsSent]
            exact Nat.le_succ _
        · split
          · exact hnext _ _
          · rw [endBroadcast_roundsSent]
            exact Nat.le_succ _
      · exact le_rfl
    · exact le_rfl

/-- The end of a round's last part counts it as sent (R54). -/
theorem roundsSent_lt_settleRounds (hr : r.state = .ready ∨ r.state = .active) (hne : r.parts.map (skipPart s) ≠ [])
    (h : ∀ p ∈ r.parts.map (skipPart s), p.standing = .ended) (fuel : Nat) :
    r.roundsSent < (settleRounds s (fuel + 1) r).roundsSent := by
  rw [settleRounds_over hr hne h]
  split
  · exact roundsSent_le_settleRounds s fuel (roundBegun s (roundSent s r))
  · split
    · exact (completeIfFinished_roundsSent s { roundSent s r with parts := [] }).ge
    · exact (endBroadcast_roundsSent s (roundSent s r)).ge

/-- With every part of its rounds out of reach a record passes all of them at once (R53, R54). -/
theorem settleRounds_skipped {b : Nat} (hr : r.state = .ready ∨ r.state = .active) (hw : hasRoundWork s r = true)
    (hb : r.rounds = some b) (h : ∀ p ∈ laidOut s (isDiscover r) (directUnits s r), p.standing = .ended) :
    ∀ (fuel n : Nat), n < b → b ≤ n + fuel → ∀ st, ∃ st' ps,
      settleRounds s fuel { r with stage := st, parts := layoutParts s r, roundsSent := n } =
        if isDiscover r = true then completeIfFinished s { r with stage := st', parts := [], roundsSent := b }
        else endBroadcast s { r with stage := st', parts := ps, roundsSent := b }
  | 0, n, hlt, hle, _ => absurd hle (Nat.not_le.2 hlt)
  | fuel + 1, n, hlt, hle, st => by
    have hstep := settleRounds_over (s := s) (r := { r with stage := st, parts := layoutParts s r, roundsSent := n }) hr
      (fun hnil => layoutParts_ne_nil hw (List.map_eq_nil_iff.1 hnil)) (by rw [layoutParts_skipped]; exact h) fuel
    rw [hstep]
    have hrounds : r.rounds.getD 0 = b := by rw [hb, Option.getD_some]
    by_cases hmore : n + 1 < b
    · obtain ⟨st', ps, hrest⟩ := settleRounds_skipped hr hw hb h fuel (n + 1) hmore (by omega) (.broadcast (n + 1 + 1))
      refine ⟨st', ps, ?_⟩
      rw [if_pos ⟨hmore.trans_eq hrounds.symm, hw⟩, ← hrest]
      rfl
    · have hlast : n + 1 = b := by omega
      rw [if_neg fun hc => hmore (hc.1.trans_eq hrounds), ← hlast]
      exact ⟨st, (layoutParts s r).map (skipPart s), rfl⟩

/-- A record with work for a round begins its first one (R51). -/
theorem beginStage_work {k : Nat} (hst : r.stage = .broadcast k) (hw : hasRoundWork s r = true) :
    beginStage s r = settleRounds s roundFuel { r with parts := layoutParts s r } := by
  unfold hasRoundWork at hw
  simp only [beginStage, hst, hw, ↓reduceIte]

theorem beginStage_followUp (hst : r.stage = .followUp) : beginStage s r = completeIfFinished s r := by
  simp only [beginStage, hst]

/-- A record without work for a round goes to FOLLOW-UP at once (R51). -/
theorem beginStage_idle {k : Nat} (hst : r.stage = .broadcast k) (hw : hasRoundWork s r = false) :
    beginStage s r = completeIfFinished s { r with stage := .followUp, parts := [] } := by
  unfold hasRoundWork at hw
  simp only [beginStage, hst, hw, Bool.false_eq_true, ↓reduceIte]

end

end Sys2Proof.Machine

/-! ## Rounds at an admission, at an end report and at a STOP (R51 to R54) -/

namespace Sys2Proof.Machine

open Sys2Proof.Claims

/-! ### A record admitted READY (R46, R51) -/

theorem completeIfFinished_discover {s : State} {r : Record} (hr : r.state = .ready) (hf : r.flights = 0)
    (hd : isDiscover r = true) {b : Nat} (hb : r.rounds = some b) (hle : b ≤ r.roundsSent) :
    (completeIfFinished s r).state = .done .complete := by
  rw [completeIfFinished, if_pos ⟨hr, hf, .inr ⟨hd, b, hb, hle⟩⟩]
  rfl

/-- What the stage that a READY record begins comes to (R51 to R54). -/
structure StageBegun (s : State) (r r' : Record) : Prop where
  followUp : r.stage = .followUp ∨ hasRoundWork s r = false → r'.stage = .followUp ∧ r'.parts = [] ∧ r'.roundsSent = 0
  runs : r.stage ≠ .followUp → hasRoundWork s r = true →
    (∃ p ∈ laidOut s (isDiscover r) (directUnits s r), p.standing = .offered) →
      r'.stage = r.stage ∧ r'.parts = laidOut s (isDiscover r) (directUnits s r) ∧ r'.roundsSent = 0
  passes : r.stage ≠ .followUp → hasRoundWork s r = true →
    (∀ p ∈ laidOut s (isDiscover r) (directUnits s r), p.standing = .ended) →
      r'.parts = [] ∧ r.rounds = some r'.roundsSent ∧
        (isDiscover r = true → (beginStage s r).state = .done .complete ∧ r'.state = .done .complete) ∧
        (isDiscover r = false → r'.stage = .followUp ∧ List.Forall₂ (fun g g' => g'.unit = g.unit ∧
          (isDirect s g = true → g'.outcome = if r.windows = 0 then .unconfirmed else .pending)) r.targets r'.targets)

/-- A record as it is before its stage begins, none of its targets tried. -/
structure StageFresh (r : Record) : Prop where
  ready : r.state = .ready
  flights : r.flights = 0
  parts : r.parts = []
  roundsSent : r.roundsSent = 0
  rounds : r.stage ≠ .followUp → ∃ b, r.rounds = some b ∧ 1 ≤ b ∧ b ≤ roundFuel
  targets : ∀ g ∈ r.targets, g.outcome = .pending ∧ g.attempts = 0

/-- A target not yet tried at the end of the broadcast stage: with R = 0 one sent to directly is UNCONFIRMED (R54). -/
theorem followUp_fresh {s : State} {r r' : Record} (h : ∀ g ∈ r.targets, g.outcome = .pending ∧ g.attempts = 0)
    (hr' : List.Forall₂ TargetUntried (followUp s r).targets r'.targets) :
    List.Forall₂ (fun g g' => g'.unit = g.unit ∧
      (isDirect s g = true → g'.outcome = if r.windows = 0 then .unconfirmed else .pending)) r.targets r'.targets := by
  have hfresh : List.Forall₂ (fun g g' => g'.unit = g.unit ∧ g'.attempts = 0 ∧
      (isDirect s g = true → g'.outcome = if r.windows = 0 then .unconfirmed else .pending))
      r.targets (followUp s r).targets := by
    show List.Forall₂ _ r.targets (if r.windows = 0 then _ else r.targets)
    split
    · refine List.forall₂_map_right_iff.2 (List.forall₂_same.2 fun g hg => ?_)
      obtain ⟨hpending, hattempts⟩ := h g hg
      split
      · exact ⟨rfl, hattempts, fun _ => rfl⟩
      · rename_i hnot
        exact ⟨rfl, hattempts, fun hd => absurd (by rw [pendingDirect, hpending, hd]; rfl) hnot⟩
    · exact List.forall₂_same.2 fun g hg => ⟨rfl, (h g hg).2, fun _ => (h g hg).1⟩
  exact forall₂_comp hfresh hr' fun g g1 g' ⟨hunit, hattempts, hout⟩ hrest =>
    ⟨hrest.unit.trans hunit, fun hd => (hrest.untried hattempts).trans (hout hd)⟩

/-- The record's stage begun, and evaluated after it. -/
theorem stageBegun_of {s : State} {r r' : Record} (h : StageFresh r) (hr' : RecordEvaluated (beginStage s r) r') :
    StageBegun s r r' := by
  have hstages : r.stage ≠ .followUp → ∃ k, r.stage = .broadcast k := fun hne => by
    cases hst : r.stage with
    | followUp => exact absurd hst hne
    | broadcast k => exact ⟨k, rfl⟩
  refine ⟨fun hend => ?_, fun hne hw hoff => ?_, fun hne hw hall => ?_⟩
  · cases hst : r.stage with
    | followUp =>
      rw [beginStage_followUp hst] at hr'
      have hrest := (completeIfFinished_evaluated s r).trans hr'
      exact ⟨hrest.stage.trans hst, hrest.parts.trans h.parts, hrest.roundsSent.trans h.roundsSent⟩
    | broadcast k =>
      rw [beginStage_idle hst (hend.resolve_left (by rw [hst]; nofun))] at hr'
      have hrest := (completeIfFinished_evaluated s { r with stage := .followUp, parts := [] }).trans hr'
      exact ⟨hrest.stage, hrest.parts, hrest.roundsSent.trans h.roundsSent⟩
  · obtain ⟨k, hst⟩ := hstages hne
    obtain ⟨p, hp, hoffered⟩ := hoff
    rw [← layoutParts_skipped] at hp ⊢
    rw [beginStage_work hst hw, roundFuel, settleRounds_open (r := { r with parts := layoutParts s r }) (.inl h.ready)
      ⟨p, hp, by rw [hoffered]; nofun⟩] at hr'
    exact ⟨hr'.stage, hr'.parts, hr'.roundsSent.trans h.roundsSent⟩
  · obtain ⟨k, hst⟩ := hstages hne
    obtain ⟨b, hb, hpos, hle⟩ := h.rounds hne
    obtain ⟨st, ps, hpass⟩ := settleRounds_skipped (.inl h.ready) hw hb hall roundFuel 0 hpos (by omega) r.stage
    have hbegin : beginStage s r =
        settleRounds s roundFuel { r with stage := r.stage, parts := layoutParts s r, roundsSent := 0 } := by
      rw [beginStage_work hst hw, ← h.roundsSent]
    rw [hbegin, hpass] at hr'
    split at hr'
    · rename_i hd
      have hrest := (completeIfFinished_evaluated s { r with stage := st, parts := [], roundsSent := b }).trans hr'
      have hdone := completeIfFinished_discover (s := s) (r := { r with stage := st, parts := [], roundsSent := b })
        h.ready h.flights hd hb le_rfl
      refine ⟨hrest.parts, hb.trans (congrArg some hrest.roundsSent.symm), fun _ => ⟨?_, ?_⟩,
        fun hnd => absurd hd (by rw [hnd]; nofun)⟩
      · rw [hbegin, hpass, if_pos hd]
        exact hdone
      · rw [hr'.same (by rw [hdone]; nofun) (by rw [hdone]; nofun)]
        exact hdone
    · rename_i hnd
      rw [endBroadcast_eq] at hr'
      have hrest := (completeIfFinished_evaluated s _).trans hr'
      exact ⟨hrest.parts, hb.trans (congrArg some hrest.roundsSent.symm), fun hd => absurd hd hnd, fun _ =>
        ⟨hrest.stage, followUp_fresh (r := { r with stage := st, parts := ps, roundsSent := b }) h.targets hrest.untried⟩⟩

theorem newRecord_fresh {s : State} {f : SubmitFields} (hrel : f.release.toNat ≤ s.clock.seconds) (kind : CommandKind)
    (spec : TargetSpec) (set : List Nat) : StageFresh (newRecord s f kind spec set) where
  ready := if_pos (.inr hrel)
  flights := rfl
  parts := rfl
  roundsSent := rfl
  rounds hne := ⟨_, if_neg hne, by unfold clamp; omega, by unfold clamp roundFuel; omega⟩
  targets g hg := by
    obtain ⟨i, -, rfl⟩ := List.mem_map.1 hg
    exact ⟨rfl, rfl⟩

theorem roundsFirst_iff (spec : TargetSpec) : roundsFirst spec ↔ firstStage spec ≠ .followUp := by
  cases spec with
  | unit a => simp [firstStage, roundsFirst]
  | group g => simp [firstStage, roundsFirst]
  | all => simp [firstStage, roundsFirst]
  | cond c => cases c <;> simp [firstStage, roundsFirst]

theorem firstStage_broadcast {spec : TargetSpec} (h : firstStage spec ≠ .followUp) : firstStage spec = .broadcast 1 := by
  cases spec with
  | unit a => exact absurd rfl h
  | group g => rfl
  | all => rfl
  | cond c =>
    cases c with
    | allActive => rfl
    | group g => rfl
    | phaseUnknown => exact absurd rfl h
    | silent => exact absurd rfl h
    | qualityBelow q => exact absurd rfl h
    | discover => rfl

/-- A new record's rounds go out over the units of its target set that are reached directly (R52). -/
theorem directUnits_newRecord (s : State) (f : SubmitFields) (kind : CommandKind) (spec : TargetSpec) (set : List Nat) :
    directUnits s (newRecord s f kind spec set) = set.filter fun u => (unitAt s u).route.isEmpty := by
  show ((set.map newTarget).filter (pendingDirect s)).map Target.unit = _
  rw [List.filter_map, List.map_map]
  exact List.map_id _

theorem hasRoundWork_newRecord (s : State) (f : SubmitFields) (kind : CommandKind) (spec : TargetSpec) (set : List Nat) :
    hasRoundWork s (newRecord s f kind spec set) = true ↔
      (spec == .cond .discover) = true ∨ set.filter (fun u => (unitAt s u).route.isEmpty) ≠ [] := by
  rw [hasRoundWork_iff, directUnits_newRecord]
  rfl

theorem admitted_laneOf (r : Record) (s : State) (ph : Phase) : laneOf (admitted r s) ph = laneOf s ph := by
  rw [admitted_frame]
  rfl

/-- A record that is DONE as it is admitted raises RECORD_DONE (R50). -/
theorem admitted_recordDone {s : State} {r : Record} (h : isDone (admittedRecord s r) = true) :
    flagSet (admitted r s) .recordDone = true := by
  have hlt : (s.records.filter isDone).length < ((s.records ++ [admittedRecord s r]).filter isDone).length := by
    rw [List.filter_append, List.length_append, List.filter_cons_of_pos h]
    exact Nat.lt_succ_self _
  have hcommit : flagSet (commitRecords (s.records ++ [admittedRecord s r]) s) .recordDone = true := by
    rw [commitRecords, decide_eq_true hlt]
    exact flagSet_raise_self .recordDone _
  exact hcommit

/-- The queue after a READY record has been admitted. -/
theorem admitNew_ready {s : State} {r : Record} (hs : s.lanesOk) (hr : r.state = .ready) :
    ∃ olds r', (admitNew r s).records = olds ++ [r'] ∧ RecordEvaluated (beginStage s r) r' ∧
      (isDone (beginStage s r) = true → flagSet (admitNew r s) .recordDone = true) := by
  have hclear : ∀ ph, armedClear (laneOf (admitted r s) ph) := fun ph => admitted_laneOf r s ph ▸ (hs ph).1.armedClear
  have hbegun : admittedRecord s r = beginStage s r := if_pos hr
  have h := tell_evaluated (asked := allPhases) (by decide) hclear
  rw [admitted_records, hbegun] at h
  obtain ⟨olds, r', heq, -, hr'⟩ := forall₂_append_one h
  rw [admitNew_eq, if_pos hr]
  exact ⟨olds, r', heq, hr', fun hd =>
    flagSet_of_kept (tell_work _ _).flags (admitted_recordDone (hbegun.symm ▸ hd))⟩

/-! ### The end report of a part (R53, R60) -/

theorem settleFlight_active {s : State} {r : Record} (hr : r.state = .active) (hf : r.flights = 1) :
    settleFlight s r = completeIfFinished s { r with flights := 0, state := .ready } := by
  have h0 : r.flights - 1 = 0 := by omega
  simp only [settleFlight, h0, ↓reduceIte, hr]

theorem settleFlight_roundsRest (s : State) (r : Record) : RoundsRest r (settleFlight s r) := by
  unfold settleFlight
  dsimp only
  split
  · split
    · have h := (completeIfFinished_evaluated s { r with state := .ready, flights := r.flights - 1 }).toRoundsRest
      exact ⟨h.stage, h.parts, h.roundsSent⟩
    all_goals exact ⟨rfl, rfl, rfl⟩
  · exact ⟨rfl, rfl, rfl⟩

theorem settleFlight_untried {s : State} {r : Record}
    (hr : r.state = .ready ∨ r.state = .active ∨ r.state = .done .complete) :
    List.Forall₂ TargetUntried r.targets (settleFlight s r).targets := by
  by_cases hf : r.flights = 1 ∧ r.state = .active
  · rw [settleFlight_active hf.2 hf.1]
    exact (completeIfFinished_evaluated s { r with flights := 0, state := .ready }).untried
  · unfold settleFlight
    dsimp only
    split
    · rcases hr with h | h | h
      · simp only [h]
        exact untried_refl _
      · simp only [h]
        exact (completeIfFinished_evaluated s { r with state := .ready, flights := r.flights - 1 }).untried
      · simp only [h]
        exact untried_refl _
    · exact untried_refl _

section
variable {s : State} {rep : EndReport} {r : Record}

theorem reportedRecord_parts {k : Nat} (hwork : rep.work = .part k) :
    (reportedRecord s rep r).parts = partsMoved r.parts rep.lane .inFlight (standingAfter r rep) := by
  simp only [reportedRecord, hwork, partsMoved]

/-- A PENDING target that is reached directly, and no answer in the report. -/
theorem pendingDirect_reported (hna : rep.notAnswered = none) (retry budget : Nat) (g : Target) :
    pendingDirect s (reportedTarget retry budget rep g) =
      (directPending s g && !rep.answered.any fun a => a.1 == g.unit) := by
  have hunit : (reportedTarget retry budget rep g).unit = g.unit := (reportedTarget_continues retry budget rep g).1
  have hout : (reportedTarget retry budget rep g).outcome = (applyAnswered rep.answered g).outcome := by
    rw [reportedTarget_untried fun h => by rw [hna] at h; exact absurd h.2 nofun]
  rw [pendingDirect, isDirect, hunit, hout, directPending]
  cases ha : rep.answered.find? (fun x => x.1 == g.unit) with
  | none =>
    have hany : rep.answered.any (fun a => a.1 == g.unit) = false :=
      List.any_eq_false.2 fun a hm => List.find?_eq_none.1 ha a hm
    rw [applyAnswered_of_none ha, hany, Bool.not_false, Bool.and_true]
  | some a =>
    have hany : rep.answered.any (fun a => a.1 == g.unit) = true :=
      List.any_eq_true.2 ⟨a, List.mem_of_find?_eq_some ha, List.find?_some (p := fun x : Nat × Byte => x.1 == g.unit) ha⟩
    rw [hany, Bool.not_true, Bool.and_false]
    by_cases hg : g.outcome = .pending
    · rw [applyAnswered_of_some ha hg]
      have hsettled : (if a.2 = 0 then TargetOutcome.confirmed else .refused a.2) ≠ .pending := by split <;> nofun
      exact congrArg (· && _) (beq_false_of_ne hsettled)
    · have hkept : (applyAnswered rep.answered g).outcome = g.outcome := (applyAnswered_step rep.answered 0 g).1.2 hg
      rw [hkept, beq_false_of_ne hg]
      rfl

/-- The units that the next round is laid out over, once a part's answers have been taken (R52, R60). -/
theorem directUnits_reported (hna : rep.notAnswered = none) :
    directUnits s (reportedRecord s rep r) =
      (r.targets.filter fun g => directPending s g && !rep.answered.any fun a => a.1 == g.unit).map Target.unit := by
  rw [directUnits, reportedRecord_targets, List.filter_map, List.map_map]
  have hp : (pendingDirect s ∘ reportedTarget s.profile.retry r.budget rep) = fun g =>
      directPending s g && !rep.answered.any fun a => a.1 == g.unit :=
    funext fun g => pendingDirect_reported hna s.profile.retry r.budget g
  rw [hp]
  exact List.map_congr_left fun g _ => (reportedTarget_continues s.profile.retry r.budget rep g).1

/-- A CLOSING record's part ends, and its rounds go no further (R53). -/
theorem settledByReport_closing {k : Nat} (hwork : rep.work = .part k) {c : ClosingCause} (hr : r.state = .closing c) :
    RoundsRest { r with parts := partsMoved r.parts rep.lane .inFlight .ended } (settledByReport s rep r) := by
  have hresting : ¬((reportedRecord s rep r).state = .ready ∨ (reportedRecord s rep r).state = .active) := by
    show ¬(r.state = .ready ∨ r.state = .active)
    rw [hr]
    exact not_or.2 ⟨nofun, nofun⟩
  have hparts := reportedRecord_parts (s := s) (r := r) hwork
  have hstanding : standingAfter r rep = .ended := by simp only [standingAfter, hr]
  have hrest := settleFlight_roundsRest s (reportedRecord s rep r)
  rw [settledByReport, settleRounds_resting hresting]
  exact ⟨hrest.stage, hrest.parts.trans (hparts.trans (by rw [hstanding])), hrest.roundsSent⟩

/-- A part that has ended is offered again where its exchange was preempted, or aborted as a whole by STOP (R53). -/
theorem standingAfter_running (hr : r.state = .ready ∨ r.state = .active) :
    (rep.cause = some .preempted ∨ rep.cause = some .stopped ∧ rep.abortedWhole = true → standingAfter r rep = .offered) ∧
      (¬(rep.cause = some .preempted ∨ rep.cause = some .stopped ∧ rep.abortedWhole = true) →
        standingAfter r rep = .ended) := by
  have hrun : standingAfter r rep = standingAfter { r with state := .ready } rep := by
    rcases hr with h | h <;> simp only [standingAfter, h]
  rw [hrun]
  refine ⟨fun hredone => ?_, fun hnot => ?_⟩
  · rcases hredone with h | ⟨h, hwhole⟩
    · simp only [standingAfter, h]
    · simp only [standingAfter, h, hwhole, ↓reduceIte]
  · obtain ⟨hp, hw⟩ := not_or.1 hnot
    simp only [standingAfter]
    split
    · exact absurd ‹_› hp
    · exact if_neg fun hwhole => hw ⟨‹_›, hwhole⟩
    · rfl

/-- The rounds of a record still running, once a part's report is taken, with every lane in reach (R53, R54, R60). -/
structure PartReported (s : State) (rep : EndReport) (r r' : Record) : Prop where
  runs : (∃ p ∈ (reportedRecord s rep r).parts, p.standing ≠ .ended) → RoundsRest (reportedRecord s rep r) r'
  next : (reportedRecord s rep r).parts ≠ [] → (∀ p ∈ (reportedRecord s rep r).parts, p.standing = .ended) →
    r.roundsSent + 1 < r.rounds.getD 0 → hasRoundWork s (reportedRecord s rep r) = true →
      RoundsRest { r with
        stage := .broadcast (r.roundsSent + 2)
        parts := laidOut s (isDiscover r) (directUnits s (reportedRecord s rep r))
        roundsSent := r.roundsSent + 1 } r'
  last : (reportedRecord s rep r).parts ≠ [] → (∀ p ∈ (reportedRecord s rep r).parts, p.standing = .ended) →
    ¬(r.roundsSent + 1 < r.rounds.getD 0) → isDiscover r = true →
      RoundsRest { r with parts := [], roundsSent := r.roundsSent + 1 } r' ∧
        (r.state = .active → r.flights = 1 → (∃ b, r.rounds = some b) → r'.state = .done .complete)
  ended : (reportedRecord s rep r).parts ≠ [] → (∀ p ∈ (reportedRecord s rep r).parts, p.standing = .ended) →
    ¬(r.roundsSent + 1 < r.rounds.getD 0 ∧ hasRoundWork s (reportedRecord s rep r) = true) → isDiscover r = false →
      RoundsRest { r with stage := .followUp, parts := [], roundsSent := r.roundsSent + 1 } r' ∧
        List.Forall₂ TargetUntried (followUp s (reportedRecord s rep r)).targets r'.targets

/-- In each case the round that has ended counts as sent (R54). -/
theorem PartReported.sent {r' : Record} (h : PartReported s rep r r') (hne : (reportedRecord s rep r).parts ≠ [])
    (hall : ∀ p ∈ (reportedRecord s rep r).parts, p.standing = .ended) : r'.roundsSent = r.roundsSent + 1 := by
  by_cases hmore : r.roundsSent + 1 < r.rounds.getD 0 ∧ hasRoundWork s (reportedRecord s rep r) = true
  · exact (h.next hne hall hmore.1 hmore.2).roundsSent
  · cases hd : isDiscover r with
    | false => exact (h.ended hne hall hmore hd).1.roundsSent
    | true =>
      have hwork : hasRoundWork s (reportedRecord s rep r) = true := hasRoundWork_iff.2 (.inl hd)
      exact (h.last hne hall (fun hm => hmore ⟨hm, hwork⟩) hd).1.roundsSent

theorem settledByReport_running (hreach : ∀ ph, inReach s ph = true) (hr : r.state = .ready ∨ r.state = .active) :
    PartReported s rep r (settledByReport s rep r) := by
  have hparts := map_skipPart_inReach hreach (reportedRecord s rep r).parts
  have hover := fun hne hall => settleRounds_over (s := s) (r := reportedRecord s rep r) hr
    (by rw [hparts]; exact hne) (by rw [hparts]; exact hall) 4
  refine ⟨fun hopen => ?_, fun hne hall hmore hw => ?_, fun hne hall hmore hd => ?_, fun hne hall hmore hd => ?_⟩
  · rw [← hparts] at hopen
    have hrest := settleFlight_roundsRest s { reportedRecord s rep r with
      parts := (reportedRecord s rep r).parts.map (skipPart s) }
    rw [settledByReport, roundFuel, settleRounds_open (r := reportedRecord s rep r) hr hopen]
    exact ⟨hrest.stage, hrest.parts.trans hparts, hrest.roundsSent⟩
  · have hlaid : ∃ p ∈ laidOut s (isDiscover (roundSent s (reportedRecord s rep r)))
        (directUnits s (roundSent s (reportedRecord s rep r))), p.standing ≠ .ended := by
      rw [← layoutParts_skipped, map_skipPart_inReach hreach]
      obtain ⟨p, hp⟩ := List.exists_mem_of_ne_nil _
        (layoutParts_ne_nil (r := roundSent s (reportedRecord s rep r)) hw)
      exact ⟨p, hp, by rw [layoutParts_offered hp]; nofun⟩
    have hrest := settleFlight_roundsRest s (settleRounds s roundFuel (reportedRecord s rep r))
    rw [roundFuel, hover hne hall, if_pos ⟨hmore, hw⟩,
      settleRounds_begun (r := roundSent s (reportedRecord s rep r)) hr hlaid] at hrest
    rw [settledByReport, roundFuel, hover hne hall, if_pos ⟨hmore, hw⟩,
      settleRounds_begun (r := roundSent s (reportedRecord s rep r)) hr hlaid]
    exact ⟨hrest.stage, hrest.parts, hrest.roundsSent⟩
  · have hstep := (hover hne hall).trans ((if_neg fun hc => hmore hc.1).trans (if_pos hd))
    have hdone := (completeIfFinished_evaluated s { roundSent s (reportedRecord s rep r) with parts := [] }).toRoundsRest
    rw [settledByReport, roundFuel, hstep]
    have hrest := hdone.trans (settleFlight_roundsRest s _)
    refine ⟨⟨hrest.stage, hrest.parts, hrest.roundsSent⟩, fun hactive hflights ⟨b, hb⟩ => ?_⟩
    have hsame : completeIfFinished s { roundSent s (reportedRecord s rep r) with parts := [] } =
        { roundSent s (reportedRecord s rep r) with parts := [] } :=
      if_neg fun hc => by
        have hready : r.state = .ready := hc.1
        rw [hactive] at hready
        cases hready
    rw [hsame, settleFlight_active (r := { roundSent s (reportedRecord s rep r) with parts := [] }) hactive hflights]
    refine completeIfFinished_discover (b := b) rfl rfl hd hb ?_
    rw [hb, Option.getD_some] at hmore
    exact Nat.le_of_not_lt hmore
  · have hnd : ¬isDiscover r = true := by rw [hd]; nofun
    have hstep := (hover hne hall).trans ((if_neg hmore).trans (if_neg hnd))
    have hdone := completeIfFinished_evaluated s (followUp s (roundSent s (reportedRecord s rep r)))
    have hstate : (endBroadcast s (roundSent s (reportedRecord s rep r))).state = .ready ∨
        (endBroadcast s (roundSent s (reportedRecord s rep r))).state = .active ∨
        (endBroadcast s (roundSent s (reportedRecord s rep r))).state = .done .complete := by
      rcases hr with h | h
      · exact (hdone.ready h).imp_right .inr
      · exact .inr (.inl (hdone.active h))
    rw [settledByReport, roundFuel, hstep]
    have hrest := hdone.toRoundsRest.trans (settleFlight_roundsRest s _)
    refine ⟨⟨hrest.stage, hrest.parts, hrest.roundsSent⟩, untried_trans hdone.untried (settleFlight_untried ?_)⟩
    exact hstate

end

end Sys2Proof.Machine

/-! ## A broadcast part granted, and a STOP, in the rounds of a record: O60 -/

namespace Sys2Proof.Machine

open Sys2Proof.Claims

/-! ### A joined grant over one lane (R75, R78) -/

section
variable {s : State} {ph : Phase}

theorem usable_alone (h : ∀ q, usable s q = decide (q = ph)) : allPhases.filter (usable s) = [ph] := by
  rw [funext h]
  cases ph <;> rfl

/-- The one usable lane's monitor tells the mode (R101). -/
theorem jointMode_alone (h : ∀ q, usable s q = decide (q = ph)) : jointMode s = (lcmOf s ph).mode := by
  have hany : (allPhases.any fun q => usable s q && (lcmOf s q).mode == .robust) = ((lcmOf s ph).mode == .robust) := by
    simp only [h]
    cases ph <;> simp [allPhases]
  rw [jointMode, hany]
  cases (lcmOf s ph).mode <;> rfl

end

/-- The lane with its reservation for an item (R75). -/
def reservedState (ph : Phase) (i : WorkItem) (s : State) : State :=
  setLane s ph { laneOf s ph with state := .reserved, reserved := some { item := i, forced := false } }

theorem laneOk_reserved {l : Lane} (h : laneOk l) (hidle : l.state = .idle) (v : Reservation) :
    laneOk { l with state := .reserved, reserved := some v } := by
  obtain ⟨-, -, -, hstop, hpause⟩ := id h
  have hx : l.exchange = none := h.exchange_none (by rw [hidle]; rfl)
  rw [hidle] at hstop hpause
  refine ⟨⟨nofun, fun hne => absurd hx hne⟩, ⟨nofun, fun _ => rfl⟩, fun x hx' => ?_, fun hs => ?_, fun hp => hpause hp⟩
  · cases hx.symm.trans hx'
  · exact absurd (hstop hs) (by decide)

/-- A lane that is alone in service reserves itself for joined work, and the joined grant passes at once (R75, R78). -/
theorem LoneItem.reserveLane {s : State} {ph : Phase} {i : WorkItem} {r : Record} (h : LoneItem s ph i r)
    (halone : ∀ q, usable s q = decide (q = ph)) (hdeadline : r.deadline = 0)
    (hshort : ∀ mode, (planFor s r i.work mode [ph]).t ≤ 65535) :
    LaneGranted ph i r [ph] (lcmOf s ph).mode false (reservedState ph i s) (reserveLane ph i false s) := by
  have hlane : ∀ q, laneOf (reservedState ph i s) q = if q = ph then
      { laneOf s ph with state := .reserved, reserved := some { item := i, forced := false } } else laneOf s q := fun q => by
    split
    · rename_i hq
      rw [hq, reservedState, laneOf_setLane_self]
    · rename_i hq
      rw [reservedState, laneOf_setLane_of_ne _ _ hq]
  have hmine := (hlane ph).trans (if_pos rfl)
  have husable : ∀ q, usable (reservedState ph i s) q = usable s q := fun q =>
    usable_congr (s := s) (t := reservedState ph i s) rfl rfl (by
      rw [hlane]
      split
      · rename_i hq
        rw [hq, h.idle]
        rfl
      · rfl)
  have halone' : ∀ q, usable (reservedState ph i s) q = decide (q = ph) := fun q => (husable q).trans (halone q)
  have hoffered : (offersTo (reservedState ph i s) ph).any (sameItem i) = true := by
    refine offered_of_candidate ?_
    rw [candidates_congr (s := s) (t := reservedState ph i s) rfl rfl rfl rfl (husable ph), h.lone]
    exact List.mem_singleton.2 rfl
  have hrec : Machine.recordOf (reservedState ph i s) i.serial = some r := h.recordOf
  have hfor : reservedFor (reservedState ph i s) i ph = true := by
    simp only [reservedFor, hmine, sameItem_self]
    rfl
  have hforced : reservationForced (reservedState ph i s) ph = false := by
    simp only [reservationForced, hmine]
  have hmode : jointMode (reservedState ph i s) = (lcmOf s ph).mode := jointMode_alone halone'
  have hfails : [ph].filter (fun p => decide (halfCyclesRemaining (reservedState ph i s) p r.deadline <
      if p = ph then (planFor (reservedState ph i s) r i.work (lcmOf s ph).mode [ph]).t
      else (planFor (reservedState ph i s) r i.work (lcmOf s ph).mode [ph]).t + 1)) = [] := by
    have hrem : halfCyclesRemaining (reservedState ph i s) ph r.deadline = 65535 := if_pos hdeadline
    have hle := hshort (lcmOf s ph).mode
    rw [← planFor_congr (s := s) (t := reservedState ph i s) rfl rfl] at hle
    refine List.filter_eq_nil_iff.2 fun p hp => ?_
    rw [List.mem_singleton.1 hp, hrem, if_pos rfl, decide_eq_true_eq]
    exact Nat.not_lt.2 hle
  have heq : Machine.reserveLane ph i false s =
      tell (otherLanes ph) (grantState ph i r [ph] (lcmOf s ph).mode false (reservedState ph i s)) := by
    have hgrant : Machine.reserveLane ph i false s = joinedGrant ph i (reservedState ph i s) := if_pos h.offered
    have htest : ([ph].all (reservedFor (reservedState ph i s) i) && [ph].contains ph &&
        (offersTo (reservedState ph i s) ph).any (sameItem i)) = true := by
      simp [hfor, hoffered]
    rw [hgrant, joinedGrant, usable_alone halone']
    simp only [htest, ↓reduceIte, hrec, hmode, hfails, ne_eq, not_true_eq_false, List.foldl_cons, List.foldl_nil, hforced]
    rfl
  rw [heq]
  refine tell_grantState (s := reservedState ph i s) (fun q => ?_) h.serialsApart h.mem h.serial (state_of_competes h.competes) h.quiet _ _ _
  rw [hlane]
  split
  · rename_i hq
    exact ⟨laneOk_reserved (h.lanes ph).1 h.idle _, fun x hx => (h.lanes ph).2 x hx⟩
  · exact h.lanes q

/-! ### The part granted (R57, R73, R90, R99) -/

theorem bitsOfBytes_length (bytes : List Byte) : (bitsOfBytes bytes).length = 8 * bytes.length := by
  induction bytes with
  | nil => rfl
  | cons b bytes ih =>
    have hcons : bitsOfBytes (b :: bytes) = bitsOf 8 b.toNat ++ bitsOfBytes bytes := rfl
    rw [hcons, List.length_append, bitsOf_length, ih, List.length_cons]
    omega

theorem targetField_length (r : Record) (k : Nat) (address : Address) :
    (targetField r (.part k) address).length = frameTargetBits r (.part k) := by
  unfold targetField frameTargetBits
  cases broadcastGroup r <;> simp

/-- A broadcast frame is as long as R92 has it. -/
theorem lineFrame_length (r : Record) (k : Nat) (mode : Mode) :
    (lineFrame r (.part k) 0 [] mode).length = frameLength r (.part k) 0 := by
  simp only [lineFrame, coveredBits, List.length_append, bitsOf_length, targetField_length, bitsOfBytes_length,
    List.flatMap_nil, List.length_nil, frameLength]
  omega

theorem frameTargetBits_part_le (r : Record) (k : Nat) : frameTargetBits r (.part k) ≤ 8 := by
  show (if _ then 8 else 0) ≤ 8
  split <;> omega

/-- The plan of a part fits where there is no deadline (R18, R99). -/
theorem planFor_part_short {s : State} {r : Record} (hw : 24 ≤ s.profile.w) (hpayload : r.payload.length ≤ 16)
    (hwindows : r.windows ≤ 31) (k : Nat) (mode : Mode) (lanes : List Phase) :
    (planFor s r (.part k) mode lanes).t ≤ 65535 := by
  have hn := ceilDiv_le (frameLength r (.part k) 0) (bitsAHalf s.profile.w mode)
  have ha := ceilDiv_le 88 (bitsAHalf s.profile.w mode)
  have hbits := frameTargetBits_part_le r k
  have hanswers := Nat.mul_le_mul hwindows ha
  rw [planFor_part hw]
  simp only [frameLength] at hn
  simp only [broadcastLength, frameLength]
  split <;> omega

/-- The item of a record's part. -/
def partItem (r : Record) (k : Nat) (joined : Bool) : WorkItem :=
  { serial := r.serial, work := .part k, joined, priority := r.priority }

section
variable {s : State} {ph : Phase} {h : HalfCycle} {cyc : Cycle} {r : Record} {k : Nat} {joined mf : Bool}

theorem loneBoundary_part (hl : lonePart s ph h cyc r k joined) : LoneBoundary s ph h cyc (partItem r k joined) r := by
  obtain ⟨hready, hlocked, hidle, hstart, hlanes, hqueue, hprofile, hmem, hdeadline, hpayload, hwindows, hlone, hquiet, -⟩ := hl
  exact ⟨hready, hlocked, hidle, hstart, hlanes, hqueue, hmem, rfl, hdeadline, nofun,
    fun mode => planFor_part_short hprofile.1.1 hpayload hwindows k mode [], hlone, hquiet⟩

theorem usable_lonePart (hl : lonePart s ph h cyc r k joined) (hj : joined = true) (q : Phase) :
    usable s q = decide (q = ph) := by
  obtain ⟨-, hlocked, hidle, -, -, -, -, -, -, -, -, -, -, halone⟩ := hl
  by_cases hq : q = ph
  · rw [decide_eq_true hq, hq, usable, phaseTrusted, hidle, hlocked]
    rfl
  · rw [decide_eq_false hq, halone hj q hq]

theorem BoundaryKept.setLane {t : State} (hk : BoundaryKept ph mf s t) (l : Lane) : BoundaryKept ph mf s (setLane t ph l) :=
  ⟨hk.profile, hk.units, hk.records, hk.inFlight, hk.nextExchange, hk.lcm⟩

theorem usable_undeferred (c : State) (q : Phase) : usable (undeferred ph c) q = usable c q :=
  usable_congr (s := c) (t := undeferred ph c) rfl rfl (by
    by_cases hq : q = ph
    · rw [hq, undeferred, laneOf_setLane_self]
    · rw [undeferred, laneOf_setLane_of_ne _ _ hq])

/-- The lane acts on its one part, over itself alone (R72, R73, R78). -/
theorem actOn_part {c : State} (hc : LoneItem c ph (partItem r k joined) r)
    (halone : joined = true → ∀ q, usable c q = decide (q = ph)) (hdeadline : r.deadline = 0)
    (hshort : ∀ mode, (planFor c r (.part k) mode [ph]).t ≤ 65535) :
    ∃ l, l.deferral = 0 ∧ LaneGranted ph (partItem r k joined) r (if joined then [ph] else []) (lcmOf c ph).mode false
      (setLane c ph l) (actOn ph (partItem r k joined) false c) := by
  cases joined with
  | false => exact ⟨{ laneOf c ph with deferral := 0 }, rfl, hc.undeferred.grantOnLane false⟩
  | true =>
    have hgrant := hc.undeferred.reserveLane (fun q => (usable_undeferred c q).trans (halone rfl q)) hdeadline fun mode => by
      rw [planFor_congr (s := c) (t := undeferred ph c) rfl rfl]
      exact hshort mode
    have hstate : reservedState ph (partItem r k true) (undeferred ph c) = setLane c ph { laneOf c ph with
        deferral := 0, state := .reserved, reserved := some { item := partItem r k true, forced := false } } := by
      rw [reservedState, undeferred, laneOf_setLane_self]
      simp only [setLane, putPhase_putPhase]
    rw [hstate] at hgrant
    exact ⟨_, rfl, hgrant⟩

/-- The grant of a part in the claim's words (R57, R90, R97, R99, R101, R102). -/
def partGranted (s t : State) (ph : Phase) (mf joined : Bool) (r : Record) (k : Nat) (units : List Nat) : Prop :=
  ∃ x, (laneOf t ph).state = .sending ∧
      (laneOf t ph).deferral = 0 ∧ t.inFlight = s.inFlight ++ units ∧ t.nextExchange = s.nextExchange + 1 ∧
      (∃ r' ∈ t.records, r'.serial = r.serial ∧ r'.state = .active ∧ r'.flights = r.flights + 1 ∧ r'.stage = r.stage ∧
        r'.roundsSent = r.roundsSent ∧
        r'.parts = partsMoved r.parts (if joined then none else some ph) .offered .inFlight ∧
        r'.targets = r.targets.map fun g => if g.unit ∈ units then { g with inFlight := true } else g) ∧
      (laneOf t ph).exchange = some x ∧ x.exch = s.nextExchange ∧ x.serial = r.serial ∧ x.lineTag = r.tag ∧
      x.work = .part k ∧ x.joined = joined ∧ x.mode = latchedMode s t ph mf ∧
      x.targets = units.map (fun u => (u, ((unitAt s u).address).getD 0)) ∧ x.position = 1 ∧ x.priority = r.priority ∧
      x.forced = false ∧ x.abortDue = none ∧ x.wholeAbort = none ∧ x.heard = [] ∧ x.decodes = [] ∧ x.collided = 0 ∧
      x.frame = lineFrame r (.part k) 0 [] x.mode ∧ (x.boost = true ↔ x.mode = .robust) ∧
      x.plan.kind = .broadcast r.windows ∧ x.plan.lanes = (if joined then [ph] else []) ∧
      x.plan.n = ceilDiv x.frame.length (bitsAHalf s.profile.w x.mode) ∧
      x.plan.a = ceilDiv 88 (bitsAHalf s.profile.w x.mode) ∧
      x.plan.t = if r.windows = 0 then x.plan.n + 1 else x.plan.n + 1 + r.windows * x.plan.a + 1

/-- The granted units are not in flight yet (R57). -/
theorem grantTargets_part_fresh (s : State) (r : Record) (ph : Phase) (k : Nat) (joined : Bool) :
    (grantTargets s r ph (partItem r k joined)).filter (fun u => !s.inFlight.contains u) =
      grantTargets s r ph (partItem r k joined) := by
  refine List.filter_eq_self.2 fun u hu => ?_
  obtain ⟨g, hg, rfl⟩ := List.mem_map.1 hu
  have hfree := (List.mem_filter.1 hg).2
  simp only [Bool.and_eq_true] at hfree
  exact hfree.1.2

theorem grantedRecord_part (ph : Phase) (k : Nat) (joined : Bool) (units : List Nat) (r : Record) :
    (grantedRecord ph (partItem r k joined) units r).targets =
      r.targets.map fun g => if g.unit ∈ units then { g with inFlight := true } else g :=
  List.map_congr_left fun g _ => by simp only [List.contains_iff_mem]

theorem partGranted_of {c t : State} (hkept : BoundaryKept ph mf s c) (hmem : r ∈ s.records)
    (hst : r.state = .ready ∨ r.state = .active) (hw : 24 ≤ s.profile.w) (hdeferral : (laneOf c ph).deferral = 0)
    (hg : LaneGranted ph (partItem r k joined) r (if joined then [ph] else []) (lcmOf c ph).mode false c t)
    (ended : EndedHalf) :
    partGranted s (transmit (boundaryEnd ph mf ended t)) ph mf joined r k
      (grantTargets s r ph (partItem r k joined)) := by
  have hmode := latchedMode_boundary (mf := mf) ended (hg.lcm.trans hkept.lcm)
  have hcmode : (lcmOf c ph).mode = latchedMode s (transmit (boundaryEnd ph mf ended t)) ph mf := by
    rw [hmode, lcmOf_of_lcm hkept.lcm]
  have hframe := boundaryEnd_frame ph mf ended t
  have hunits := grantTargets_congr hkept.units hkept.inFlight r ph (partItem r k joined)
  have hlane : laneOf (transmit (boundaryEnd ph mf ended t)) ph = laneOf t ph := by
    rw [transmit_laneOf, hframe]
    rfl
  have hrecords : (transmit (boundaryEnd ph mf ended t)).records = s.records.map fun q =>
      if q.serial = r.serial then grantedRecord ph (partItem r k joined) (grantTargets s r ph (partItem r k joined)) r
      else q := by
    rw [transmit_records, hframe, ← hkept.records, ← hunits]
    exact hg.records
  have hin : (transmit (boundaryEnd ph mf ended t)).inFlight =
      s.inFlight ++ grantTargets s r ph (partItem r k joined) := by
    rw [← grantTargets_part_fresh, transmit_inFlight, hframe, ← hunits, ← hkept.inFlight]
    exact hg.inFlight
  have hnext : (transmit (boundaryEnd ph mf ended t)).nextExchange = s.nextExchange + 1 := by
    rw [transmit_nextExchange, hframe, ← hkept.nextExchange]
    exact hg.nextExchange
  have hx : (laneOf t ph).exchange = some (exchangeFor s r (partItem r k joined)
      (grantTargets s r ph (partItem r k joined)) (if joined then [ph] else [])
      (latchedMode s (transmit (boundaryEnd ph mf ended t)) ph mf) false 1) := by
    rw [hg.lane, hcmode, exchangeFor_congr hkept.nextExchange hkept.units hkept.profile, hunits]
  have hstate : (laneOf t ph).state = .sending := by rw [hg.lane]
  have hcount : (laneOf t ph).deferral = 0 := by
    rw [hg.lane]
    exact hdeferral
  have hplan := planFor_part hw r k (latchedMode s (transmit (boundaryEnd ph mf ended t)) ph mf)
    (if joined then [ph] else [])
  have hlength := lineFrame_length r k (latchedMode s (transmit (boundaryEnd ph mf ended t)) ph mf)
  unfold partGranted
  rw [hlane, hx]
  refine ⟨_, hstate, hcount, hin, hnext, ?_, rfl, rfl, rfl, rfl, rfl, rfl, rfl, rfl, rfl, rfl, rfl, rfl, rfl, rfl, rfl, rfl,
    rfl, ?_, ?_, ?_, ?_, ?_, ?_⟩
  · refine ⟨grantedRecord ph (partItem r k joined) (grantTargets s r ph (partItem r k joined)) r, ?_, rfl, ?_, rfl, rfl,
      rfl, rfl, grantedRecord_part ..⟩
    · rw [hrecords]
      exact List.mem_map.2 ⟨r, hmem, if_pos rfl⟩
    · show (if r.state = .ready then _ else r.state) = _
      rcases hst with h | h <;> rw [h] <;> rfl
  · exact beq_iff_eq
  · exact congrArg Plan.kind hplan
  · exact congrArg Plan.lanes hplan
  · exact (congrArg Plan.n hplan).trans (congrArg (fun n => ceilDiv n _) hlength.symm)
  · exact congrArg Plan.a hplan
  · exact (congrArg Plan.t hplan).trans
      (congrArg (fun p => broadcastLength (Plan.n p) (Plan.a p) r.windows) hplan.symm)

end

end Sys2Proof.Machine

/-! ## A STOP in the rounds of a record, and the four clauses together: O60 -/

namespace Sys2Proof.Machine

open Sys2Proof.Claims

/-! ### STOP of a free lane (R53, R83) -/

/-- A request that finds room is taken whole, and its response queued (R149). -/
theorem exec_requested {c : Instr} {s : State} {tag : Byte} {rq : Request} (hc : requestOf c = some (tag, rq))
    (hroom : s.uli.responses.length < 4) :
    ∃ u f, exec c s = .next (transmit (respond f (serve rq { s with uli := u }).1)) := by
  refine ⟨(transmit s).uli, { kind := requestKind rq + 0x80, tag, content := (serve rq (transmit s)).2 }, ?_⟩
  rw [exec_of_requestOf hc, intakeRequest_room hroom, ← transmit_rest s]
  rfl

theorem respond_records (f : Frame) (s : State) : (respond f s).records = s.records := by rw [respond_frame]

theorem stopLane_free {s : State} {ph : Phase} (hfree : isOccupied (laneOf s ph).state = false)
    (hne : (laneOf s ph).state ≠ .stopped) : stopLane s ph = enterStopped ph s := by
  cases h : (laneOf s ph).state <;> simp only [h, isOccupied, Bool.true_eq_false, ne_eq, not_true_eq_false] at hfree hne <;>
    simp only [stopLane, h]

theorem serveLaneControl_stop {mask : Byte} {ph : Phase} (hmask : maskLanes mask = [ph]) (hle : mask.toNat ≤ 7) (s : State) :
    (serveLaneControl mask 1 s).1 = tell (askedAfterControl s (stopLane s ph)) (stopLane s ph) := by
  have hhigh : mask.extractLsb' 3 5 = 0 := by
    refine BitVec.eq_of_toNat_eq ?_
    rw [BitVec.extractLsb'_toNat, Nat.shiftRight_eq_div_pow]
    show mask.toNat / 2 ^ 3 % 2 ^ 5 = 0
    omega
  have hgood : ¬(mask.extractLsb' 3 5 ≠ 0 ∨ maskLanes mask = []) := by simp [hhigh, hmask]
  rw [serveLaneControl, if_neg hgood]
  simp only [↓reduceIte, hmask, List.foldl_cons, List.foldl_nil]

theorem askedAfterControl_nodup (s t : State) : (askedAfterControl s t).Nodup := by
  unfold askedAfterControl
  split
  · decide
  · exact usabilityChanged_nodup s t

/-- With one lane out of reach its OFFERED parts are skipped, and no others (R53). -/
theorem map_skipPart_stopped {s : State} {ph : Phase} (hout : inReach s ph = false)
    (hreach : ∀ q, q ≠ ph → inReach s q = true) (ps : List Part) :
    ps.map (skipPart s) = partsMoved ps (some ph) .offered .ended := by
  refine List.map_congr_left fun p _ => ?_
  obtain ⟨lane, standing⟩ := p
  cases standing with
  | offered =>
    cases lane with
    | none =>
      have hany : allPhases.any (inReach s) = true := by
        obtain ⟨q, hq⟩ : ∃ q, q ≠ ph := by cases ph <;> [exact ⟨.B, nofun⟩; exact ⟨.A, nofun⟩; exact ⟨.A, nofun⟩]
        exact List.any_eq_true.2 ⟨q, mem_allPhases q, hreach q hq⟩
      rw [skipPart_joined, if_pos hany]
      rfl
    | some q =>
      rw [skipPart_one]
      by_cases hq : q = ph
      · simp [hq, hout]
      · simp [hq, hreach q hq]
  | inFlight => simp [skipPart]
  | ended => simp [skipPart]

/-- The state in which a STOP has the rounds settled. -/
def stoppedState (ph : Phase) (s : State) : State := setLane s ph (stoppedLane (laneOf s ph))

theorem laneOf_stoppedState (ph : Phase) (s : State) (q : Phase) :
    laneOf (stoppedState ph s) q = if q = ph then stoppedLane (laneOf s ph) else laneOf s q := by
  split
  · rename_i hq
    rw [hq, stoppedState, laneOf_setLane_self]
  · rename_i hq
    rw [stoppedState, laneOf_setLane_of_ne _ _ hq]

theorem inReach_stoppedState (ph : Phase) (s : State) (q : Phase) :
    inReach (stoppedState ph s) q = if q = ph then false else inReach s q := by
  rw [inReach, laneOf_stoppedState]
  split <;> rfl

/-- The queue once a free lane has been stopped: every record's rounds settled, and evaluated after it. -/
theorem stop_records {s : State} {ph : Phase} {mask : Byte} (hs : s.lanesOk) (hmask : maskLanes mask = [ph])
    (hle : mask.toNat ≤ 7) (hfree : isOccupied (laneOf s ph).state = false) (hne : (laneOf s ph).state ≠ .stopped) :
    List.Forall₂ RecordEvaluated (s.records.map (settleRounds (stoppedState ph s) roundFuel))
      (serveLaneControl mask 1 s).1.records := by
  have hclear : ∀ q, armedClear (laneOf (enterStopped ph s) q) := fun q => by
    have hlane : laneOf (enterStopped ph s) q = laneOf (stoppedState ph s) q := by
      rw [enterStopped, settleAllRounds, commitRecords_frame]
      rfl
    rw [hlane, laneOf_stoppedState]
    split
    · exact fun ha => absurd ha nofun
    · exact (hs q).1.armedClear
  have hrecords : (enterStopped ph s).records = s.records.map (settleRounds (stoppedState ph s) roundFuel) :=
    commitRecords_records _ _
  rw [serveLaneControl_stop hmask hle, stopLane_free hfree hne, ← hrecords]
  exact tell_evaluated (askedAfterControl_nodup _ _) hclear

/-! ### The four clauses -/

/-- A round of the record follows the one that ends now (R54). -/
theorem more_iff {r : Record} : (∃ b, r.rounds = some b ∧ r.roundsSent + 1 < b) ↔ r.roundsSent + 1 < r.rounds.getD 0 := by
  cases r.rounds <;> simp

/-- The end report of a part taken: its record's rounds, evaluated after it. -/
theorem exec_partReport {s : State} {before after : List EndReport} {rep : EndReport} {r : Record} (hq : s.queueOk)
    (hs : s.lanesOk) (hends : s.endReports = before ++ rep :: after) (hr : r ∈ s.records) (hserial : r.serial = rep.serial) :
    ∃ t r', exec (.endReport before.length) s = .next t ∧ r' ∈ t.records ∧ r'.serial = r.serial ∧
      RecordEvaluated (settledByReport (releaseUnits rep.units { s with endReports := before ++ after }) rep r) r' := by
  have hlane : ∀ ph, laneOf (applyEndReport rep { s with endReports := before ++ after }) ph = laneOf s ph := fun ph => by
    rw [applyEndReport_frame]
    rfl
  have hclear : ∀ ph, armedClear (laneOf (applyEndReport rep { s with endReports := before ++ after }) ph) :=
    fun ph => hlane ph ▸ (hs ph).1.armedClear
  obtain ⟨r', hr', he⟩ := exists_of_forall₂_left (tell_evaluated (asked := allPhases) (by decide) hclear)
    (applyEndReport_record (s := { s with endReports := before ++ after }) hq hr hserial)
  refine ⟨_, r', by rw [exec_endReport, takeQueueReport_of hends], ?_, he.continues.1.trans (settledByReport_serial _ _ _),
    he⟩
  rw [transmit_records]
  exact hr'

/-- A target as a part's report and the end of its stage leave it (R54, R60). -/
theorem followUp_reported {s : State} {rep : EndReport} {r r' : Record} (hna : rep.notAnswered = none)
    (h : List.Forall₂ TargetUntried (followUp s (reportedRecord s rep r)).targets r'.targets) :
    List.Forall₂ (fun g g' => directPending s g = true → (rep.answered.any fun a => a.1 == g.unit) = false →
      (r.windows = 0 → g'.outcome = .unconfirmed) ∧ (r.windows ≠ 0 → g.attempts = 0 → g'.outcome = .pending))
      r.targets r'.targets := by
  have hpending : ∀ g, directPending s g = true → (rep.answered.any fun a => a.1 == g.unit) = false →
      pendingDirect s (reportedTarget s.profile.retry r.budget rep g) = true := fun g hd ha => by
    rw [pendingDirect_reported hna, hd, ha]
    rfl
  have hattempts : ∀ g, (reportedTarget s.profile.retry r.budget rep g).attempts = g.attempts := fun g =>
    ((reportedTarget_reported _ _ rep g).untried (.inr (by rw [hna]; nofun))).1
  have hends : List.Forall₂ (fun g g' => directPending s g = true → (rep.answered.any fun a => a.1 == g.unit) = false →
      (r.windows = 0 → g'.outcome = .unconfirmed) ∧
        (r.windows ≠ 0 → g'.outcome = .pending ∧ g'.attempts = g.attempts))
      r.targets (followUp s (reportedRecord s rep r)).targets := by
    by_cases h0 : r.windows = 0
    · have heq : (followUp s (reportedRecord s rep r)).targets =
          (r.targets.map (reportedTarget s.profile.retry r.budget rep)).map fun g =>
            if pendingDirect s g then { g with outcome := .unconfirmed } else g := if_pos h0
      rw [heq]
      refine List.forall₂_map_right_iff.2 (List.forall₂_map_right_iff.2 (List.forall₂_same.2 fun g _ hd ha => ?_))
      rw [if_pos (hpending g hd ha)]
      exact ⟨fun _ => rfl, fun hn => absurd h0 hn⟩
    · have heq : (followUp s (reportedRecord s rep r)).targets =
          r.targets.map (reportedTarget s.profile.retry r.budget rep) := if_neg h0
      rw [heq]
      refine List.forall₂_map_right_iff.2 (List.forall₂_same.2 fun g _ hd ha => ?_)
      exact ⟨fun hn => absurd hn h0, fun _ => ⟨pendingDirect_pending (hpending g hd ha), hattempts g⟩⟩
  refine forall₂_comp hends h fun g g1 g' hg hrest hd ha => ?_
  obtain ⟨h0, hn⟩ := hg hd ha
  refine ⟨fun hw => (hrest.outcome (by rw [h0 hw]; nofun)).trans (h0 hw), fun hw hatt => ?_⟩
  obtain ⟨hout, hsame⟩ := hn hw
  exact (hrest.untried (hsame.trans hatt)).trans hout

/-- Settles O60: the stage begun, the part granted, its report taken, and the STOP, each by its own lemma. -/
theorem broadcastRoundsRun : Obligations.BroadcastRoundsRun := by
  refine ⟨fun tag f s set hq hs hroom hpass hrel => ?_, fun ph mf joined o s h cyc r k hl hclear => ?_,
    fun s before after rep r k hq hs hends hr hserial hwork hna => ?_,
    fun tag mask ph s r hq hs hroom hmask hle hfree hne hreach hr hst => ?_⟩
  · intro discover direct parts
    obtain ⟨u, v, d, hexec, -⟩ := exec_submit_passes (tag := tag) hroom hpass
    have hfresh := newRecord_fresh (s := s) hrel (submitKind f) (submitTarget f) set
    obtain ⟨olds, r, hrecords, hr, hdone⟩ := admitNew_ready (s := { s with uli := u }) hs hfresh.ready
    have hid := ((beginStage_chosen (s := { s with uli := u }) hfresh.ready).trans hr.toRecordChosen).continues
    have hbegun := stageBegun_of (s := { s with uli := u }) hfresh hr
    refine ⟨_, olds, r, hexec, hrecords, ?_, fun hend => hbegun.followUp ?_, fun hfirst hw => ?_⟩
    · exact hid.2.1
    · rcases hend with hnot | ⟨hd, hempty⟩
      · exact .inl (not_not.1 (mt (roundsFirst_iff _).2 hnot))
      · refine .inr (Bool.eq_false_iff.2 fun hw => ?_)
        exact ((hasRoundWork_newRecord ..).1 hw).elim (fun h => absurd (h.symm.trans hd) nofun) fun h => h hempty
    have hne : firstStage (submitTarget f) ≠ .followUp := (roundsFirst_iff _).1 hfirst
    have hwork : hasRoundWork { s with uli := u } (newRecord s f (submitKind f) (submitTarget f) set) = true :=
      (hasRoundWork_newRecord ..).2 hw
    have hparts : laidOut s (isDiscover (newRecord s f (submitKind f) (submitTarget f) set))
        (directUnits s (newRecord s f (submitKind f) (submitTarget f) set)) = parts := by
      rw [directUnits_newRecord]
      rfl
    obtain ⟨-, -, -, -, -, -, hrounds, hwindows, -⟩ := hid
    refine ⟨fun hoff => ?_, fun hall => ?_⟩
    · obtain ⟨hstage, hlaid, hsent⟩ := hbegun.runs hne hwork (hparts ▸ hoff)
      exact ⟨hstage.trans (firstStage_broadcast hne), hlaid.trans hparts, hsent⟩
    · obtain ⟨hnone, hsent, hends, hgoes⟩ := hbegun.passes hne hwork (hparts ▸ hall)
      refine ⟨hnone, hrounds.trans hsent, fun hd => ?_, fun hd => ?_⟩
      · obtain ⟨hbegun, hcomplete⟩ := hends hd
        exact ⟨hcomplete, hdone (by rw [isDone, hbegun])⟩
      · obtain ⟨hstage, htargets⟩ := hgoes hd
        refine ⟨hstage, fun g hg hroute => ?_⟩
        obtain ⟨g0, -, hunit, hout⟩ := exists_of_forall₂_right htargets hg
        rw [hwindows]
        refine hout ?_
        show (unitAt s g0.unit).route.isEmpty = true
        rw [← hunit, hroute]
        rfl
  · have hb := loneBoundary_part hl
    have hitem := (hb.loneItem mf).chosen
    have hkept := boundaryKept_chosen ph mf s
    have hexec := hb.exec mf o
    rw [if_pos hclear] at hexec
    have halone : joined = true → ∀ q, usable (choosePending (boundaryStart ph mf s) ph) q = decide (q = ph) := fun hj q =>
      ((sameView_choosePending _ _).usable q).trans
        ((usable_boundaryStart hb.locked mf q).trans (usable_lonePart hl hj q))
    obtain ⟨-, -, -, -, -, -, hprofile, -, -, hpayload, hwindows, -⟩ := hl
    obtain ⟨l, hl, hgrant⟩ := actOn_part hitem halone hb.deadline fun mode => by
      rw [planFor_congr hkept.units hkept.profile]
      exact planFor_part_short hprofile.1.1 hpayload hwindows k mode [ph]
    exact ⟨_, (partGranted_of (hkept.setLane l) hb.mem (state_of_competes hitem.competes) hprofile.1.1
      (by rw [laneOf_setLane_self]; exact hl) hgrant (endedHalf (ptuOf s ph))).imp fun x hx => ⟨hexec, hx⟩⟩
  · intro answered discover direct redone more
    obtain ⟨t, r', hexec, hmem, hser, he⟩ := exec_partReport hq hs hends hr hserial
    refine ⟨t, r', hexec, hmem, hser, fun c hclosing => ?_, fun hrun hreach _ _ parts hoff hend => ?_⟩
    · have hrest := (settledByReport_closing hwork hclosing).trans he.toRoundsRest
      exact ⟨hrest.parts, hrest.roundsSent, hrest.stage⟩
    have hparts : parts = (reportedRecord (releaseUnits rep.units { s with endReports := before ++ after }) rep r).parts := by
      obtain ⟨hoffered, hended⟩ := standingAfter_running (rep := rep) hrun
      rw [reportedRecord_parts hwork]
      by_cases hredone : redone
      · rw [hoff hredone, hoffered hredone]
      · rw [hend hredone, hended hredone]
    have hdirect : directUnits (releaseUnits rep.units { s with endReports := before ++ after })
        (reportedRecord (releaseUnits rep.units { s with endReports := before ++ after }) rep r) = direct :=
      directUnits_reported hna
    have hreported := settledByReport_running (s := releaseUnits rep.units { s with endReports := before ++ after })
      (rep := rep) hreach hrun
    subst hparts
    refine ⟨fun hopen => ?_, fun hne hall => ⟨he.roundsSent.trans (hreported.sent hne hall), fun hm hw => ?_,
      fun hm hd => ?_, fun hd hlast => ?_⟩⟩
    · have hrest := (hreported.runs hopen).trans he.toRoundsRest
      exact ⟨hrest.parts, hrest.roundsSent, hrest.stage⟩
    · have hnext := (hreported.next hne hall (more_iff.1 hm)
        (hasRoundWork_iff.2 (hw.imp_right fun h => hdirect ▸ h))).trans he.toRoundsRest
      rw [hdirect] at hnext
      exact ⟨hnext.stage, hnext.parts⟩
    · obtain ⟨hrest, hdone⟩ := hreported.last hne hall (mt more_iff.2 hm) hd
      refine ⟨he.parts.trans hrest.parts, fun hactive hflights hrounds => ?_⟩
      have hcomplete := hdone hactive hflights hrounds
      rw [he.same (by rw [hcomplete]; nofun) (by rw [hcomplete]; nofun)]
      exact hcomplete
    · obtain ⟨hrest, htargets⟩ := hreported.ended hne hall (fun ⟨hm, hw⟩ => by
        rcases hlast with hnot | hempty
        · exact hnot (more_iff.2 hm)
        · rcases hasRoundWork_iff.1 hw with h | h
          · exact absurd (h.symm.trans hd) nofun
          · exact h (hdirect.trans hempty)) hd
      exact ⟨he.stage.trans hrest.stage, he.parts.trans hrest.parts,
        followUp_reported hna (untried_trans htargets he.untried)⟩
  · intro parts
    obtain ⟨u, f, hexec⟩ := exec_requested (c := .stop tag mask) (rq := .laneControl mask 1) rfl hroom
    have hrecords := stop_records (s := { s with uli := u }) hs hmask hle hfree hne
    have hsettled : settleRounds (stoppedState ph { s with uli := u }) roundFuel r ∈
        s.records.map (settleRounds (stoppedState ph { s with uli := u }) roundFuel) := List.mem_map.2 ⟨r, hr, rfl⟩
    obtain ⟨r', hr', he⟩ := exists_of_forall₂_left hrecords hsettled
    have hskip : r.parts.map (skipPart (stoppedState ph { s with uli := u })) = parts := by
      refine map_skipPart_stopped ((inReach_stoppedState ..).trans (if_pos rfl)) (fun q hq => ?_) r.parts
      exact (inReach_stoppedState ..).trans ((if_neg hq).trans (hreach q hq))
    refine ⟨_, r', hexec, ?_, he.continues.1.trans (settleRounds_chosen _ _ r).continues.1, fun hopen => ?_,
      fun hnonempty hall => ?_⟩
    · rw [transmit_records, respond_records]
      exact hr'
    · rw [← hskip] at hopen ⊢
      rw [roundFuel, settleRounds_open hst hopen] at he
      exact ⟨he.parts, he.roundsSent, he.stage⟩
    · rw [← hskip] at hnonempty hall
      exact (roundsSent_lt_settleRounds hst hnonempty hall 4).trans_eq he.roundsSent.symm

end Sys2Proof.Machine

/-! ## What the lanes' shared operations make of a lane (R66, R67, R69, R80 to R87)

`LaneMoves` says of one lane what choosing again, the notes of aborts and the release of an ARMED part can do to it, with no
premise on the state. `LanesMove` says it of all three, with the ended parts that they leave behind. -/

namespace Sys2Proof.Machine

open Sys2Proof.Claims

/-! ### One lane -/

/-- `laneOk` without its clause on a STOP that waits, which an ARMED lane breaks within the step that releases it (R83). -/
def laneFits (l : Lane) : Prop :=
  (isOccupied l.state = true ↔ l.exchange ≠ none) ∧ (l.state = .reserved ↔ l.reserved ≠ none) ∧
    (∀ x, l.exchange = some x → (l.state = .armed ↔ x.position = 0)) ∧ (l.pauseDue = true → isOccupied l.state = true)

/-- A STOP waits only on a SENDING or LISTENING lane (R83). -/
def stopFits (l : Lane) : Prop := l.stopDue = true → l.state = .sending ∨ l.state = .listening

theorem laneOk_iff (l : Lane) : laneOk l ↔ laneFits l ∧ stopFits l := by
  unfold laneOk laneFits stopFits
  tauto

/-- The exchange is the same but for the aborts noted on it, and an abort due stays due (R81, R87, R112). -/
def sameBut (x y : Exchange) : Prop :=
  y = { x with abortDue := y.abortDue, wholeAbort := y.wholeAbort } ∧ (x.abortDue ≠ none → y.abortDue ≠ none)

theorem sameBut_refl (x : Exchange) : sameBut x x := ⟨rfl, id⟩

theorem sameBut_trans {x y z : Exchange} (h : sameBut x y) (k : sameBut y z) : sameBut x z :=
  ⟨by rw [k.1, h.1], k.2 ∘ h.2⟩

theorem sameBut.exch {x y : Exchange} (h : sameBut x y) : y.exch = x.exch := by rw [h.1]
theorem sameBut.position {x y : Exchange} (h : sameBut x y) : y.position = x.position := by rw [h.1]

/-- What the lanes' shared operations can do to a lane, grants apart. -/
structure LaneMoves (l l' : Lane) : Prop where
  fits : laneFits l → laneFits l'
  stop : stopFits l → stopFits l'
  part : ∀ y, l'.exchange = some y → ∃ x, l.exchange = some x ∧ sameBut x y
  carries : l.state ≠ .armed → l.exchange ≠ none → l'.exchange ≠ none
  stays : l.state ≠ .armed → l.state ≠ .reserved → l'.state = l.state
  reserved : l.state = .reserved → l'.state = .reserved ∨ l'.state = .idle
  pins : l.txen = false ∧ l.drv = false → l'.txen = false ∧ l'.drv = false

namespace LaneMoves

theorem refl (l : Lane) : LaneMoves l l :=
  ⟨id, id, fun y hy => ⟨y, hy, sameBut_refl y⟩, fun _ => id, fun _ _ => rfl, .inl, id⟩

/-- No lane becomes ARMED but by a grant. -/
theorem notArmed {l l' : Lane} (h : LaneMoves l l') (hl : l.state ≠ .armed) : l'.state ≠ .armed := by
  by_cases hr : l.state = .reserved
  · rcases h.reserved hr with h | h <;> rw [h] <;> nofun
  · rwa [h.stays hl hr]

theorem trans {a b c : Lane} (h : LaneMoves a b) (k : LaneMoves b c) : LaneMoves a c where
  fits := k.fits ∘ h.fits
  stop := k.stop ∘ h.stop
  part z hz := by
    obtain ⟨y, hy, hyz⟩ := k.part z hz
    obtain ⟨x, hx, hxy⟩ := h.part y hy
    exact ⟨x, hx, sameBut_trans hxy hyz⟩
  carries ha hx := k.carries (h.notArmed ha) (h.carries ha hx)
  stays ha hr := by
    have hb := h.stays ha hr
    exact (k.stays (hb ▸ ha) (hb ▸ hr)).trans hb
  reserved hr := by
    rcases h.reserved hr with hb | hb
    · exact k.reserved hb
    · exact .inr ((k.stays (by rw [hb]; nofun) (by rw [hb]; nofun)).trans hb)
  pins := k.pins ∘ h.pins

theorem ok {l l' : Lane} (h : LaneMoves l l') (hl : laneOk l) : laneOk l' := by
  rw [laneOk_iff] at hl ⊢
  exact ⟨h.fits hl.1, h.stop hl.2⟩

/-- A lane that sends or listens keeps its state and its exchange, with aborts noted on it at most. -/
theorem running {l l' : Lane} (h : LaneMoves l l') {x : Exchange} (hx : l.exchange = some x)
    (ha : l.state ≠ .armed) (hr : l.state ≠ .reserved) :
    l'.state = l.state ∧ ∃ y, l'.exchange = some y ∧ sameBut x y := by
  obtain ⟨y, hy⟩ := Option.ne_none_iff_exists'.1 (h.carries ha (by rw [hx]; nofun))
  obtain ⟨z, hz, hzy⟩ := h.part y hy
  cases hx.symm.trans hz
  exact ⟨h.stays ha hr, y, hy, hzy⟩

end LaneMoves

theorem chosenLane_moves (cs : List WorkItem) (l : Lane) : LaneMoves l (chosenLane cs l) := by
  cases h : lostReservation cs l with
  | false =>
    rw [chosenLane_kept h]
    exact ⟨id, id, fun y hy => ⟨y, hy, sameBut_refl y⟩, fun _ => id, fun _ _ => rfl, .inl, id⟩
  | true =>
    obtain ⟨hr, -⟩ := lostReservation_iff.1 h
    rw [chosenLane_lost h]
    refine ⟨fun ⟨hocc, _, _, hpause⟩ => ?_, fun hs hd => ?_, fun y hy => ⟨y, hy, sameBut_refl y⟩, fun _ => id,
      fun _ hn => absurd hr hn, fun _ => .inr rfl, id⟩
    · rw [hr] at hocc hpause
      have hx : l.exchange = none := by
        by_contra hx
        exact absurd (hocc.2 hx) (by decide)
      exact ⟨⟨nofun, fun hne => absurd hx hne⟩, ⟨nofun, fun hne => absurd rfl hne⟩,
        fun x hx' => absurd (hx.symm.trans hx') nofun, fun hp => absurd (hpause hp) (by decide)⟩
    · rcases hs hd with h | h <;> cases hr.symm.trans h

/-- Aborts noted on a lane's exchange. -/
theorem moves_of_exchange {l : Lane} {f : Exchange → Exchange} (hf : ∀ x, sameBut x (f x)) :
    LaneMoves l { l with exchange := l.exchange.map f } := by
  refine ⟨fun ⟨hocc, hres, hpos, hpause⟩ => ⟨?_, hres, fun y hy => ?_, hpause⟩, id, fun y hy => ?_, fun _ hx => ?_,
    fun _ _ => rfl, .inl, id⟩
  · rw [hocc, ne_eq, ne_eq, Option.map_eq_none_iff]
  · obtain ⟨x, hx, rfl⟩ := Option.map_eq_some_iff.1 hy
    rw [(hf x).position]
    exact hpos x hx
  · obtain ⟨x, hx, rfl⟩ := Option.map_eq_some_iff.1 hy
    exact ⟨x, hx, hf x⟩
  · rwa [ne_eq, Option.map_eq_none_iff]

theorem notedLane_moves (n : Nat) (c : AbortCause) (l : Lane) : LaneMoves l (notedLane n c l) :=
  moves_of_exchange fun x => by
    split
    · exact ⟨rfl, id⟩
    · exact sameBut_refl x

theorem landedLane_resting (l : Lane) :
    (landedLane l).state = .stopped ∨ (landedLane l).state = .paused ∨ (landedLane l).state = .idle := by
  rw [(landedLane_state l).1]
  split
  · exact .inl rfl
  · split
    · exact .inr (.inl rfl)
    · exact .inr (.inr rfl)

/-- A lane that has landed holds nothing, and nothing waits on it (R74, R83, R84). -/
theorem landedLane_ok {l : Lane} (hx : l.exchange = none) (hr : l.reserved = none) : laneOk (landedLane l) := by
  obtain ⟨-, hs, hp⟩ := landedLane_state l
  have hx' : (landedLane l).exchange = none := (landedLane_kept l).1.trans hx
  have hr' := landedLane_reserved hr
  rw [laneOk, hx', hr', hs, hp]
  rcases landedLane_resting l with h | h | h <;> rw [h] <;> simp [isOccupied]

/-- An ARMED lane is released (R79). -/
theorem landedLane_moves {l m : Lane} (ha : l.state = .armed) (hx : m.exchange = none) (hr : m.reserved = l.reserved)
    (hp : l.txen = false ∧ l.drv = false → m.txen = false ∧ m.drv = false) : LaneMoves l (landedLane m) := by
  obtain ⟨hkept, hlow⟩ := landedLane_kept m
  refine ⟨fun ⟨_, hres, _⟩ => ?_, fun _ hs => ?_, fun y hy => ?_, fun hn => absurd ha hn, fun hn => absurd ha hn,
    fun h => absurd (ha.symm.trans h) nofun, fun hl => ?_⟩
  · have hnone : l.reserved = none := by
      by_contra hne
      exact nomatch ha.symm.trans (hres.2 hne)
    exact ((laneOk_iff _).1 (landedLane_ok hx (hr.trans hnone))).1
  · rw [(landedLane_state m).2.1] at hs
    cases hs
  · rw [hkept, hx] at hy
    cases hy
  · rw [hlow.1, hlow.2]
    exact hp hl

/-! ### All three lanes -/

/-- The ended parts that are kept of the numbered exchange (R111). -/
def partsOf (n : Nat) (s : State) : List EndedPart := s.endedParts.filter fun p => p.exchange.exch == n

/-- No ARMED lane holds a part of the numbered exchange, so none of its parts can be released at once (R79). -/
def noneArmed (n : Nat) (s : State) : Prop :=
  ∀ q x, (laneOf s q).exchange = some x → x.exch = n → (laneOf s q).state ≠ .armed

/-- What the lanes' shared operations can do to the lanes, grants apart. -/
structure LanesMove (s t : State) : Prop where
  lanes : ∀ q, LaneMoves (laneOf s q) (laneOf t q)
  ended : ∀ n, noneArmed n s → partsOf n t = partsOf n s

theorem noneArmed_of_moves {n : Nat} {s t : State} (h : ∀ q, LaneMoves (laneOf s q) (laneOf t q)) (hn : noneArmed n s) :
    noneArmed n t := fun q y hy hyn => by
  obtain ⟨x, hx, hxy⟩ := (h q).part y hy
  exact (h q).notArmed (hn q x hx (hxy.exch.symm.trans hyn))

theorem LanesMove.trans {a b c : State} (h : LanesMove a b) (k : LanesMove b c) : LanesMove a c :=
  ⟨fun q => (h.lanes q).trans (k.lanes q), fun n hn => (k.ended n (noneArmed_of_moves h.lanes hn)).trans (h.ended n hn)⟩

theorem lanesMove_of_eq {s t : State} (hl : t.lanes = s.lanes) (he : t.endedParts = s.endedParts) : LanesMove s t := by
  refine ⟨fun q => ?_, fun n _ => by rw [partsOf, he, partsOf]⟩
  rw [laneOf, laneOf, hl]
  exact .refl _

theorem LanesMove.refl (s : State) : LanesMove s s := lanesMove_of_eq rfl rfl

theorem LanesMove.foldl {α : Type} {f : State → α → State} (h : ∀ s a, LanesMove s (f s a)) :
    ∀ (as : List α) (s : State), LanesMove s (as.foldl f s)
  | [], s => .refl s
  | a :: as, s => (h s a).trans (LanesMove.foldl h as (f s a))

theorem setLane_moves {s : State} {ph : Phase} {l : Lane} (h : LaneMoves (laneOf s ph) l) : LanesMove s (setLane s ph l) := by
  refine ⟨fun q => ?_, fun _ _ => rfl⟩
  by_cases hq : q = ph
  · subst hq
    rwa [laneOf_setLane_self]
  · rw [laneOf_setLane_of_ne _ _ hq]
    exact .refl _

theorem commitRecords_moves (rs : List Record) (s : State) : LanesMove s (commitRecords rs s) := by
  rw [commitRecords_frame]
  exact lanesMove_of_eq rfl rfl

theorem choosePending_moves (s : State) (ph : Phase) : LanesMove s (choosePending s ph) := by
  rw [choosePending_eq]
  exact setLane_moves (chosenLane_moves _ _)

theorem noteWholeAbort_moves (n : Nat) (c : AbortCause) (s : State) : LanesMove s (noteWholeAbort n c s) :=
  ⟨fun q => by rw [noteWholeAbort_lane]; exact notedLane_moves n c _, fun _ _ => rfl⟩

theorem markAbort_moves (ph : Phase) (c : AbortCause) (s : State) : LanesMove s (markAbort ph c s) :=
  setLane_moves (moves_of_exchange fun _ => ⟨rfl, fun _ => nofun⟩)

/-- A part that ends adds itself to its exchange's ended parts, or takes them with it into the reports (R111). -/
theorem endPart_ended {ph : Phase} (c : Option AbortCause) (time : Nat) {s : State} {n : Nat}
    (h : ∀ x, (laneOf s ph).exchange = some x → x.exch ≠ n) : partsOf n (endPart ph c time s) = partsOf n s := by
  cases hx : (laneOf s ph).exchange with
  | none => simp only [endPart, hx]
  | some x =>
    have hne : (x.exch == n) = false := beq_eq_false_iff_ne.2 (h x hx)
    simp only [endPart, hx, partsOf]
    split
    · simp [hne]
    · simp only [setLane_endedParts, List.filter_filter]
      refine List.filter_congr fun p _ => ?_
      by_cases hp : p.exchange.exch = n
      · simp [hp, Ne.symm (h x hx)]
      · simp [hp]

theorem landLane_lanes (ph : Phase) (s : State) (q : Phase) :
    laneOf (landLane ph s) q = if q = ph then landedLane (laneOf s q) else laneOf s q := by
  obtain ⟨rs, e, u, h⟩ := landLane_frame ph s
  rw [h]
  split
  · rename_i hq
    subst hq
    exact atPhase_putPhase_self ..
  · rename_i hq
    exact atPhase_putPhase_of_ne _ _ hq

theorem endPart_other {ph q : Phase} (h : q ≠ ph) (c : Option AbortCause) (time : Nat) (s : State) :
    laneOf (endPart ph c time s) q = laneOf s q := by
  cases hx : (laneOf s ph).exchange with
  | none => simp only [endPart, hx]
  | some x =>
    rw [laneOf, endPart_lanes c time hx]
    exact atPhase_putPhase_of_ne _ _ h

theorem endPart_none {ph : Phase} {s : State} (hx : (laneOf s ph).exchange = none) (c : Option AbortCause) (time : Nat) :
    endPart ph c time s = s := by
  simp only [endPart, hx]

theorem landLane_ended (ph : Phase) (s : State) (n : Nat) : partsOf n (landLane ph s) = partsOf n s := by
  obtain ⟨rs, e, u, h⟩ := landLane_frame ph s
  rw [h]
  rfl

theorem releaseArmed_moves {ph : Phase} {s : State} (h : (laneOf s ph).state = .armed) (c : AbortCause) :
    LanesMove s (releaseArmed ph c s) := by
  refine ⟨fun q => ?_, fun n hn => ?_⟩
  · rw [releaseArmed, landLane_lanes]
    split
    · rename_i hq
      subst hq
      cases hx : (laneOf s q).exchange with
      | none =>
        rw [endPart_none hx]
        exact landedLane_moves h hx rfl id
      | some x =>
        rw [endPart_lane _ _ hx]
        exact landedLane_moves h rfl rfl fun _ => ⟨rfl, rfl⟩
    · rename_i hq
      rw [endPart_other hq]
      exact .refl _
  · rw [releaseArmed, landLane_ended]
    exact endPart_ended _ _ fun x hx hxn => hn ph x hx hxn h

theorem abortPart_moves (c : AbortCause) (ph : Phase) (s : State) : LanesMove s (abortPart c ph s) := by
  unfold abortPart
  split
  · exact releaseArmed_moves ‹_› c
  · exact markAbort_moves ph c s

theorem abortExchange_moves (c : AbortCause) (x : Exchange) (ph : Phase) (s : State) :
    LanesMove s (abortExchange c x ph s) := by
  unfold abortExchange
  split
  · exact (noteWholeAbort_moves _ c s).trans (LanesMove.foldl (fun s p => abortPart_moves c p s) _ _)
  · exact abortPart_moves c ph s

theorem preemptionTest_moves (s : State) (ph : Phase) : LanesMove s (preemptionTest s ph) := by
  unfold preemptionTest
  split
  · exact .refl s
  · split
    · exact abortExchange_moves _ _ _ s
    · exact .refl s

/-- Choosing again, with the preemption tests (R69, R80). -/
theorem tell_moves (asked : List Phase) (s : State) : LanesMove s (tell asked s) := by
  rw [tell_eq]
  split
  · exact .refl s
  · exact (commitRecords_moves _ s).trans (((LanesMove.foldl choosePending_moves _ _).trans
      (LanesMove.foldl preemptionTest_moves _ _)).trans (LanesMove.foldl choosePending_moves _ _))

theorem takeAbortRequest_moves (q : AbortRequest) (s : State) : LanesMove s (takeAbortRequest q s) := by
  unfold takeAbortRequest
  split
  · exact .refl s
  · split
    · exact (noteWholeAbort_moves _ _ s).trans (abortPart_moves _ _ _)
    · exact .refl s

end Sys2Proof.Machine

/-! ## Grants and aborts said once for the lanes they reach

The inversion of the two kinds of grant, with the lanes of a joined one written out, and the lanes that an abort of an
exchange leaves, also where a STOP has just been noted on an ARMED lane (R83). -/

namespace Sys2Proof.Machine

open Sys2Proof.Claims

/-! ### Lanes changed one after the other -/

/-- Changes of single lanes made in turn, each of which reads its own lane alone. -/
theorem foldl_lanes {f : State → Phase → State} {g : Phase → Lane → Lane}
    (hf : ∀ s p, f s p = setLane s p (g p (laneOf s p))) : ∀ {ps : List Phase} (_ : ps.Nodup) (s : State),
    ps.foldl f s = { s with lanes := perPhase fun q => if q ∈ ps then g q (laneOf s q) else laneOf s q }
  | [], _, s => by
    have hl : (perPhase fun q => if q ∈ ([] : List Phase) then g q (laneOf s q) else laneOf s q) = s.lanes :=
      perPhase_ext fun q => (atPhase_perPhase _ q).trans (if_neg List.not_mem_nil)
    rw [List.foldl_nil, hl]
  | p :: ps, hn, s => by
    obtain ⟨hp, hn⟩ := List.nodup_cons.1 hn
    rw [List.foldl_cons, foldl_lanes hf hn, hf]
    refine congrArg (fun ls => { s with lanes := ls }) (perPhase_ext fun q => ?_)
    rw [atPhase_perPhase, atPhase_perPhase]
    by_cases hq : q = p
    · subst hq
      rw [if_neg hp, if_pos List.mem_cons_self, laneOf_setLane_self]
    · rw [laneOf_setLane_of_ne _ _ hq]
      simp only [List.mem_cons, hq, false_or]

/-! ### Aborts -/

/-- An ARMED lane holds its part (R67). -/
def armedHolds (l : Lane) : Prop := l.state = .armed → l.exchange ≠ none

theorem laneOk.armedHolds {l : Lane} (h : laneOk l) : armedHolds l := fun ha => (h.armedClear ha).1

theorem abortPart_lanes (c : AbortCause) {ph : Phase} {s : State} (h : armedHolds (laneOf s ph)) (q : Phase) :
    laneOf (abortPart c ph s) q = if q = ph then abortedLane c (laneOf s q) else laneOf s q := by
  by_cases hq : q = ph
  · subst hq
    rw [if_pos rfl, abortPart, abortedLane]
    split
    · rename_i ha
      obtain ⟨x, hx⟩ := Option.ne_none_iff_exists'.1 (h ha)
      rw [releaseArmed, landLane_lane, endPart_lane _ _ hx]
    · exact laneOf_setLane_self ..
  · rw [if_neg hq, abortPart]
    split
    · rw [releaseArmed, landLane_lanes, if_neg hq, endPart_other hq]
    · exact laneOf_setLane_of_ne _ _ hq

theorem abortedLane_holds (c : AbortCause) (l : Lane) : armedHolds (abortedLane c l) := fun ha =>
  (abortedLane_clear c l ha).1

theorem foldl_abortPart_lanes (c : AbortCause) : ∀ {ps : List Phase} (_ : ps.Nodup) {s : State}
    (_ : ∀ p, armedHolds (laneOf s p)) (q : Phase), laneOf (ps.foldl (fun st p => abortPart c p st) s) q =
      if q ∈ ps then abortedLane c (laneOf s q) else laneOf s q
  | [], _, _, _, _ => (if_neg List.not_mem_nil).symm
  | p :: ps, hn, s, h, q => by
    obtain ⟨hp, hn⟩ := List.nodup_cons.1 hn
    have hlane := abortPart_lanes c (h p)
    rw [List.foldl_cons, foldl_abortPart_lanes c hn fun r => by
      rw [hlane]
      split
      · exact abortedLane_holds _ _
      · exact h r]
    rw [hlane]
    by_cases hq : q = p
    · subst hq
      rw [if_neg hp, if_pos rfl, if_pos List.mem_cons_self]
    · simp only [List.mem_cons, hq, false_or, if_false]

/-- The abort of an exchange, lane by lane (R81, R83). -/
theorem abortExchange_lane (c : AbortCause) (x : Exchange) (ph : Phase) {s : State} (h : ∀ p, armedHolds (laneOf s p))
    (q : Phase) : laneOf (abortExchange c x ph s) q =
      if abortReaches s x ph q then abortedWhole c x (laneOf s q) else laneOf s q := by
  unfold abortExchange abortReaches abortedWhole
  cases x.joined with
  | false =>
    simp only [Bool.false_eq_true, ↓reduceIte, beq_iff_eq]
    exact abortPart_lanes c (h ph) q
  | true =>
    have hnodup : (allPhases.filter (holdsExchange x.exch s)).Nodup := List.Nodup.filter _ (by decide)
    simp only [↓reduceIte]
    rw [foldl_abortPart_lanes c hnodup fun p => by
      rw [noteWholeAbort_lane]
      exact fun ha hx => h p ha (Option.map_eq_none_iff.1 hx)]
    rw [noteWholeAbort_lane]
    simp only [List.mem_filter, mem_allPhases, true_and]
    split
    · rfl
    · rename_i hq
      exact notedLane_other fun y hy hn => hq (holdsExchange_iff.2 ⟨y, hy, hn⟩)

/-! ### What a grant leaves of the queue -/

theorem applyGrant_frame (ph : Phase) (i : WorkItem) (units : List Nat) (s : State) :
    ∃ rs fl e u, applyGrant ph i units s = { s with records := rs, inFlight := fl, events := e, uli := u } := by
  cases hr : recordOf s i.serial with
  | none => exact ⟨_, _, _, _, applyGrant_none hr⟩
  | some r =>
    rw [applyGrant_some hr, putRecord, commitRecords_frame]
    exact ⟨_, _, _, _, rfl⟩

theorem reportBroken_frame (serial unit : Nat) (s : State) :
    ∃ rs e u, reportBroken serial unit s = { s with records := rs, events := e, uli := u } := by
  unfold reportBroken
  split
  · exact ⟨_, _, _, rfl⟩
  · exact ⟨_, _, _, commitRecords_frame _ s⟩

/-- The walk changes no lane: it reports broken routes to the queue (R71). -/
theorem walkCandidates_frame (ph : Phase) : ∀ (cs : List WorkItem) (s : State),
    ∃ rs e u, (walkCandidates ph cs s).1 = { s with records := rs, events := e, uli := u }
  | [], s => ⟨_, _, _, rfl⟩
  | i :: rest, s => by
    unfold walkCandidates
    split
    · split
      · obtain ⟨rs, e, u, h⟩ := reportBroken_frame i.serial _ s
        obtain ⟨rs', e', u', h'⟩ := walkCandidates_frame ph rest (reportBroken i.serial _ s)
        exact ⟨rs', e', u', h'.trans (by rw [h])⟩
      · split
        · exact ⟨_, _, _, rfl⟩
        · exact walkCandidates_frame ph rest s
    · split
      · exact ⟨_, _, _, rfl⟩
      · exact walkCandidates_frame ph rest s

/-! ### Grants -/

/-- A lane of the set as a joined grant at the boundary of lane `ph` leaves it (R78). -/
def joinedLane (s : State) (r : Record) (i : WorkItem) (ph q : Phase) : Lane :=
  { laneOf s q with
    state := if q = ph then .sending else .armed
    reserved := none
    exchange := some (exchangeFor s r i (grantTargets s r ph i) (allPhases.filter (usable s)) (jointMode s)
      (reservationForced s q) (if q = ph then 1 else 0)) }

/-- The lanes of the set with the joined exchange, the next number used up (R78, log 18). -/
def joinedState (s : State) (r : Record) (i : WorkItem) (ph : Phase) : State :=
  { s with
    nextExchange := s.nextExchange + 1
    lanes := perPhase fun q => if usable s q then joinedLane s r i ph q else laneOf s q }

theorem laneOf_joinedState (s : State) (r : Record) (i : WorkItem) (ph q : Phase) :
    laneOf (joinedState s r i ph) q = if usable s q then joinedLane s r i ph q else laneOf s q := atPhase_perPhase _ q

/-- The tests that a joined grant passes before its deadlines are tested (R75, R78). -/
def joinedReady (s : State) (i : WorkItem) (ph : Phase) : Prop :=
  (∀ q, usable s q = true → reservedFor s i q = true) ∧ usable s ph = true ∧ (offersTo s ph).any (sameItem i) = true

theorem joinedReady_iff (s : State) (i : WorkItem) (ph : Phase) :
    ((allPhases.filter (usable s)).all (reservedFor s i) && (allPhases.filter (usable s)).contains ph &&
      (offersTo s ph).any (sameItem i)) = true ↔ joinedReady s i ph := by
  unfold joinedReady
  simp [mem_allPhases, and_assoc, or_iff_not_imp_left]

/-- The lanes of the set whose deadline test fails (R78). -/
def joinedFailing (s : State) (r : Record) (i : WorkItem) (ph : Phase) : List Phase :=
  (allPhases.filter (usable s)).filter fun p =>
    decide (halfCyclesRemaining s p r.deadline <
      if p = ph then (planFor s r i.work (jointMode s) (allPhases.filter (usable s))).t
      else (planFor s r i.work (jointMode s) (allPhases.filter (usable s))).t + 1)

theorem joinedGrant_unready {s : State} {i : WorkItem} {ph : Phase} (h : ¬joinedReady s i ph) : joinedGrant ph i s = s := by
  rw [← joinedReady_iff] at h
  rw [joinedGrant, if_neg h]

theorem joinedGrant_ready {s : State} {i : WorkItem} {ph : Phase} {r : Record} (h : joinedReady s i ph)
    (hr : recordOf s i.serial = some r) :
    joinedGrant ph i s =
      if joinedFailing s r i ph ≠ [] then (joinedFailing s r i ph).foldl releaseReserved s
      else tell (otherLanes ph) (applyGrant ph i (grantTargets s r ph i) (joinedState s r i ph)) := by
  rw [← joinedReady_iff] at h
  have hfold := foldl_lanes (f := fun st p =>
      if p = ph then occupy p .sending (exchangeFor s r i (grantTargets s r ph i) (allPhases.filter (usable s)) (jointMode s)
        (reservationForced s p) 1) st
      else occupy p .armed (exchangeFor s r i (grantTargets s r ph i) (allPhases.filter (usable s)) (jointMode s)
        (reservationForced s p) 0) st)
    (g := fun q l => { l with
      state := if q = ph then .sending else .armed
      reserved := none
      exchange := some (exchangeFor s r i (grantTargets s r ph i) (allPhases.filter (usable s)) (jointMode s)
        (reservationForced s q) (if q = ph then 1 else 0)) })
    (fun st p => by by_cases hp : p = ph <;> simp only [hp, ↓reduceIte, occupy])
    (ps := allPhases.filter (usable s)) (List.Nodup.filter _ (by decide)) { s with nextExchange := s.nextExchange + 1 }
  simp only [List.mem_filter, mem_allPhases, true_and] at hfold
  rw [joinedGrant, if_pos h]
  simp only [hr]
  rw [hfold]
  rfl

theorem joinedGrant_gone {s : State} {i : WorkItem} {ph : Phase} (hr : recordOf s i.serial = none) :
    joinedGrant ph i s = s := by
  unfold joinedGrant
  simp only [hr, ite_self]

/-- A joined grant that is tested does nothing, releases the lanes whose deadline test fails, or is made whole. -/
theorem joinedGrant_cases (ph : Phase) (i : WorkItem) (s : State) :
    joinedGrant ph i s = s ∨ (∃ ps : List Phase, joinedGrant ph i s = ps.foldl releaseReserved s) ∨
      ∃ r, joinedReady s i ph ∧ recordOf s i.serial = some r ∧
        joinedGrant ph i s = tell (otherLanes ph) (applyGrant ph i (grantTargets s r ph i) (joinedState s r i ph)) := by
  by_cases h : joinedReady s i ph
  · cases hr : recordOf s i.serial with
    | none => exact .inl (joinedGrant_gone hr)
    | some r =>
      rw [joinedGrant_ready h hr]
      split
      · exact .inr (.inl ⟨_, rfl⟩)
      · exact .inr (.inr ⟨r, h, rfl, rfl⟩)
  · exact .inl (joinedGrant_unready h)

/-- The lane with the exchange of a per-lane grant, the next number used up (R73, log 18). -/
def grantedState (s : State) (r : Record) (i : WorkItem) (ph : Phase) (forced : Bool) : State :=
  occupy ph .sending (exchangeFor s r i (grantTargets s r ph i) [] (lcmOf s ph).mode forced 1)
    { s with nextExchange := s.nextExchange + 1 }

theorem laneOf_grantedState (s : State) (r : Record) (i : WorkItem) (ph : Phase) (forced : Bool) (q : Phase) :
    laneOf (grantedState s r i ph forced) q = if q = ph then { laneOf s q with
      state := .sending
      reserved := none
      exchange := some (exchangeFor s r i (grantTargets s r ph i) [] (lcmOf s ph).mode forced 1) } else laneOf s q := by
  split
  · rename_i hq
    subst hq
    exact laneOf_setLane_self ..
  · rename_i hq
    exact laneOf_setLane_of_ne _ _ hq

theorem grantOnLane_cases (ph : Phase) (i : WorkItem) (forced : Bool) (s : State) :
    grantOnLane ph i forced s = s ∨ ∃ r, recordOf s i.serial = some r ∧
      grantOnLane ph i forced s =
        tell (otherLanes ph) (applyGrant ph i (grantTargets s r ph i) (grantedState s r i ph forced)) := by
  unfold grantOnLane
  split
  · cases hr : recordOf s i.serial with
    | none => exact .inl rfl
    | some r => exact .inr ⟨r, rfl, rfl⟩
  · exact .inl rfl

end Sys2Proof.Machine

/-! ## Lane states at all times (R66, R67, R73, R83, R84): O11

`LanesKept` carries the agreement of every lane's state with what it holds through every operation. What is no grant does
it lane by lane; a grant takes a fresh exchange number (log 18). -/

namespace Sys2Proof.Machine

open Sys2Proof.Claims

/-! ### The relation -/

/-- The agreement of the lanes' states with what they hold is carried from one state to another. -/
def LanesKept (s t : State) : Prop := s.lanesOk → t.lanesOk

theorem LanesKept.refl (s : State) : LanesKept s s := id

theorem LanesKept.trans {a b c : State} (h : LanesKept a b) (k : LanesKept b c) : LanesKept a c := k ∘ h

theorem LanesKept.foldl {α : Type} {f : State → α → State} (h : ∀ s a, LanesKept s (f s a)) :
    ∀ (as : List α) (s : State), LanesKept s (as.foldl f s)
  | [], s => .refl s
  | a :: as, s => (h s a).trans (LanesKept.foldl h as (f s a))

/-- A lane that stays sound and takes no exchange of another number. -/
structure LaneStays (l l' : Lane) : Prop where
  ok : laneOk l → laneOk l'
  number : ∀ y, l'.exchange = some y → ∃ x, l.exchange = some x ∧ y.exch = x.exch

theorem LaneStays.refl (l : Lane) : LaneStays l l := ⟨id, fun y hy => ⟨y, hy, rfl⟩⟩

theorem LaneMoves.lane {l l' : Lane} (h : LaneMoves l l') : LaneStays l l' :=
  ⟨h.ok, fun y hy => by
    obtain ⟨x, hx, hxy⟩ := h.part y hy
    exact ⟨x, hx, hxy.exch⟩⟩

/-- A lane that comes to hold nothing. -/
theorem laneStays_of_empty {l l' : Lane} (h : laneOk l → laneOk l') (hx : l'.exchange = none) : LaneStays l l' :=
  ⟨h, fun y hy => by
    rw [hx] at hy
    cases hy⟩

theorem lanesKept_of_lanes {s t : State} (hn : t.nextExchange = s.nextExchange)
    (h : ∀ q, laneOk (laneOf s q) → LaneStays (laneOf s q) (laneOf t q)) : LanesKept s t := fun hs q => by
  obtain ⟨hok, hnumber⟩ := hs q
  refine ⟨(h q hok).ok hok, fun y hy => ?_⟩
  obtain ⟨x, hx, hxy⟩ := (h q hok).number y hy
  rw [hn, hxy]
  exact hnumber x hx

theorem lanesKept_of_eq {s t : State} (hl : t.lanes = s.lanes) (hn : t.nextExchange = s.nextExchange) : LanesKept s t :=
  lanesKept_of_lanes hn fun q _ => by
    rw [laneOf, laneOf, hl]
    exact .refl _

/-- Where a state differs in nothing that the relation speaks of, what is kept after it is kept before it. -/
theorem LanesKept.after {s s' t : State} (k : LanesKept s' t) (hl : s'.lanes = s.lanes)
    (hn : s'.nextExchange = s.nextExchange) : LanesKept s t := (lanesKept_of_eq hl hn).trans k

theorem LanesMove.kept {s t : State} (h : LanesMove s t) (hn : t.nextExchange = s.nextExchange) : LanesKept s t :=
  lanesKept_of_lanes hn fun q _ => (h.lanes q).lane

theorem setLane_kept {s : State} {ph : Phase} {l : Lane} (h : laneOk (laneOf s ph) → LaneStays (laneOf s ph) l) :
    LanesKept s (setLane s ph l) := lanesKept_of_lanes rfl fun q hq => by
  by_cases hp : q = ph
  · subst hp
    rw [laneOf_setLane_self]
    exact h hq
  · rw [laneOf_setLane_of_ne _ _ hp]
    exact .refl _

theorem lanesKept_ite {c : Prop} [Decidable c] {s t : State} (h : LanesKept s t) : LanesKept s (if c then t else s) := by
  split
  · exact h
  · exact .refl s

theorem tell_kept (asked : List Phase) (s : State) : LanesKept s (tell asked s) :=
  (tell_moves asked s).kept (tell_work asked s).nextExchange

theorem commitRecords_lanes (rs : List Record) (s : State) : LanesKept s (commitRecords rs s) :=
  (commitRecords_moves rs s).kept (by rw [commitRecords_frame])

theorem transmit_lanesKept (s : State) : LanesKept s (transmit s) := lanesKept_of_eq (transmit_lanes s) (transmit_nextExchange s)

theorem raise_lanesKept (f : Flag) (s : State) : LanesKept s (raise f s) := by
  rw [raise_frame]
  exact lanesKept_of_eq rfl rfl

theorem raiseIf_lanesKept (c : Bool) (f : Flag) (s : State) : LanesKept s (raiseIf c f s) :=
  lanesKept_ite (raise_lanesKept f s)

/-! ### Lanes that are freed, stopped, paused and resumed -/

/-- A free lane is given nothing to hold, and no STOP and no PAUSE waits on it (R83, R84). -/
theorem laneOk.restful {l : Lane} (hl : laneOk l) (h : isOccupied l.state = false) :
    l.exchange = none ∧ l.stopDue = false ∧ l.pauseDue = false := by
  obtain ⟨-, -, -, hstop, hpause⟩ := id hl
  refine ⟨hl.exchange_none h, Bool.eq_false_iff.2 fun hs => ?_, Bool.eq_false_iff.2 fun hp => ?_⟩
  · rcases hstop hs with h' | h' <;> rw [h'] at h <;> cases h
  · exact absurd ((hpause hp).symm.trans h) (by decide)

/-- A lane that holds nothing and waits for nothing, in a state that goes with that. -/
theorem laneOk_of_empty {l : Lane} (hx : l.exchange = none) (hr : l.reserved = none) (hocc : isOccupied l.state = false)
    (hres : l.state ≠ .reserved) (hs : l.stopDue = false) (hp : l.pauseDue = false) : laneOk l := by
  rw [laneOk, hx, hr, hs, hp, hocc]
  simp [hres]

theorem stoppedLane_stays {l : Lane} (h : isOccupied l.state = false) : laneOk l → LaneStays l (stoppedLane l) := fun hl =>
  laneStays_of_empty (fun _ => laneOk_of_empty (hl.restful h).1 rfl rfl nofun rfl rfl) (hl.restful h).1

theorem pausedLane_stays {l : Lane} (h : isOccupied l.state = false) : laneOk l → LaneStays l (pausedLane l) := fun hl => by
  obtain ⟨hx, hs, -⟩ := hl.restful h
  exact laneStays_of_empty (fun _ => laneOk_of_empty hx rfl rfl nofun hs rfl) hx

theorem landedLane_stays {l : Lane} (h : l.state ≠ .reserved) : laneOk l → LaneStays l (landedLane (freedLane l)) := fun hl =>
  laneStays_of_empty (fun _ => landedLane_ok rfl (hl.reserved_none h)) (landedLane_kept _).1

/-- A free lane put into another state in which it holds nothing. -/
theorem laneStays_resting {l : Lane} (hl : laneOk l) (h : isOccupied l.state = false) (hres : l.state ≠ .reserved)
    {st : LaneState} (hocc' : isOccupied st = false) (hres' : st ≠ .reserved) (n : Nat) :
    LaneStays l { l with state := st, settling := n } := by
  obtain ⟨hx, hs, hp⟩ := hl.restful h
  exact laneStays_of_empty (fun _ => laneOk_of_empty hx (hl.reserved_none hres) hocc' hres' hs hp) hx

theorem not_reserved_of_occupied {l : Lane} (h : isOccupied l.state = true) : l.state ≠ .reserved := fun hr => by
  rw [hr] at h
  cases h

theorem laneOk.occupied {l : Lane} (hl : laneOk l) {x : Exchange} (hx : l.exchange = some x) :
    isOccupied l.state = true := hl.1.2 (by rw [hx]; nofun)

/-- An exchange that has left its lane leaves it sound (R74, R86, R109). -/
theorem endAndLand_lanesKept {ph : Phase} {s : State} {x : Exchange} (hx : (laneOf s ph).exchange = some x)
    (c : Option AbortCause) (time : Nat) : LanesKept s (landLane ph (endPart ph c time s)) :=
  lanesKept_of_lanes ((endPart_work ph c time s).trans (landLane_work ph _)).nextExchange fun q hq => by
    rw [landLane_lanes]
    split
    · rename_i hp
      subst hp
      rw [endPart_lane _ _ hx]
      exact landedLane_stays (not_reserved_of_occupied (hq.occupied hx)) hq
    · rename_i hp
      rw [endPart_other hp]
      exact .refl _

theorem enterStopped_lanesKept {ph : Phase} {s : State} (h : isOccupied (laneOf s ph).state = false) :
    LanesKept s (enterStopped ph s) := (setLane_kept (stoppedLane_stays h)).trans (commitRecords_lanes _ _)

/-- The lane as a STOP finds it ARMED, with the STOP noted (R83). -/
def stopNoted (ph : Phase) (s : State) : State := setLane s ph { laneOf s ph with stopDue := true }

theorem laneOf_stopNoted (ph : Phase) (s : State) (q : Phase) :
    laneOf (stopNoted ph s) q = if q = ph then { laneOf s q with stopDue := true } else laneOf s q := by
  split
  · rename_i hq
    subst hq
    exact laneOf_setLane_self ..
  · rename_i hq
    exact laneOf_setLane_of_ne _ _ hq

/-- A STOP of an ARMED lane releases it to STOPPED, and reaches the other parts of a joined exchange (R83, R109). -/
theorem stopArmed_lane {ph : Phase} {s : State} (hs : s.lanesOk) {x : Exchange} (hx : (laneOf s ph).exchange = some x)
    (q : Phase) : laneOf (abortExchange .stopped x ph (stopNoted ph s)) q =
      if q = ph then abortedWhole .stopped x { laneOf s ph with stopDue := true }
      else if x.joined = true ∧ holdsExchange x.exch s q = true then abortedWhole .stopped x (laneOf s q)
      else laneOf s q := by
  have hholds : ∀ p, armedHolds (laneOf (stopNoted ph s) p) := fun p => by
    rw [laneOf_stopNoted]
    split <;> exact (hs p).1.armedHolds
  have hsame : ∀ p, holdsExchange x.exch (stopNoted ph s) p = holdsExchange x.exch s p := fun p => by
    have he : (laneOf (stopNoted ph s) p).exchange = (laneOf s p).exchange := by
      rw [laneOf_stopNoted]
      split <;> rfl
    rw [holdsExchange, he, holdsExchange]
  rw [abortExchange_lane .stopped x ph hholds, laneOf_stopNoted, abortReaches, hsame]
  by_cases hq : q = ph
  · subst hq
    have hh : holdsExchange x.exch s q = true := holdsExchange_iff.2 ⟨x, hx, rfl⟩
    simp [hh]
  · simp only [hq, beq_eq_false_iff_ne.2 hq, ↓reduceIte]
    cases x.joined <;> simp

/-- The lane that a STOP finds ARMED (R83). -/
theorem stopArmed_landed (x : Exchange) {l : Lane} (h : l.state = .armed) :
    ∃ m, abortedWhole .stopped x { l with stopDue := true } = landedLane (freedLane m) ∧ m.stopDue = true ∧
      m.reserved = l.reserved := by
  unfold abortedWhole
  split
  · exact ⟨notedLane x.exch .stopped { l with stopDue := true }, abortedLane_armed h, rfl, rfl⟩
  · exact ⟨{ l with stopDue := true }, abortedLane_armed h, rfl, rfl⟩

theorem stopArmed_lanesKept {ph : Phase} {s : State} {x : Exchange} (ha : (laneOf s ph).state = .armed)
    (hx : (laneOf s ph).exchange = some x) : LanesKept s (abortExchange .stopped x ph (stopNoted ph s)) := fun hs => by
  have hwork := (laneWork_setLane s ph { laneOf s ph with stopDue := true }).trans (abortExchange_work .stopped x ph _)
  have hmoves := abortExchange_moves .stopped x ph (stopNoted ph s)
  refine lanesKept_of_lanes hwork.nextExchange (fun q hq => ?_) hs
  by_cases hp : q = ph
  · subst hp
    obtain ⟨m, hm, -, hr⟩ := stopArmed_landed x ha
    have hlane := (stopArmed_lane hs hx q).trans (if_pos rfl)
    show LaneStays _ (laneOf (abortExchange .stopped x q (stopNoted q s)) q)
    rw [hlane, hm]
    have hnone : m.reserved = none := hr.trans (hq.reserved_none (by rw [ha]; nofun))
    exact laneStays_of_empty (fun _ => landedLane_ok rfl hnone) (landedLane_kept _).1
  · have hlane := hmoves.lanes q
    rw [laneOf_stopNoted, if_neg hp] at hlane
    exact hlane.lane

/-- A SENDING or LISTENING lane with its STOP noted (R83). -/
theorem laneStays_stopDue {l : Lane} (h : l.state = .sending ∨ l.state = .listening) :
    LaneStays l { l with stopDue := true } :=
  ⟨fun ⟨hocc, hres, hpos, _, hpause⟩ => ⟨hocc, hres, hpos, fun _ => h, hpause⟩, fun y hy => ⟨y, hy, rfl⟩⟩

theorem stopRunning_lanesKept {ph : Phase} {s : State} (h : (laneOf s ph).state = .sending ∨ (laneOf s ph).state = .listening) :
    LanesKept s (markAbort ph .stopped (stopNoted ph s)) :=
  (setLane_kept fun _ => laneStays_stopDue h).trans ((markAbort_moves ph .stopped _).kept rfl)

theorem stopLane_lanesKept (s : State) (ph : Phase) : LanesKept s (stopLane s ph) := by
  unfold stopLane
  dsimp only
  have hfree : ∀ {st}, (laneOf s ph).state = st → isOccupied st = false → LanesKept s (enterStopped ph s) := fun h hocc =>
    enterStopped_lanesKept (by rw [h]; exact hocc)
  split
  · exact hfree ‹_› rfl
  · exact hfree ‹_› rfl
  · exact hfree ‹_› rfl
  · exact hfree ‹_› rfl
  · rename_i ha
    split
    · rename_i hx
      exact fun hs => absurd hx ((hs ph).1.armedHolds ha)
    · rename_i x hx
      exact stopArmed_lanesKept ha hx
  · exact stopRunning_lanesKept (.inl ‹_›)
  · exact stopRunning_lanesKept (.inr ‹_›)
  · exact .refl s

theorem pauseLane_lanesKept (s : State) (ph : Phase) : LanesKept s (pauseLane s ph) := by
  unfold pauseLane
  dsimp only
  have hfree : ∀ {st}, (laneOf s ph).state = st → isOccupied st = false →
      LanesKept s (setLane s ph (pausedLane (laneOf s ph))) := fun h hocc => setLane_kept (pausedLane_stays (by rw [h]; exact hocc))
  have hdue : ∀ {st}, (laneOf s ph).state = st → isOccupied st = true →
      LanesKept s (setLane s ph { laneOf s ph with pauseDue := true }) := fun h hocc =>
    setLane_kept fun _ => ⟨fun ⟨ho, hres, hpos, hstop, _⟩ => ⟨ho, hres, hpos, hstop, fun _ => by
      show isOccupied (laneOf s ph).state = true
      rw [h]
      exact hocc⟩, fun y hy => ⟨y, hy, rfl⟩⟩
  split
  · exact hfree ‹_› rfl
  · exact hfree ‹_› rfl
  · exact hfree ‹_› rfl
  · exact hdue ‹_› rfl
  · exact hdue ‹_› rfl
  · exact hdue ‹_› rfl
  · exact .refl s
  · exact .refl s

theorem laneSeen_lanesKept (ph : Phase) (s : State) : LanesKept s (laneSeen ph s) := by
  unfold laneSeen
  split
  · exact .refl s
  · exact lanesKept_of_eq rfl rfl

theorem resumeLane_lanesKept (s : State) (ph : Phase) : LanesKept s (resumeLane s ph) := by
  unfold resumeLane
  dsimp only
  have hset : ∀ {st}, (laneOf s ph).state = st → isOccupied st = false → st ≠ .reserved →
      LanesKept s (setLane s ph { laneOf s ph with state := .settling, settling := 0 }) := fun h hocc hres =>
    setLane_kept fun hl => laneStays_resting hl (by rw [h]; exact hocc) (by rw [h]; exact hres) (st := .settling) rfl nofun 0
  split
  · exact hset (st := .paused) ‹_› rfl nofun
  · exact (hset (st := .stopped) ‹_› rfl nofun).trans (laneSeen_lanesKept ph _)
  all_goals exact .refl s

theorem releaseReserved_lanesKept (s : State) (ph : Phase) : LanesKept s (releaseReserved s ph) := by
  unfold releaseReserved
  dsimp only
  split
  · rename_i hr
    refine setLane_kept fun hl => ?_
    obtain ⟨hx, hs, hp⟩ := hl.restful (by rw [hr]; rfl)
    exact laneStays_of_empty (fun _ => laneOk_of_empty hx rfl rfl nofun hs hp) hx
  · exact .refl s

/-- The counts of a lane are no matter of the agreement. -/
theorem laneStays_counts (l : Lane) (n m : Nat) : LaneStays l { l with deferral := n, settling := m } :=
  ⟨id, fun y hy => ⟨y, hy, rfl⟩⟩

theorem laneLoss_lanesKept (ph : Phase) (time : Nat) (s : State) : LanesKept s (laneLoss ph time s) := fun hs => by
  unfold laneLoss
  dsimp only
  refine commitRecords_lanes _ _ (setLane_kept (fun _ => laneStays_counts _ 0 _) ?_)
  split
  · rename_i hocc
    obtain ⟨x, hx⟩ := Option.ne_none_iff_exists'.1 ((hs ph).1.1.1 hocc)
    exact endAndLand_lanesKept hx _ _ hs
  · split
    · exact setLane_kept (fun _ => laneStays_counts _ _ 0) hs
    · exact releaseReserved_lanesKept s ph hs

theorem settleLane_lanesKept {ph : Phase} {s : State} (h : (laneOf s ph).state = .settling) :
    LanesKept s (settleLane ph s) := by
  unfold settleLane
  dsimp only
  split
  · split
    · exact setLane_kept fun hl => laneStays_resting hl (by rw [h]; rfl) (by rw [h]; nofun) (st := .idle) rfl nofun 0
    · exact setLane_kept fun _ => laneStays_counts _ _ _
  · exact .refl s

theorem takeAbortRequest_lanesKept (q : AbortRequest) (s : State) : LanesKept s (takeAbortRequest q s) :=
  (takeAbortRequest_moves q s).kept (takeAbortRequest_work q s).nextExchange

/-! ### Grants -/

/-- A lane that is free for a grant (R70). -/
def openLane (l : Lane) : Prop := l.state = .idle ∨ l.state = .reserved

theorem openLane.unoccupied {l : Lane} (h : openLane l) : isOccupied l.state = false := by
  rcases h with h | h <;> rw [h] <;> rfl

/-- Choosing again leaves a lane that is free for a grant free for it. -/
theorem LaneMoves.open {l l' : Lane} (h : LaneMoves l l') (hl : openLane l) : openLane l' := by
  rcases hl with hi | hr
  · exact .inl ((h.stays (by rw [hi]; nofun) (by rw [hi]; nofun)).trans hi)
  · exact (h.reserved hr).symm

theorem applyGrant_lanesKept (ph : Phase) (i : WorkItem) (units : List Nat) (s : State) :
    LanesKept s (applyGrant ph i units s) := by
  obtain ⟨rs, fl, e, u, h⟩ := applyGrant_frame ph i units s
  rw [h]
  exact lanesKept_of_eq rfl rfl

/-- A lane that takes a granted exchange (R73, R78). -/
theorem laneOk_granted {l : Lane} (hl : laneOk l) (h : openLane l) {st : LaneState} {x : Exchange}
    (hst : isOccupied st = true) (hpos : st = .armed ↔ x.position = 0) :
    laneOk { l with state := st, reserved := none, exchange := some x } := by
  obtain ⟨-, hs, hp⟩ := hl.restful h.unoccupied
  refine ⟨⟨fun _ => nofun, fun _ => hst⟩, ⟨fun hr => ?_, fun hne => absurd rfl hne⟩, fun y hy => ?_, fun hd => ?_, fun _ => hst⟩
  · rw [show st = .reserved from hr] at hst
    cases hst
  · cases hy
    exact hpos
  · exact absurd (hd.symm.trans hs) (by decide)

theorem lanesOk_of_granted {s t : State} (hs : s.lanesOk) (hn : t.nextExchange = s.nextExchange + 1)
    (h : ∀ q, laneOf t q = laneOf s q ∨ laneOk (laneOf t q) ∧ ∃ x, (laneOf t q).exchange = some x ∧ x.exch = s.nextExchange) :
    t.lanesOk := fun q => by
  rw [hn]
  rcases h q with h | ⟨hok, x, hx, hxn⟩
  · rw [h]
    exact ⟨(hs q).1, fun x hx => Nat.lt_succ_of_lt ((hs q).2 x hx)⟩
  · refine ⟨hok, fun y hy => ?_⟩
    cases hx.symm.trans hy
    exact Nat.lt_succ_of_le hxn.le

theorem grantedState_ok {s : State} (hs : s.lanesOk) {ph : Phase} (h : openLane (laneOf s ph)) (r : Record) (i : WorkItem)
    (forced : Bool) : (grantedState s r i ph forced).lanesOk :=
  lanesOk_of_granted hs rfl fun q => by
    rw [laneOf_grantedState]
    split
    · rename_i hq
      subst hq
      exact .inr ⟨laneOk_granted (hs q).1 h rfl ⟨nofun, nofun⟩, _, rfl, rfl⟩
    · exact .inl rfl

theorem grantOnLane_lanesKept {ph : Phase} {s : State} (h : openLane (laneOf s ph)) (i : WorkItem) (forced : Bool) :
    LanesKept s (grantOnLane ph i forced s) := fun hs => by
  rcases grantOnLane_cases ph i forced s with he | ⟨r, -, he⟩ <;> rw [he]
  · exact hs
  · exact tell_kept _ _ (applyGrant_lanesKept _ _ _ _ (grantedState_ok hs h r i forced))

theorem open_of_reservedFor {s : State} {i : WorkItem} {q : Phase} (h : reservedFor s i q = true) :
    (laneOf s q).state = .reserved := by
  simp only [reservedFor, Bool.and_eq_true, beq_iff_eq] at h
  exact h.1

theorem joinedState_ok {s : State} (hs : s.lanesOk) {i : WorkItem} {ph : Phase} (h : joinedReady s i ph) (r : Record) :
    (joinedState s r i ph).lanesOk :=
  lanesOk_of_granted hs rfl fun q => by
    rw [laneOf_joinedState]
    split
    · rename_i hq
      have hopen : openLane (laneOf s q) := .inr (open_of_reservedFor (h.1 q hq))
      refine .inr ⟨laneOk_granted (hs q).1 hopen ?_ ?_, _, rfl, rfl⟩
      · split <;> rfl
      · by_cases hp : q = ph <;> simp [hp, exchangeFor]
    · exact .inl rfl

theorem joinedGrant_lanesKept (ph : Phase) (i : WorkItem) (s : State) : LanesKept s (joinedGrant ph i s) := fun hs => by
  rcases joinedGrant_cases ph i s with he | ⟨ps, he⟩ | ⟨r, hready, -, he⟩ <;> rw [he]
  · exact hs
  · exact LanesKept.foldl releaseReserved_lanesKept ps s hs
  · exact tell_kept _ _ (applyGrant_lanesKept _ _ _ _ (joinedState_ok hs hready r))

/-- A free lane held for an item (R75, R78). -/
theorem laneStays_reserve {l : Lane} (hl : laneOk l) (h : openLane l) (v : Reservation) :
    LaneStays l { l with state := .reserved, reserved := some v } := by
  obtain ⟨hx, hs, hp⟩ := hl.restful h.unoccupied
  refine laneStays_of_empty (fun _ => ?_) hx
  rw [laneOk, hx, hs, hp]
  simp [isOccupied]

theorem reserveLane_lanesKept {ph : Phase} {s : State} (h : openLane (laneOf s ph)) (i : WorkItem) (forced : Bool) :
    LanesKept s (reserveLane ph i forced s) := by
  unfold reserveLane
  split
  · exact (setLane_kept fun hl => laneStays_reserve hl h _).trans (joinedGrant_lanesKept ph i _)
  · exact .refl s

theorem actOn_lanesKept {ph : Phase} {s : State} (h : openLane (laneOf s ph)) (i : WorkItem) (forced : Bool) :
    LanesKept s (actOn ph i forced s) := by
  have hopen : openLane (laneOf (undeferred ph s) ph) := by
    rw [undeferred, laneOf_setLane_self]
    exact h
  refine (setLane_kept fun _ => laneStays_counts (laneOf s ph) 0 (laneOf s ph).settling).trans ?_
  show LanesKept (undeferred ph s) (if i.joined then reserveLane ph i forced (undeferred ph s)
    else grantOnLane ph i forced (undeferred ph s))
  split
  · exact reserveLane_lanesKept hopen i forced
  · exact grantOnLane_lanesKept hopen i forced

theorem carrierTest_lanesKept {ph : Phase} {s : State} (h : openLane (laneOf s ph)) (v : Verdict) (i : WorkItem) :
    LanesKept s (carrierTest ph v i s) := by
  unfold carrierTest
  split
  · exact actOn_lanesKept h i false
  · dsimp only
    split
    · exact setLane_kept fun _ => laneStays_counts _ _ _
    · refine (raise_lanesKept .lineBusy s).trans (actOn_lanesKept ?_ i true)
      rw [raise_frame]
      exact h
  · exact .refl s

/-- The state in which a lane has walked its candidates (R71). -/
def walked (ph : Phase) (s : State) : State :=
  let w := walkCandidates ph (candidates s ph) s
  if w.2.2 then tell allPhases w.1 else w.1

theorem opportunity_eq (ph : Phase) (v : Verdict) (s : State) :
    opportunity ph v s =
      match (walkCandidates ph (candidates s ph) s).2.1 with
      | none => releaseReserved (walked ph s) ph
      | some i => if reservedFor (walked ph s) i ph then joinedGrant ph i (walked ph s) else carrierTest ph v i (walked ph s) :=
  rfl

theorem walked_moves (ph : Phase) (s : State) : LanesMove s (walked ph s) := by
  obtain ⟨rs, e, u, h⟩ := walkCandidates_frame ph (candidates s ph) s
  have hwalk : LanesMove s (walkCandidates ph (candidates s ph) s).1 := by
    rw [h]
    exact lanesMove_of_eq rfl rfl
  unfold walked
  dsimp only
  split
  · exact hwalk.trans (tell_moves _ _)
  · exact hwalk

theorem walked_work (ph : Phase) (s : State) : LaneWork s (walked ph s) := by
  unfold walked
  dsimp only
  split
  · exact (walkCandidates_work ..).trans (tell_work _ _)
  · exact walkCandidates_work ..

theorem opportunity_lanesKept {ph : Phase} {s : State} (h : openLane (laneOf s ph)) (v : Verdict) :
    LanesKept s (opportunity ph v s) := by
  rw [opportunity_eq]
  refine ((walked_moves ph s).kept (walked_work ph s).nextExchange).trans ?_
  have hopen := ((walked_moves ph s).lanes ph).open h
  split
  · exact releaseReserved_lanesKept _ _
  · split
    · exact joinedGrant_lanesKept _ _ _
    · exact carrierTest_lanesKept hopen v _

/-! ### Reports taken -/

theorem applyEndReport_lanesKept (rep : EndReport) (s : State) : LanesKept s (applyEndReport rep s) := by
  rw [applyEndReport_frame]
  exact lanesKept_of_eq rfl rfl

theorem takeQueueReport_lanesKept (n : Nat) (s : State) : LanesKept s (takeQueueReport n s) := by
  unfold takeQueueReport
  split
  · exact .refl s
  · exact ((applyEndReport_lanesKept _ _).trans (tell_kept _ _)).after rfl rfl

/-- Learning changes the table, the discovery list and flags, and nothing else (R119 to R126). -/
theorem applyAnswer_frame (ans : KeptAnswer) (s : State) :
    ∃ us ds e u, applyAnswer ans s = { s with units := us, discovery := ds, events := e, uli := u } := by
  unfold applyAnswer
  split
  · dsimp only
    split
    · rw [raiseIf_frame]
      exact ⟨_, _, _, _, rfl⟩
    · exact ⟨_, _, _, _, rfl⟩
  · split
    · exact ⟨_, _, _, _, rfl⟩
    · unfold offerDiscovery
      split
      · exact ⟨_, _, _, _, rfl⟩
      · split <;> rw [raise_frame] <;> exact ⟨_, _, _, _, rfl⟩

theorem foldl_applyAnswer_frame : ∀ (as : List KeptAnswer) (s : State),
    ∃ us ds e u, as.foldl (fun st ans => applyAnswer ans st) s = { s with units := us, discovery := ds, events := e, uli := u }
  | [], s => ⟨_, _, _, _, rfl⟩
  | a :: as, s => by
    obtain ⟨us, ds, e, u, h⟩ := applyAnswer_frame a s
    obtain ⟨us', ds', e', u', h'⟩ := foldl_applyAnswer_frame as (applyAnswer a s)
    exact ⟨us', ds', e', u', by rw [List.foldl_cons, h', h]⟩

theorem applyLearning_frame (rep : LearningReport) (s : State) :
    ∃ us ds e u, applyLearning rep s = { s with units := us, discovery := ds, events := e, uli := u } := by
  obtain ⟨us, ds, e, u, h⟩ := foldl_applyAnswer_frame rep.answers s
  unfold applyLearning
  dsimp only
  rw [h]
  split
  · exact ⟨_, _, _, _, rfl⟩
  · unfold applySilence
    dsimp only
    split <;> exact ⟨_, _, _, _, rfl⟩

theorem applyLearning_lanesKept (rep : LearningReport) (s : State) : LanesKept s (applyLearning rep s) := by
  obtain ⟨us, ds, e, u, h⟩ := applyLearning_frame rep s
  rw [h]
  exact lanesKept_of_eq rfl rfl

theorem takeTableReport_lanesKept (n : Nat) (s : State) : LanesKept s (takeTableReport n s) := by
  unfold takeTableReport
  split
  · exact .refl s
  · dsimp only
    split
    · exact ((applyLearning_lanesKept _ _).trans (tell_kept _ _)).after rfl rfl
    · exact (applyLearning_lanesKept _ _).after rfl rfl

theorem takeReports_lanesKept (o : ReportOrder) (m n : Nat) (s : State) : LanesKept s (takeReports o m n s) := by
  cases o with
  | neither => exact .refl s
  | queueOnly => exact takeQueueReport_lanesKept m s
  | tableOnly => exact takeTableReport_lanesKept n s
  | queueThenTable => exact (takeQueueReport_lanesKept m s).trans (takeTableReport_lanesKept n _)
  | tableThenQueue => exact (takeTableReport_lanesKept n s).trans (takeQueueReport_lanesKept m _)

/-! ### The boundary -/

/-- Hearing a half-cycle adds to what the exchange has read, and to nothing else (R103). -/
theorem hearHalf_frame (ended : EndedHalf) (x : Exchange) :
    hearHalf ended x = { x with
      heard := (hearHalf ended x).heard, decodes := (hearHalf ended x).decodes, collided := (hearHalf ended x).collided } := by
  unfold hearHalf addJudgement
  split
  · dsimp only
    split
    · split
      · split <;> rfl
      · rfl
      · rfl
    · rfl
  · rfl

/-- A lane whose exchange goes on by a half-cycle is SENDING or LISTENING (R74, R98, R99). -/
theorem stateForRole_running (role : Role) : stateForRole role = .sending ∨ stateForRole role = .listening := by
  cases role <;> simp [stateForRole]

theorem laneOk_running {l : Lane} (hl : laneOk l) {x : Exchange} (hx : l.exchange = some x) {st : LaneState}
    (hst : st = .sending ∨ st = .listening) {y : Exchange} (hy : y.position ≠ 0) :
    laneOk { l with state := st, exchange := some y } := by
  have hres := hl.reserved_none (not_reserved_of_occupied (hl.occupied hx))
  have hocc : isOccupied st = true := by rcases hst with h | h <;> rw [h] <;> rfl
  refine ⟨⟨fun _ => nofun, fun _ => hocc⟩, ⟨fun hr => ?_, fun hne => absurd hres hne⟩, fun z hz => ?_, fun _ => hst, fun _ => hocc⟩
  · rcases hst with h | h <;> cases h.symm.trans hr
  · cases hz
    refine ⟨fun ha => ?_, fun h0 => absurd h0 hy⟩
    rcases hst with h | h <;> cases h.symm.trans ha

/-- The lane with the half-cycle just ended heard (R103). -/
theorem laneStays_heard {l : Lane} (ended : EndedHalf) {x : Exchange} (hx : l.exchange = some x) :
    LaneStays l { l with exchange := some (hearHalf ended x) } := by
  have hframe := hearHalf_frame ended x
  refine ⟨fun ⟨hocc, hres, hpos, hstop, hpause⟩ => ⟨?_, hres, fun y hy => ?_, hstop, hpause⟩, fun y hy => ⟨x, hx, ?_⟩⟩
  · rw [hocc, hx]
    simp
  · cases hy
    rw [hframe]
    exact hpos x hx
  · cases hy
    rw [hframe]

theorem endAtBoundary_lanesKept {ph : Phase} {s : State} {x : Exchange} (hx : (laneOf s ph).exchange = some x)
    (c : Option AbortCause) (time : Nat) (o : ReportOrder) : LanesKept s (endAtBoundary ph c time o s) :=
  (endAndLand_lanesKept hx c time).trans (takeReports_lanesKept o _ _ _)

theorem advanceExchange_lanesKept (ph : Phase) (ended : EndedHalf) (o : ReportOrder) (s : State) :
    LanesKept s (advanceExchange ph ended o s) := by
  unfold advanceExchange
  split
  · exact .refl s
  · rename_i x hx
    have hheard : LanesKept s (setLane s ph { laneOf s ph with exchange := some (hearHalf ended x) }) :=
      setLane_kept fun _ => laneStays_heard ended hx
    have hlane : (laneOf (setLane s ph { laneOf s ph with exchange := some (hearHalf ended x) }) ph).exchange =
      some (hearHalf ended x) := by rw [laneOf_setLane_self]
    dsimp only
    split
    · exact hheard.trans (endAtBoundary_lanesKept hlane _ _ o)
    · split
      · exact hheard.trans (endAtBoundary_lanesKept hlane _ _ o)
      · refine hheard.trans (setLane_kept fun hl => ⟨fun _ => ?_, fun y hy => ?_⟩)
        · exact laneOk_running hl hlane (stateForRole_running _) (Nat.succ_ne_zero _)
        · cases hy
          exact ⟨_, hlane, rfl⟩

theorem startArmed_lanesKept {ph : Phase} {s : State} (h : (laneOf s ph).state = .armed) : LanesKept s (startArmed ph s) :=
  setLane_kept fun hl => by
    obtain ⟨x, hx⟩ := Option.ne_none_iff_exists'.1 (hl.armedHolds h)
    rw [hx, Option.map_some]
    refine ⟨fun _ => laneOk_running hl hx (.inl rfl) Nat.one_ne_zero, fun y hy => ⟨x, hx, ?_⟩⟩
    cases hy
    rfl

theorem laneAdvance_lanesKept (ph : Phase) (ended : EndedHalf) (o : ReportOrder) (s : State) :
    LanesKept s (laneAdvance ph ended o s) := by
  unfold laneAdvance
  split
  · exact advanceExchange_lanesKept ph ended o s
  · exact advanceExchange_lanesKept ph ended o s
  · exact startArmed_lanesKept ‹_›
  · exact settleLane_lanesKept ‹_›
  all_goals exact .refl s

theorem openLane_of_opportunity {s : State} {ph : Phase} {v : Verdict} (h : isOpportunity s ph v = true) :
    openLane (laneOf s ph) := by
  simp only [isOpportunity, Bool.and_eq_true, Bool.or_eq_true, beq_iff_eq] at h
  exact h.1.1

theorem laneBoundary_lanesKept (ph : Phase) (ended : EndedHalf) (v : Verdict) (o : ReportOrder) (s : State) :
    LanesKept s (laneBoundary ph ended v o s) := by
  unfold laneBoundary
  dsimp only
  generalize (if (laneOf (laneAdvance ph ended o s) ph).state = .stopped ∧ (laneOf s ph).state ≠ .stopped then
    allPhases else [ph]) = asked
  have h := (laneAdvance_lanesKept ph ended o s).trans (tell_kept asked _)
  split
  · exact h.trans (opportunity_lanesKept (openLane_of_opportunity ‹_›) v)
  · exact h

theorem boundaryStart_lanesKept (ph : Phase) (mf : Bool) (s : State) : LanesKept s (boundaryStart ph mf s) := by
  rw [boundaryStart_frame]
  exact lanesKept_of_eq rfl rfl

theorem boundaryEnd_lanesKept (ph : Phase) (mf : Bool) (ended : EndedHalf) (s : State) :
    LanesKept s (boundaryEnd ph mf ended s) := by
  rw [boundaryEnd_frame]
  exact lanesKept_of_eq rfl rfl

theorem takeBoundary_lanesKept (ph : Phase) (mf : Bool) (o : ReportOrder) (s : State) :
    LanesKept s (takeBoundary ph mf o s) := by
  rw [takeBoundary_eq]
  exact ((boundaryStart_lanesKept ph mf s).trans (laneBoundary_lanesKept ph _ _ o _)).trans (boundaryEnd_lanesKept ph mf _ _)

/-! ### The other commands of the mains -/

theorem laneFirstBoundary_lanesKept (ph : Phase) (s : State) : LanesKept s (laneFirstBoundary ph s) := by
  unfold laneFirstBoundary
  dsimp only
  have hlast : ∀ t, LanesKept t (reportStart ph (tell [ph] t)) := fun t =>
    (tell_kept [ph] t).trans (lanesKept_of_eq rfl rfl)
  split
  · exact (settleLane_lanesKept ‹_›).trans (hlast _)
  · exact hlast s

theorem setPtu_lanesKept (s : State) (ph : Phase) (u : Ptu) : LanesKept s (setPtu s ph u) := lanesKept_of_eq rfl rfl

theorem crossingLocking_lanesKept (ph : Phase) (s : State) : LanesKept s (crossingLocking ph s) := by
  unfold crossingLocking
  dsimp only
  split
  · exact ((setPtu_lanesKept s ph _).trans (raise_lanesKept _ _)).trans (laneFirstBoundary_lanesKept ph _)
  · exact setPtu_lanesKept s ph _

theorem execCrossing_lanesKept (ph : Phase) (s : State) : ∃ t, exec (.crossing ph) s = .next t ∧ LanesKept s t := by
  refine ⟨_, rfl, LanesKept.trans ?_ (transmit_lanesKept _)⟩
  split
  · exact crossingLocking_lanesKept ph s
  · exact (setPtu_lanesKept s ph _).trans (tell_kept _ _)
  · exact (setPtu_lanesKept s ph _).trans (tell_kept _ _)
  · exact (setPtu_lanesKept s ph _).trans (laneSeen_lanesKept ph _)

theorem phaseLost_lanesKept (ph : Phase) (time : Nat) (s : State) : LanesKept s (phaseLost ph time s) := by
  refine LanesKept.trans (LanesKept.trans ?_ (laneLoss_lanesKept ph time _)) (tell_kept _ _)
  exact ((setPtu_lanesKept s ph _).trans (raise_lanesKept _ _)).trans (lanesKept_of_eq rfl rfl)

theorem takeMiss_lanesKept (ph : Phase) (s : State) : LanesKept s (takeMiss ph s) := by
  unfold takeMiss
  dsimp only
  split
  · exact setPtu_lanesKept s ph _
  · have h : LanesKept s (raiseIf ((ptuOf s ph).timing == .locked) .gridCoast
        (setPtu s ph (takeMissTest (ptuOf s ph)))) :=
      (setPtu_lanesKept s ph _).trans (raiseIf_lanesKept _ _ _)
    split
    · exact h.trans (phaseLost_lanesKept ph _ _)
    · exact h.trans (tell_kept _ _)

theorem driveWindow_lanesKept (ph : Phase) (w index : Nat) (s : State) : LanesKept s (driveWindow ph w index s) := by
  have hpins : ∀ (d : Nat) (txd txen drv : Bool),
      LanesKept s (setLane { s with draws := d } ph { laneOf s ph with txd, txen, drv }) := fun d txd txen drv =>
    LanesKept.after (s' := { s with draws := d }) (setLane_kept fun _ => ⟨id, fun y hy => ⟨y, hy, rfl⟩⟩) rfl rfl
  unfold driveWindow
  dsimp only
  split
  · exact hpins s.draws _ _ _
  · exact hpins _ _ _ _

theorem takeWindow_lanesKept (ph : Phase) (s : State) : LanesKept s (takeWindow ph s) := by
  unfold takeWindow
  dsimp only
  split
  · exact .refl s
  · exact (setPtu_lanesKept s ph _).trans (driveWindow_lanesKept ph _ _ _)

theorem secondApplied_lanesKept (s : State) : LanesKept s (secondApplied s) :=
  (commitRecords_lanes _ s).trans (lanesKept_of_eq rfl rfl)

theorem clockEvent_lanesKept (s : State) : LanesKept s (clockEvent s) := by
  rw [clockEvent_eq]
  split
  · exact secondApplied_lanesKept s
  · exact (secondApplied_lanesKept s).trans (tell_kept _ _)

theorem secondTick_lanesKept (s : State) : LanesKept s (secondTick s) := (clockEvent_lanesKept _).after rfl rfl

/-! ### Requests, owner by owner -/

theorem admitNew_lanesKept (r : Record) (s : State) : LanesKept s (admitNew r s) := by
  have hin : LanesKept s (admitted r s) := (commitRecords_lanes _ s).trans (lanesKept_of_eq rfl rfl)
  rw [admitNew_eq]
  split
  · exact hin.trans (tell_kept _ _)
  · exact hin

theorem serveSubmit_lanesKept (f : SubmitFields) (s : State) : LanesKept s (serveSubmit f s).1 := by
  unfold serveSubmit
  split
  · exact .refl s
  · exact admitNew_lanesKept _ s

theorem putRecord_lanesKept (r : Record) (s : State) : LanesKept s (putRecord r s) := commitRecords_lanes _ s

theorem serveCancel_lanesKept (id : BitVec 32) (s : State) : LanesKept s (serveCancel id s).1 := by
  have htold : ∀ r, LanesKept s (tell allPhases (putRecord r s)) := fun r =>
    (putRecord_lanesKept r s).trans (tell_kept _ _)
  unfold serveCancel
  split
  · exact .refl s
  · split
    · exact htold _
    · exact htold _
    · exact htold _
    · exact .refl s
    · exact .refl s

theorem serveAdjust_lanesKept (id : BitVec 32) (priority options : Byte) (s : State) :
    LanesKept s (serveAdjust id priority options s).1 := by
  unfold serveAdjust
  split
  · exact .refl s
  · split
    · exact .refl s
    · dsimp only
      split
      · exact (putRecord_lanesKept _ s).trans (tell_kept _ _)
      · exact putRecord_lanesKept _ s

theorem serveCollect_lanesKept (id : BitVec 32) (cls : Byte) (start : BitVec 16) (options : Byte) (s : State) :
    LanesKept s (serveCollect id cls start options s).1 := by
  unfold serveCollect
  split
  · exact .refl s
  · split
    · exact .refl s
    · split
      · exact .refl s
      · split
        · exact .refl s
        · exact lanesKept_ite (lanesKept_of_eq rfl rfl)

theorem serveRestart_lanesKept (s : State) : LanesKept s (serveRestart s).1 := by
  rw [serveRestart_eq]
  refine LanesKept.trans (b := restarted s) (lanesKept_of_lanes rfl fun q _ => ?_) (tell_kept _ _)
  have hlane : laneOf (restarted s) q = { laneOf s q with deferral := 0 } := atPhase_perPhase _ q
  rw [hlane]
  exact laneStays_counts _ 0 _

theorem serveUnitWrite_lanesKept (f : UnitWriteFields) (s : State) : LanesKept s (serveUnitWrite f s).1 := by
  unfold serveUnitWrite
  split
  · exact .refl s
  · exact .refl s
  · exact .refl s
  · exact .refl s
  · exact .refl s
  · exact lanesKept_of_eq rfl rfl

theorem serveDiscoveryRead_lanesKept (option : Byte) (s : State) : LanesKept s (serveDiscoveryRead option s).1 := by
  unfold serveDiscoveryRead
  split
  · exact .refl s
  · exact lanesKept_ite (lanesKept_of_eq rfl rfl)

theorem serveProfileWrite_lanesKept (mask : BitVec 16) (values : List Byte) (s : State) :
    LanesKept s (serveProfileWrite mask values s).1 := by
  unfold serveProfileWrite
  split
  · exact .refl s
  · dsimp only
    split
    · exact .refl s
    · exact (tell_kept _ _).after rfl rfl

theorem serveClockSet_lanesKept (seconds : BitVec 32) (s : State) : LanesKept s (serveClockSet seconds s).1 := by
  unfold serveClockSet
  split
  · exact .refl s
  · exact (clockEvent_lanesKept _).after rfl rfl

theorem serveLaneControl_lanesKept (mask action : Byte) (s : State) : LanesKept s (serveLaneControl mask action s).1 := by
  have hdone : ∀ {act : State → Phase → State}, (∀ s ph, LanesKept s (act s ph)) → ∀ asked,
      LanesKept s (tell asked ((maskLanes mask).foldl act s)) := fun h asked =>
    (LanesKept.foldl h _ s).trans (tell_kept asked _)
  unfold serveLaneControl
  split
  · exact .refl s
  · dsimp only
    split
    · exact hdone stopLane_lanesKept _
    · split
      · exact hdone pauseLane_lanesKept _
      · split
        · exact hdone resumeLane_lanesKept _
        · exact .refl s

theorem serve_lanesKept (rq : Request) (s : State) : LanesKept s (serve rq s).1 := by
  cases rq with
  | submit f => exact serveSubmit_lanesKept f s
  | cancel id => exact serveCancel_lanesKept id s
  | adjust id priority options => exact serveAdjust_lanesKept id priority options s
  | collect id cls start options => exact serveCollect_lanesKept id cls start options s
  | restart => exact serveRestart_lanesKept s
  | unitWrite f => exact serveUnitWrite_lanesKept f s
  | unitRead form start count address =>
    have h : (serve (.unitRead form start count address) s).1 = s := serveUnitRead_state form start count address s
    rw [h]
    exact .refl s
  | discoveryRead option => exact serveDiscoveryRead_lanesKept option s
  | profileWrite mask values => exact serveProfileWrite_lanesKept mask values s
  | profileRead => exact .refl s
  | clockSet seconds => exact serveClockSet_lanesKept seconds s
  | laneControl mask action => exact serveLaneControl_lanesKept mask action s
  | status option =>
    have h : LanesKept s (serveStatus option s).1 := by
      unfold serveStatus
      split
      · exact .refl s
      · exact lanesKept_of_eq rfl rfl
    exact h
  | maskWrite mask =>
    have h : LanesKept s (serveMaskWrite mask s).1 := by
      unfold serveMaskWrite
      split
      · exact .refl s
      · exact lanesKept_of_eq rfl rfl
    exact h

theorem lanesKept_byUplink : KeptByUplink LanesKept := ⟨.trans, fun _ _ _ _ => lanesKept_of_eq rfl rfl, serve_lanesKept⟩

/-! ### Every command -/

theorem abortRequestTaken_lanesKept (q : AbortRequest) (s : State) : LanesKept s (abortRequestTaken q s) :=
  ((takeAbortRequest_lanesKept q (requestTaken q s)).trans (tell_kept _ _)).after rfl rfl

theorem resetLanes_ok {s : State} (h : ∀ q, laneOf s q = resetLane) : s.lanesOk := fun q => by
  rw [h]
  exact ⟨laneOk_of_empty rfl rfl rfl nofun rfl rfl, nofun⟩

theorem exec_lanesKept (c : Instr) (s : State) : ∃ t, exec c s = .next t ∧ LanesKept s t := by
  by_cases hc : KeptByUplink.takes c = true
  · exact lanesKept_byUplink.exec hc s
  cases c with
  | deviceReset fsel baud => exact ⟨_, rfl, fun _ => resetLanes_ok fun q => by cases q <;> rfl⟩
  | crossing ph => exact execCrossing_lanesKept ph s
  | missTest ph => exact ⟨_, rfl, (lanesKept_ite (takeMiss_lanesKept ph s)).trans (transmit_lanesKept _)⟩
  | halfCycleBoundary ph mf o =>
    exact ⟨_, rfl, (lanesKept_ite (takeBoundary_lanesKept ph mf o s)).trans (transmit_lanesKept _)⟩
  | windowBoundary ph => exact ⟨_, rfl, (lanesKept_ite (takeWindow_lanesKept ph s)).trans (transmit_lanesKept _)⟩
  | windowSample ph rxd cd lq => exact ⟨_, rfl, (lanesKept_ite (setPtu_lanesKept s ph _)).trans (transmit_lanesKept _)⟩
  | secondEvent => exact ⟨_, rfl, (lanesKept_ite (secondTick_lanesKept s)).trans (transmit_lanesKept _)⟩
  | referenceTick =>
    refine ⟨_, rfl, LanesKept.trans ?_ (transmit_lanesKept _)⟩
    split
    · exact secondTick_lanesKept s
    · exact lanesKept_of_eq rfl rfl
  | notBeforeTimePasses id unit =>
    refine ⟨_, rfl, LanesKept.trans ?_ (transmit_lanesKept _)⟩
    split
    · exact .refl s
    · exact lanesKept_ite ((putRecord_lanesKept _ s).trans (tell_kept _ _))
  | endReport which => exact ⟨_, rfl, (takeQueueReport_lanesKept which s).trans (transmit_lanesKept _)⟩
  | learningReport which => exact ⟨_, rfl, (takeTableReport_lanesKept which s).trans (transmit_lanesKept _)⟩
  | abortRequest lane =>
    refine ⟨_, rfl, LanesKept.trans ?_ (transmit_lanesKept _)⟩
    split
    · exact .refl s
    · exact abortRequestTaken_lanesKept _ s
  | _ => exact absurd rfl hc

/-- Settles O11: every command keeps every lane in agreement with what it holds, so every step does. -/
theorem laneStatesMatchWhatTheyHold : Obligations.LaneStatesMatchWhatTheyHold := fun _ _ hs h =>
  step_keeps (P := State.lanesOk) (fun _ _ => id) (fun c s hs => by
    obtain ⟨t, ht, hk⟩ := exec_lanesKept c s
    exact ⟨t, ht, hk hs⟩) hs h

end Sys2Proof.Machine

/-! ## STOP, PAUSE and RESUME of one lane (R82 to R85): O33, O34 -/

namespace Sys2Proof.Machine

open Sys2Proof.Claims

/-! ### The masks -/

/-- A mask of lane control is refused where it names no lane or sets a bit above the lanes' three (R173). -/
theorem maskBad_iff (mask : Byte) : (mask.extractLsb' 3 5 ≠ 0 ∨ maskLanes mask = []) ↔ 7 < mask.toNat ∨ maskLanes mask = [] := by
  refine or_congr_left ?_
  have hhigh : (mask.extractLsb' 3 5).toNat = mask.toNat / 2 ^ 3 % 2 ^ 5 := by
    rw [BitVec.extractLsb'_toNat, Nat.shiftRight_eq_div_pow]
  have hlt := mask.isLt
  rw [ne_eq, ← BitVec.toNat_inj, hhigh]
  show ¬mask.toNat / 2 ^ 3 % 2 ^ 5 = 0 ↔ 7 < mask.toNat
  omega

theorem serveLaneControl_bad {mask : Byte} (h : 7 < mask.toNat ∨ mask = 0) (action : Byte) (s : State) :
    serveLaneControl mask action s = (s, [0x03]) := by
  refine if_pos ((maskBad_iff mask).2 (h.imp_right fun h0 => ?_))
  rw [h0]
  decide

/-! ### One lane controlled -/

/-- The state after an action on lane `ph`, with the lanes it has choose again (R69, R82). -/
def controlled (act : State → Phase → State) (ph : Phase) (s : State) : State :=
  tell (askedAfterControl s (act s ph)) (act s ph)

/-- The content of lane control's answer: the result and the lanes' states (R82). -/
def controlContent (s : State) : List Byte := 0x00 :: allPhases.map fun q => laneStateByte (laneOf s q).state

/-- What lane control's three actions do to a lane (R82 to R85). -/
def laneAction (action : Byte) : State → Phase → State :=
  if action = 1 then stopLane else if action = 2 then pauseLane else resumeLane

theorem serveLaneControl_one {mask action : Byte} {ph : Phase} (hmask : maskLanes mask = [ph]) (hle : mask.toNat ≤ 7)
    (ha : action = 1 ∨ action = 2 ∨ action = 3) (s : State) :
    serveLaneControl mask action s =
      (controlled (laneAction action) ph s, controlContent (controlled (laneAction action) ph s)) := by
  have hgood : ¬(7 < mask.toNat ∨ maskLanes mask = []) := by simp [hmask, Nat.not_lt.2 hle]
  rw [serveLaneControl, if_neg (mt (maskBad_iff mask).1 hgood), hmask]
  rcases ha with rfl | rfl | rfl <;> rfl

theorem laneAction_work (action : Byte) (s : State) (ph : Phase) : LaneWork s (laneAction action s ph) := by
  unfold laneAction
  split
  · exact stopLane_work s ph
  · split
    · exact pauseLane_work s ph
    · exact resumeLane_work s ph

theorem controlled_work (action : Byte) (ph : Phase) (s : State) : LaneWork s (controlled (laneAction action) ph s) :=
  (laneAction_work action s ph).trans (tell_work _ _)

/-- A lane control that finds room takes its action on the lane and answers with the states that it leaves (R82, R148). -/
theorem exec_laneControl {c : Instr} {tag mask action : Byte} {ph : Phase} {s : State}
    (hc : requestOf c = some (tag, .laneControl mask action)) (hmask : maskLanes mask = [ph]) (hle : mask.toNat ≤ 7)
    (ha : action = 1 ∨ action = 2 ∨ action = 3) (hroom : s.uli.responses.length < 4) :
    ∃ u v d, exec c s = .next { controlled (laneAction action) ph { s with uli := u } with uli := v, draws := d } ∧
      responseQueued s.uli v
        { kind := 0xB1, tag, content := controlContent (controlled (laneAction action) ph { s with uli := u }) } := by
  have hserve := serveLaneControl_one hmask hle ha (transmit s)
  have huli := (controlled_work action ph (transmit s)).uli
  have hexec : exec c s = .next (transmit (respond
      { kind := 0xB1, tag, content := controlContent (controlled (laneAction action) ph (transmit s)) }
      (controlled (laneAction action) ph (transmit s)))) := by
    rw [exec_of_requestOf hc, intakeRequest_room hroom, perform, serve, hserve]
    rfl
  rw [transmit_respond_rest] at hexec
  have hq := responseQueued_respond (s := s)
    { kind := 0xB1, tag, content := controlContent (controlled (laneAction action) ph (transmit s)) } huli
  obtain ⟨u, hu⟩ : ∃ u, transmit s = { s with uli := u } := ⟨_, transmit_rest s⟩
  rw [hu] at hexec hq
  exact ⟨u, _, _, hexec, hq⟩

/-- An action that keeps every lane's state has no lane choose again. -/
theorem controlled_quiet {act : State → Phase → State} {ph : Phase} {s t : State} (h : act s ph = t) (hp : t.ptu = s.ptu)
    (hf : t.profile = s.profile) (hl : ∀ q, (laneOf t q).state = (laneOf s q).state) : controlled act ph s = t := by
  rw [controlled, h, askedAfterControl_nil hp hf hl, tell_nil]

theorem setLane_state_same {s : State} {ph : Phase} {l : Lane} (h : l.state = (laneOf s ph).state) (q : Phase) :
    (laneOf (setLane s ph l) q).state = (laneOf s q).state := by
  by_cases hq : q = ph
  · subst hq
    rw [laneOf_setLane_self, h]
  · rw [laneOf_setLane_of_ne _ _ hq]

/-- A free lane that an action has set aside stays as the action left it, its pending winner apart. -/
theorem controlled_free {act : State → Phase → State} {ph : Phase} {s : State} {l : Lane} (h : laneOf (act s ph) ph = l)
    (hl : freeLane l) : ∃ w, laneOf (controlled act ph s) ph = { l with winner := w } := by
  obtain ⟨w, hw⟩ := (tell_choice (askedAfterControl s (act s ph)) (act s ph)).free ph (h ▸ hl)
  exact ⟨w, hw.trans (by rw [h])⟩

/-! ### STOP (R83) -/

theorem stopLane_stopped {s : State} {ph : Phase} (h : (laneOf s ph).state = .stopped) : stopLane s ph = s := by
  simp only [stopLane, h]

theorem stopLane_armed {s : State} {ph : Phase} (h : (laneOf s ph).state = .armed) {x : Exchange}
    (hx : (laneOf s ph).exchange = some x) : stopLane s ph = abortExchange .stopped x ph (stopNoted ph s) := by
  simp only [stopLane, stopNoted, h, hx]

theorem stopLane_running {s : State} {ph : Phase} (h : (laneOf s ph).state = .sending ∨ (laneOf s ph).state = .listening) :
    stopLane s ph = markAbort ph .stopped (stopNoted ph s) := by
  rcases h with h | h <;> simp only [stopLane, stopNoted, h]

/-- An occupied lane that is not ARMED sends or listens (R66). -/
theorem running_of_occupied {l : Lane} (h : isOccupied l.state = true) (ha : l.state ≠ .armed) :
    l.state = .sending ∨ l.state = .listening := by
  cases hl : l.state with
  | sending => exact .inl rfl
  | listening => exact .inr rfl
  | armed => exact absurd hl ha
  | idle | reserved | paused | stopped | settling =>
    rw [hl] at h
    cases h

theorem enterStopped_lane (ph : Phase) (s : State) : laneOf (enterStopped ph s) ph = stoppedLane (laneOf s ph) := by
  obtain ⟨rs, e, u, h⟩ := settleAllRounds_frame (setLane s ph (stoppedLane (laneOf s ph)))
  rw [enterStopped, h]
  exact laneOf_setLane_self ..

/-- A STOP of a free lane puts it in STOPPED at once. -/
theorem stopLane_free_controlled {ph : Phase} {s : State} (hs : s.lanesOk) (hfree : isOccupied (laneOf s ph).state = false)
    (hne : (laneOf s ph).state ≠ .stopped) :
    let l := laneOf (controlled stopLane ph s) ph
    l.state = .stopped ∧ l.reserved = none ∧ l.deferral = 0 ∧ l.settling = 0 ∧ l.stopDue = false ∧ l.pauseDue = false := by
  have hstop : laneOf (stopLane s ph) ph = stoppedLane (laneOf s ph) := by
    rw [stopLane_free hfree hne, enterStopped_lane]
  obtain ⟨w, hw⟩ := controlled_free hstop ⟨((hs ph).1.restful hfree).1, rfl, nofun⟩
  rw [hw]
  exact ⟨rfl, rfl, rfl, rfl, rfl, rfl⟩

/-- A STOP of an ARMED lane releases it to STOPPED. -/
theorem stopLane_armed_controlled {ph : Phase} {s : State} (hs : s.lanesOk) {x : Exchange}
    (hx : (laneOf s ph).exchange = some x) (ha : (laneOf s ph).state = .armed) :
    (laneOf (controlled stopLane ph s) ph).state = .stopped ∧ (laneOf (controlled stopLane ph s) ph).exchange = none := by
  obtain ⟨m, hm, hstop, -⟩ := stopArmed_landed x ha
  have hlane : laneOf (stopLane s ph) ph = landedLane (freedLane m) := by
    rw [stopLane_armed ha hx, stopArmed_lane hs hx, if_pos rfl, hm]
  have hstate : (landedLane (freedLane m)).state = .stopped := (landedLane_state _).1.trans (if_pos hstop)
  have hnone : (landedLane (freedLane m)).exchange = none := (landedLane_kept _).1
  obtain ⟨w, hw⟩ := controlled_free hlane ⟨hnone, by rw [hstate]; rfl, by rw [hstate]; nofun⟩
  rw [hw]
  exact ⟨hstate, hnone⟩

/-- The other parts of the joined exchange that a STOP finds ARMED have an abort due at least (R83, R109). -/
theorem stopLane_armed_others {ph : Phase} {s : State} (hs : s.lanesOk) {x : Exchange} (hx : (laneOf s ph).exchange = some x)
    (ha : (laneOf s ph).state = .armed) (hj : x.joined = true) {q : Phase} (hq : q ≠ ph) {y : Exchange}
    (hy : (laneOf (controlled stopLane ph s) q).exchange = some y) (hxy : y.exch = x.exch) : y.abortDue ≠ none := by
  obtain ⟨z, hz, hzy⟩ := ((tell_moves (askedAfterControl s (stopLane s ph)) (stopLane s ph)).lanes q).part y hy
  rw [stopLane_armed ha hx] at hz
  have hlane := stopArmed_lane hs hx q
  rw [if_neg hq] at hlane
  rw [hlane] at hz
  refine hzy.2 ?_
  by_cases hh : holdsExchange x.exch s q = true
  · rw [if_pos ⟨hj, hh⟩] at hz
    exact abortedWhole_abortDue hz
  · rw [if_neg fun h => hh h.2] at hz
    exact absurd (holdsExchange_iff.2 ⟨z, hz, hzy.exch.symm.trans hxy⟩) hh

/-- A STOP of a lane that sends or listens waits for the half-cycle's end, with the abort it makes due. -/
theorem stopLane_running_controlled {ph : Phase} {s : State}
    (h : (laneOf s ph).state = .sending ∨ (laneOf s ph).state = .listening) {x : Exchange}
    (hx : (laneOf s ph).exchange = some x) :
    controlled stopLane ph s = setLane s ph { laneOf s ph with
      stopDue := true
      exchange := some { x with abortDue := some (x.abortDue.getD .stopped) } } := by
  refine controlled_quiet ?_ rfl rfl (setLane_state_same rfl)
  rw [stopLane_running h, markAbort, stopNoted, laneOf_setLane_self, hx]
  show ({ s with lanes := putPhase (putPhase s.lanes ph _) ph _ } : State) = _
  rw [putPhase_putPhase]
  rfl

/-- Settles O33, by the state in which the STOP finds the lane. -/
theorem stopTakesLaneOutAtOnce : Obligations.StopTakesLaneOutAtOnce := by
  unfold Obligations.StopTakesLaneOutAtOnce
  refine ⟨fun tag mask s hroom hbad => ?_, fun tag mask ph s hs hroom hmask hle => ?_⟩
  · exact ⟨answers_of_serve (rq := .laneControl mask 1) rfl rfl hroom fun u => serveLaneControl_bad hbad _ _,
      answers_of_serve (rq := .laneControl mask 2) rfl rfl hroom fun u => serveLaneControl_bad hbad _ _,
      answers_of_serve (rq := .laneControl mask 3) rfl rfl hroom fun u => serveLaneControl_bad hbad _ _⟩
  · obtain ⟨u, v, d, hexec, hq⟩ := exec_laneControl (c := .stop tag mask) rfl hmask hle (.inl rfl) hroom
    refine ⟨_, hexec, hq, (controlled_work 1 ph { s with uli := u }).outsideAnswered (rs := s.records) v d,
      fun hst => ?_, fun hfree hne => ?_, fun x hx ha => ⟨?_, ?_, fun hj q y hqp hy hxy => ?_⟩, fun x hx ha => ?_⟩
    · show ({ controlled stopLane ph { s with uli := u } with uli := v, draws := d } : State) = _
      rw [controlled_quiet (stopLane_stopped (s := { s with uli := u }) hst) rfl rfl fun _ => rfl]
    · exact stopLane_free_controlled (s := { s with uli := u }) hs hfree hne
    · exact (stopLane_armed_controlled (s := { s with uli := u }) hs hx ha).1
    · exact (stopLane_armed_controlled (s := { s with uli := u }) hs hx ha).2
    · exact stopLane_armed_others (s := { s with uli := u }) hs hx ha hj hqp hy hxy
    · have hrun := running_of_occupied ((hs ph).1.occupied hx) ha
      show ({ controlled stopLane ph { s with uli := u } with uli := v, draws := d } : State) = _
      rw [stopLane_running_controlled (s := { s with uli := u }) hrun hx]
      rfl

/-! ### PAUSE (R84) -/

theorem pauseLane_free {s : State} {ph : Phase}
    (h : (laneOf s ph).state = .idle ∨ (laneOf s ph).state = .reserved ∨ (laneOf s ph).state = .settling) :
    pauseLane s ph = setLane s ph (pausedLane (laneOf s ph)) := by
  rcases h with h | h | h <;> simp only [pauseLane, h]

theorem pauseLane_occupied {s : State} {ph : Phase} (h : isOccupied (laneOf s ph).state = true) :
    pauseLane s ph = setLane s ph { laneOf s ph with pauseDue := true } := by
  cases hl : (laneOf s ph).state <;> simp only [hl, isOccupied, Bool.false_eq_true] at h <;> simp only [pauseLane, hl]

theorem pauseLane_aside {s : State} {ph : Phase} (h : (laneOf s ph).state = .paused ∨ (laneOf s ph).state = .stopped) :
    pauseLane s ph = s := by
  rcases h with h | h <;> simp only [pauseLane, h]

/-- A PAUSE of a lane that is neither occupied nor set aside puts it in PAUSED at once. -/
theorem pauseLane_free_controlled {ph : Phase} {s : State} (hs : s.lanesOk)
    (h : (laneOf s ph).state = .idle ∨ (laneOf s ph).state = .reserved ∨ (laneOf s ph).state = .settling) :
    let l := laneOf (controlled pauseLane ph s) ph
    l.state = .paused ∧ l.reserved = none ∧ l.deferral = 0 ∧ l.settling = 0 := by
  have hfree : isOccupied (laneOf s ph).state = false := by rcases h with h | h | h <;> rw [h] <;> rfl
  have hpause : laneOf (pauseLane s ph) ph = pausedLane (laneOf s ph) := by
    rw [pauseLane_free h, laneOf_setLane_self]
  obtain ⟨w, hw⟩ := controlled_free hpause ⟨((hs ph).1.restful hfree).1, rfl, nofun⟩
  rw [hw]
  exact ⟨rfl, rfl, rfl, rfl⟩

/-! ### RESUME (R68, R85) -/

/-- The records that see a lane come back: all that are not DONE, where the lane was STOPPED and its phase is not LOST. -/
def seenAfter (s : State) (ph : Phase) : List Record :=
  if (laneOf s ph).state = .paused ∨ (ptuOf s ph).timing = .lost then s.records
  else s.records.map fun r => if isDone r = true then r else { r with lanesSeen := putPhase r.lanesSeen ph true }

theorem resumeLane_aside {s : State} {ph : Phase} (h : (laneOf s ph).state = .paused ∨ (laneOf s ph).state = .stopped) :
    resumeLane s ph = { s with
      lanes := putPhase s.lanes ph { laneOf s ph with state := .settling, settling := 0 }
      records := seenAfter s ph } := by
  rcases h with h | h
  · rw [seenAfter, if_pos (.inl h)]
    simp only [resumeLane, h]
    rfl
  · have hreach : outOfReach (setLane s ph { laneOf s ph with state := .settling, settling := 0 }) ph =
        decide ((ptuOf s ph).timing = .lost) := by
      rw [outOfReach, laneOf_setLane_self, Bool.beq_eq_decide_eq]
      exact Bool.false_or _
    simp only [resumeLane, h, laneSeen, hreach, seenAfter]
    by_cases hl : (ptuOf s ph).timing = .lost <;> simp [hl, setLane]

theorem resumeLane_other {s : State} {ph : Phase} (hp : (laneOf s ph).state ≠ .paused) (hs : (laneOf s ph).state ≠ .stopped) :
    resumeLane s ph = s := by
  unfold resumeLane
  dsimp only
  split
  · exact absurd ‹_› hp
  · exact absurd ‹_› hs
  all_goals rfl

/-- A lane that goes from PAUSED or STOPPED to SETTLING is as unusable as before, and no lane chooses again. -/
theorem resumeLane_controlled {s : State} {ph : Phase} (h : (laneOf s ph).state = .paused ∨ (laneOf s ph).state = .stopped) :
    controlled resumeLane ph s = { s with
      lanes := putPhase s.lanes ph { laneOf s ph with state := .settling, settling := 0 }
      records := seenAfter s ph } := by
  rw [controlled, resumeLane_aside h]
  generalize ht : ({ s with
      lanes := putPhase s.lanes ph { laneOf s ph with state := .settling, settling := 0 }
      records := seenAfter s ph } : State) = t
  have hlane : ∀ q, (laneOf t q).state = if q = ph then .settling else (laneOf s q).state := fun q => by
    subst ht
    split
    · rename_i hq
      subst hq
      exact congrArg Lane.state (atPhase_putPhase_self ..)
    · rename_i hq
      exact congrArg Lane.state (atPhase_putPhase_of_ne _ _ hq)
  have hservice : ∀ q, inService (laneOf t q).state = inService (laneOf s q).state := fun q => by
    rw [hlane]
    split
    · rename_i hq
      subst hq
      rcases h with h | h <;> rw [h] <;> rfl
    · rfl
  have hstopped : ∀ q, ((laneOf s q).state != .stopped && (laneOf t q).state == .stopped) = false := fun q => by
    rw [hlane]
    split
    · exact Bool.and_false _
    · exact not_enters_stopped rfl
  have hasked : askedAfterControl s t = [] := by
    rw [askedAfterControl, List.any_eq_false.2 fun q _ => by simp [hstopped q],
      usabilityChanged_nil fun q => usable_congr (by subst ht; rfl) (by subst ht; rfl) (hservice q)]
    rfl
  rw [hasked, tell_nil]

/-- Settles O34, by the states in which PAUSE and RESUME find the lane. -/
theorem pauseAndResumeSetLaneAside : Obligations.PauseAndResumeSetLaneAside := by
  unfold Obligations.PauseAndResumeSetLaneAside
  intro tag mask ph s hs hroom hmask hle
  refine ⟨?_, ?_⟩
  · obtain ⟨u, v, d, hexec, hq⟩ := exec_laneControl (c := .pause tag mask) rfl hmask hle (.inr (.inl rfl)) hroom
    refine ⟨_, hexec, hq, (controlled_work 2 ph { s with uli := u }).outsideAnswered (rs := s.records) v d,
      fun hfree => ?_, fun hocc => ?_, fun haside => ?_⟩
    · exact pauseLane_free_controlled (s := { s with uli := u }) hs hfree
    · show ({ controlled pauseLane ph { s with uli := u } with uli := v, draws := d } : State) = _
      rw [controlled_quiet (pauseLane_occupied (s := { s with uli := u }) hocc) rfl rfl (setLane_state_same rfl)]
      rfl
    · show ({ controlled pauseLane ph { s with uli := u } with uli := v, draws := d } : State) = _
      rw [controlled_quiet (pauseLane_aside (s := { s with uli := u }) haside) rfl rfl fun _ => rfl]
  · obtain ⟨u, v, d, hexec, hq⟩ := exec_laneControl (c := .resume tag mask) rfl hmask hle (.inr (.inr rfl)) hroom
    refine ⟨_, hexec, hq, fun haside => ?_, fun hp hst => ?_⟩
    · show ({ controlled resumeLane ph { s with uli := u } with uli := v, draws := d } : State) = _
      rw [resumeLane_controlled (s := { s with uli := u }) haside]
      rfl
    · show ({ controlled resumeLane ph { s with uli := u } with uli := v, draws := d } : State) = _
      rw [controlled_quiet (resumeLane_other (s := { s with uli := u }) hp hst) rfl rfl fun _ => rfl]

end Sys2Proof.Machine

/-! ## A boundary of an occupied lane whose exchange goes on (R74, R79, R103): O30 -/

namespace Sys2Proof.Machine

open Sys2Proof.Claims

/-! ### The half-cycles of an answer window (R98, R99) -/

theorem roleAt_unicast_answer_iff {p : Plan} {hops : Nat} (hk : p.kind = .unicast hops) (pos j : Nat) :
    roleAt p pos = .answer j ↔ j < p.a ∧ pos = (hops + 1) * (p.n + 1) + hops * (p.a + 1) + 1 + j := by
  have hframe : 0 < (hops + 1) * (p.n + 1) := Nat.mul_pos hops.succ_pos p.n.succ_pos
  have hwindow := Nat.div_add_mod (pos - 1 - (hops + 1) * (p.n + 1)) (p.a + 1)
  have hmod : (pos - 1 - (hops + 1) * (p.n + 1)) % (p.a + 1) < p.a + 1 := Nat.mod_lt _ p.a.succ_pos
  unfold roleAt
  simp only [hk]
  split
  · refine iff_of_false ?_ (by rintro ⟨-, rfl⟩; omega)
    split
    · nofun
    · split <;> nofun
  · rename_i hlate
    generalize hq : pos - 1 - (hops + 1) * (p.n + 1) = q at hwindow hmod
    have hplace : pos = (hops + 1) * (p.n + 1) + hops * (p.a + 1) + 1 + j ↔ q = hops * (p.a + 1) + j := by omega
    rw [hplace]
    by_cases hat : q / (p.a + 1) = hops
    · rw [hat, Nat.mul_comm] at hwindow
      split
      · exact iff_of_false nofun fun ⟨hj, he⟩ => by omega
      · rw [Role.answer.injEq]
        omega
    · have hne : ¬(j < p.a ∧ q = hops * (p.a + 1) + j) := fun ⟨hj, he⟩ => hat (by
        rw [he, Nat.mul_comm, Nat.mul_add_div p.a.succ_pos, Nat.div_eq_of_lt (by omega), Nat.add_zero])
      rw [if_neg hat]
      refine iff_of_false ?_ hne
      split <;> nofun

theorem roleAt_broadcast_answer_iff {p : Plan} {windows : Nat} (hk : p.kind = .broadcast windows) (pos j : Nat) :
    roleAt p pos = .answer j ↔ j < p.a ∧ ∃ k, k < windows ∧ pos = p.n + 2 + k * p.a + j := by
  unfold roleAt
  simp only [hk]
  split
  · exact iff_of_false nofun (by rintro ⟨-, k, -, rfl⟩; omega)
  · split
    · exact iff_of_false nofun (by rintro ⟨-, k, -, rfl⟩; omega)
    · split
      · rename_i hin
        have ha : 0 < p.a := Nat.pos_of_ne_zero fun h0 => by rw [h0, Nat.mul_zero] at hin; omega
        rw [Role.answer.injEq]
        constructor
        · rintro rfl
          refine ⟨Nat.mod_lt _ ha, (pos - 1 - (p.n + 1)) / p.a, Nat.div_lt_of_lt_mul (by rwa [Nat.mul_comm]), ?_⟩
          have hsum := Nat.div_add_mod' (pos - 1 - (p.n + 1)) p.a
          omega
        · rintro ⟨hj, k, -, rfl⟩
          rw [show p.n + 2 + k * p.a + j - 1 - (p.n + 1) = j + p.a * k by rw [Nat.mul_comm]; omega,
            Nat.add_mul_mod_self_left, Nat.mod_eq_of_lt hj]
      · rename_i hout
        refine iff_of_false nofun ?_
        rintro ⟨hj, k, hk', rfl⟩
        have hle : (k + 1) * p.a ≤ windows * p.a := Nat.mul_le_mul_right _ hk'
        rw [Nat.succ_mul] at hle
        omega

theorem roleAt_answer_iff (x : Exchange) (j : Nat) : roleAt x.plan x.position = .answer j ↔ answerHalf x j := by
  unfold answerHalf
  cases hk : x.plan.kind with
  | unicast hops => exact roleAt_unicast_answer_iff hk _ _
  | broadcast windows => exact roleAt_broadcast_answer_iff hk _ _

/-! ### What an exchange hears (R103, R104, R106) -/

theorem hearHalf_answer {ended : EndedHalf} {x : Exchange} {j : Nat} (h : answerHalf x j) :
    hearHalf ended x =
      if j + 1 = x.plan.a then
        { addJudgement (judgeAnswer x.mode ended.w x.lineTag (x.heard ++ [ended.samples])) x with heard := [] }
      else { x with heard := x.heard ++ [ended.samples] } := by
  rw [hearHalf, (roleAt_answer_iff x j).2 h]

theorem hearHalf_other {ended : EndedHalf} {x : Exchange} (h : ∀ j, ¬answerHalf x j) : hearHalf ended x = x := by
  unfold hearHalf
  split
  · rename_i j hj
    exact absurd ((roleAt_answer_iff x j).1 hj) (h j)
  · rfl

theorem addJudgement_good (d : Decode) (x : Exchange) :
    (addJudgement (.good d) x).collided = x.collided ∧
      ((∃ e ∈ x.decodes, e.address = d.address) → (addJudgement (.good d) x).decodes = x.decodes) ∧
      ((∀ e ∈ x.decodes, e.address ≠ d.address) → (addJudgement (.good d) x).decodes = x.decodes ++ [d]) := by
  have hany : (x.decodes.any fun e => e.address == d.address) = true ↔ ∃ e ∈ x.decodes, e.address = d.address := by simp
  simp only [addJudgement]
  split
  · rename_i hold
    obtain ⟨e, he, hea⟩ := hany.1 hold
    exact ⟨rfl, fun _ => rfl, fun hnew => absurd hea (hnew e he)⟩
  · rename_i hnew
    exact ⟨rfl, fun hold => absurd (hany.2 hold) hnew, fun _ => rfl⟩

/-- An exchange that reads as the ended half-cycle leaves it has heard it. -/
theorem halfHeard_of_hearHalf {h : HalfCycle} {ended : EndedHalf} (hsamples : ended.samples = h.samples) (hw : ended.w = h.w)
    {x y : Exchange} (hheard : y.heard = (hearHalf ended x).heard) (hdecodes : y.decodes = (hearHalf ended x).decodes)
    (hcollided : y.collided = (hearHalf ended x).collided) : halfHeard h x y := by
  unfold halfHeard
  rw [hheard, hdecodes, hcollided]
  refine ⟨fun j hj hlast => ?_, fun j hj hlast => ?_, fun hnone => ?_⟩
  · rw [hearHalf_answer hj, if_neg hlast, hsamples]
    exact ⟨rfl, rfl, rfl⟩
  · rw [hearHalf_answer hj, if_pos hlast, hsamples, hw]
    refine ⟨rfl, fun d hd => ?_, fun hd => ?_, fun hd => ?_⟩ <;> rw [hd]
    · exact addJudgement_good d x
    · exact ⟨rfl, rfl⟩
    · exact ⟨rfl, rfl⟩
  · rw [hearHalf_other hnone]
    exact ⟨rfl, rfl, rfl⟩

/-! ### The lane's own work -/

theorem stateForRole_eq (p : Plan) {pos : Nat} (h0 : pos ≠ 0) :
    stateForRole (roleAt p pos) = if pos ≤ p.n then .sending else .listening := by
  have hsend := roleAt_send_iff p h0
  cases hr : roleAt p pos <;> simp [hr] at hsend <;> simp [stateForRole, hsend, Nat.not_le.2]

theorem laneOf_startArmed {ph : Phase} {s : State} {x : Exchange} (hx : (laneOf s ph).exchange = some x) :
    laneOf (startArmed ph s) ph = { laneOf s ph with state := .sending, exchange := some { x with position := 1 } } := by
  rw [startArmed, laneOf_setLane_self, hx]
  rfl

/-- The lane after a half-cycle of an exchange that goes on (R74). -/
theorem laneOf_advanceExchange {ph : Phase} {s : State} {x : Exchange} (hx : (laneOf s ph).exchange = some x)
    (hd : x.abortDue = none) (ht : x.position < x.plan.t) (ended : EndedHalf) (o : ReportOrder) :
    laneOf (advanceExchange ph ended o s) ph =
      { laneOf s ph with
        state := if x.position < x.plan.n then .sending else .listening
        exchange := some { hearHalf ended x with position := x.position + 1 } } := by
  have hframe := hearHalf_frame ended x
  have hdue : (hearHalf ended x).abortDue = none := by rw [hframe]; exact hd
  have hplan : (hearHalf ended x).plan = x.plan := by rw [hframe]
  have hpos : (hearHalf ended x).position = x.position := by rw [hframe]
  have hgoes : ¬x.plan.t ≤ x.position := Nat.not_le.2 ht
  simp only [advanceExchange, hx, hdue, hplan, hpos, hgoes, ↓reduceIte, laneOf_setLane_self]
  rw [stateForRole_eq x.plan (Nat.succ_ne_zero _)]
  rfl

/-! ### The boundary around it -/

/-- A lane that sends or listens after its own work has no grant opportunity, and keeps what it has through the choosing
again (R69, R70). -/
theorem takeBoundary_running {ph : Phase} {mf : Bool} {o : ReportOrder} {s : State} {l : Lane} {x : Exchange}
    (hl : laneOf (laneAdvance ph (endedHalf (ptuOf s ph)) o (boundaryStart ph mf s)) ph = l)
    (hx : l.exchange = some x) (hst : l.state = .sending ∨ l.state = .listening) :
    ∃ y, (laneOf (takeBoundary ph mf o s) ph).exchange = some y ∧ sameBut x y ∧
      (laneOf (takeBoundary ph mf o s) ph).state = l.state := by
  have hlane : ∀ t, laneOf (boundaryEnd ph mf (endedHalf (ptuOf s ph)) t) ph = laneOf t ph := fun t => by
    rw [boundaryEnd_frame]
    rfl
  rw [takeBoundary_eq, hlane, laneBoundary]
  generalize laneAdvance ph (endedHalf (ptuOf s ph)) o (boundaryStart ph mf s) = s1 at hl
  generalize (if (laneOf s1 ph).state = .stopped ∧ (laneOf (boundaryStart ph mf s) ph).state ≠ .stopped then allPhases
    else [ph]) = asked
  subst hl
  obtain ⟨hstate, y, hy, hxy⟩ := ((tell_moves asked s1).lanes ph).running hx
    (by rcases hst with h | h <;> rw [h] <;> nofun) (by rcases hst with h | h <;> rw [h] <;> nofun)
  have hopp : ∀ v, isOpportunity (tell asked s1) ph v = false := fun v => by
    rw [isOpportunity, hstate]
    rcases hst with h | h <;> rw [h] <;> rfl
  rw [hopp]
  exact ⟨y, hy, hxy, hstate⟩

theorem laneOf_boundaryStart (ph : Phase) (mf : Bool) (s : State) (q : Phase) :
    laneOf (boundaryStart ph mf s) q = laneOf s q := by
  rw [boundaryStart_frame]
  rfl

theorem endedHalf_of_ready {s : State} {ph : Phase} {h : HalfCycle} {cyc : Cycle} (hb : boundaryReady s ph h cyc) :
    endedHalf (ptuOf s ph) = { samples := h.samples, w := h.w, time := h.start + h.length } := by
  obtain ⟨-, hh, -⟩ := hb
  rw [endedHalf, hh]

theorem laneAdvance_armed {ph : Phase} {s : State} (ha : (laneOf s ph).state = .armed) (ended : EndedHalf) (o : ReportOrder) :
    laneAdvance ph ended o s = startArmed ph s := by
  simp only [laneAdvance, ha]

theorem laneAdvance_running {ph : Phase} {s : State} (h : (laneOf s ph).state = .sending ∨ (laneOf s ph).state = .listening)
    (ended : EndedHalf) (o : ReportOrder) : laneAdvance ph ended o s = advanceExchange ph ended o s := by
  rcases h with h | h <;> simp only [laneAdvance, h]

/-- Settles O30, by whether the lane is ARMED. -/
theorem occupiedLaneAdvances : Obligations.OccupiedLaneAdvances := by
  unfold Obligations.OccupiedLaneAdvances
  intro ph mf o s h cyc x hb hs hx hgoes
  have hexec := exec_halfCycleBoundary_due (mf := mf) (o := o) (boundaryDue_of_ready hb)
  have hstart := laneOf_boundaryStart ph mf s ph
  have hx0 : (laneOf (boundaryStart ph mf s) ph).exchange = some x := by rw [hstart, hx]
  have hout : ∀ t, laneOf (transmit t) ph = laneOf t ph := fun t => by rw [laneOf, transmit_lanes, laneOf]
  by_cases ha : (laneOf s ph).state = .armed
  · obtain ⟨-, -, harmed, -⟩ := (hs ph).1
    have hpos : x.position = 0 := (harmed x hx).1 ha
    have hlane := laneOf_startArmed hx0
    rw [← laneAdvance_armed (by rw [hstart, ha]) (endedHalf (ptuOf s ph)) o] at hlane
    obtain ⟨y, hy, hxy, hst⟩ := takeBoundary_running hlane rfl (.inl rfl)
    obtain ⟨hsame, -⟩ := hxy
    refine ⟨_, y, hexec, by rw [hout, hy], ?_, fun _ => ⟨by rw [hout, hst], ?_, ?_, ?_⟩, fun hn => absurd ha hn⟩
    · rw [hpos]
      rw [hsame]
    all_goals rw [hsame]
  · obtain ⟨hdue, ht⟩ := hgoes.resolve_left ha
    have hrun := running_of_occupied ((hs ph).1.occupied hx) ha
    have hlane := laneOf_advanceExchange hx0 hdue ht (endedHalf (ptuOf s ph)) o
    rw [← laneAdvance_running (by rw [hstart]; exact hrun)] at hlane
    obtain ⟨y, hy, hxy, hst⟩ := takeBoundary_running hlane rfl (by
      dsimp only
      split
      · exact .inl rfl
      · exact .inr rfl)
    obtain ⟨hsame, -⟩ := hxy
    have hended := endedHalf_of_ready hb
    refine ⟨_, y, hexec, by rw [hout, hy], ?_, fun h' => absurd h' ha, fun _ => ⟨?_, by rw [hout, hst]⟩⟩
    · rw [hsame, hearHalf_frame]
    · refine halfHeard_of_hearHalf (ended := endedHalf (ptuOf s ph)) (by rw [hended]) (by rw [hended]) ?_ ?_ ?_ <;>
        rw [hsame]

end Sys2Proof.Machine

/-! ## What the reports of an exchange say of its parts (R107 to R114) -/

namespace Sys2Proof.Machine

open Sys2Proof.Claims

/-! ### The answers kept (R107) -/

theorem isKept_iff {parts : List EndedPart} {lane : Phase} {d : Decode} :
    isKept parts lane d = true ↔ ∀ lane' d', heardBy parts lane' d' → d'.address = d.address →
      d'.quality < d.quality ∨ d'.quality = d.quality ∧ laneRank lane ≤ laneRank lane' := by
  have hone : ∀ (p : EndedPart) (e : Decode),
      (e.address != d.address || decide (e.quality < d.quality) ||
        (e.quality == d.quality && decide (laneRank lane ≤ laneRank p.lane))) = true ↔
      (e.address = d.address → e.quality < d.quality ∨ e.quality = d.quality ∧ laneRank lane ≤ laneRank p.lane) :=
    fun p e => by
      simp only [Bool.or_eq_true, Bool.and_eq_true, bne_iff_ne, beq_iff_eq, decide_eq_true_eq]
      tauto
  have hall : isKept parts lane d = true ↔ ∀ p ∈ parts, ∀ e ∈ p.exchange.decodes, e.address = d.address →
      e.quality < d.quality ∨ e.quality = d.quality ∧ laneRank lane ≤ laneRank p.lane := by
    refine List.all_eq_true.trans (forall₂_congr fun p _ => List.all_eq_true.trans (forall₂_congr fun e _ => ?_))
    exact hone p e
  rw [hall]
  constructor
  · rintro h _ d' ⟨p, hp, rfl, hd⟩
    exact h p hp d' hd
  · exact fun h p hp e he => h p.lane e ⟨p, hp, rfl, he⟩

theorem mem_partsInOrder {parts : List EndedPart} {p : EndedPart} : p ∈ partsInOrder parts ↔ p ∈ parts := by
  simp [partsInOrder, mem_allPhases]

theorem mem_keptAnswers {parts : List EndedPart} {lane : Phase} {d : Decode} :
    (lane, d) ∈ keptAnswers parts ↔ keptFor parts lane d := by
  unfold keptFor
  rw [← isKept_iff]
  constructor
  · intro h
    obtain ⟨p, hp, hm⟩ := List.mem_flatMap.1 h
    obtain ⟨e, he, heq⟩ := List.mem_map.1 hm
    obtain ⟨hdec, hkept⟩ := List.mem_filter.1 he
    cases heq
    exact ⟨⟨p, mem_partsInOrder.1 hp, rfl, hdec⟩, hkept⟩
  · rintro ⟨⟨p, hp, rfl, hd⟩, hkept⟩
    exact List.mem_flatMap.2 ⟨p, mem_partsInOrder.2 hp, List.mem_map.2 ⟨d, List.mem_filter.2 ⟨hd, hkept⟩, rfl⟩⟩

/-! ### The end report (R108 to R112) -/

variable {last : EndedPart} {parts : List EndedPart} {time : Nat}

theorem mem_answered {u : Nat} {v : Byte} :
    (u, v) ∈ (endReportOf last parts time).answered ↔
      ∃ a k, (u, a) ∈ last.exchange.targets ∧
        (keptAnswers parts).find? (fun k => k.2.address == a) = some k ∧ k.2.status = v := by
  simp only [endReportOf, List.mem_filterMap, Option.map_eq_some_iff, Prod.mk.injEq, Prod.exists]
  constructor
  · rintro ⟨u', a, hmem, k, d, hfind, rfl, rfl⟩
    exact ⟨a, k, d, hmem, hfind, rfl⟩
  · rintro ⟨a, k, d, hmem, hfind, rfl⟩
    exact ⟨u, a, hmem, k, d, hfind, rfl, rfl⟩

theorem answered_kept {u : Nat} {v : Byte} (h : (u, v) ∈ (endReportOf last parts time).answered) :
    ∃ a lane d, (u, a) ∈ last.exchange.targets ∧ keptFor parts lane d ∧ d.address = a ∧ d.status = v := by
  obtain ⟨a, k, hmem, hfind, hv⟩ := mem_answered.1 h
  exact ⟨a, k.1, k.2, hmem, mem_keptAnswers.1 (List.mem_of_find?_eq_some hfind),
    by simpa using List.find?_some hfind, hv⟩

theorem answered_of_kept {u : Nat} {a : Address} {lane : Phase} {d : Decode} (hmem : (u, a) ∈ last.exchange.targets)
    (hkept : keptFor parts lane d) (ha : d.address = a) : ∃ v, (u, v) ∈ (endReportOf last parts time).answered := by
  cases hfind : (keptAnswers parts).find? (fun k => k.2.address == a) with
  | none => exact absurd (beq_iff_eq.2 ha) (List.find?_eq_none.1 hfind _ (mem_keptAnswers.2 hkept))
  | some k => exact ⟨_, mem_answered.2 ⟨a, k, hmem, hfind, rfl⟩⟩

theorem notAnswered_iff (u : Nat) :
    (endReportOf last parts time).notAnswered = some u ↔
      last.exchange.work = .unicast u ∧ ∀ v, (u, v) ∉ (endReportOf last parts time).answered := by
  have hnot : (endReportOf last parts time).notAnswered = match last.exchange.work with
      | .unicast i => if (endReportOf last parts time).answered.any (fun a => a.1 == i) then none else some i
      | .part _ => none := rfl
  rw [hnot]
  generalize (endReportOf last parts time).answered = answered
  cases last.exchange.work with
  | part k => simp
  | unicast i =>
    by_cases h : (answered.any fun a => a.1 == i) = true
    · obtain ⟨⟨j, v⟩, hmem, hj⟩ := List.any_eq_true.1 h
      simp only [h, ↓reduceIte, reduceCtorEq, Work.unicast.injEq, false_iff, not_and, not_forall, not_not]
      rintro rfl
      have hij : j = i := beq_iff_eq.1 hj
      exact ⟨v, hij ▸ hmem⟩
    · simp only [h, Bool.false_eq_true, ↓reduceIte, Option.some.injEq, Work.unicast.injEq]
      refine ⟨fun hi => ⟨hi, fun v hv => h (List.any_eq_true.2 ⟨_, hv, beq_iff_eq.2 hi.symm⟩)⟩, And.left⟩

theorem cause_of_lane (h : last.exchange.joined = false) :
    (endReportOf last parts time).cause = last.cause ∧ (endReportOf last parts time).abortedWhole = false := by
  simp [endReportOf, reportCause, h]

/-- The cause of a joined exchange's end: what aborted it whole, and otherwise none if one part ran to its end (R112). -/
theorem cause_of_joined (h : last.exchange.joined = true) :
    ((endReportOf last parts time).abortedWhole = true ↔ last.exchange.wholeAbort ≠ none) ∧
      (∀ c, last.exchange.wholeAbort = some c → (endReportOf last parts time).cause = some c) ∧
      (last.exchange.wholeAbort = none → (∃ p ∈ parts, p.cause = none) → (endReportOf last parts time).cause = none) ∧
      (last.exchange.wholeAbort = none → (∀ p ∈ parts, p.cause ≠ none) →
        (endReportOf last parts time).cause = last.cause) := by
  refine ⟨?_, fun c hc => ?_, fun hw ⟨p, hp, hn⟩ => ?_, fun hw hall => ?_⟩
  · simp [endReportOf, h, Option.isSome_iff_ne_none]
  · simp [endReportOf, reportCause, h, hc]
  · have hany : (parts.any fun p => p.cause == none) = true := List.any_eq_true.2 ⟨p, hp, by rw [hn]; rfl⟩
    simp only [endReportOf, reportCause, h, hw, hany, ↓reduceIte]
  · have hany : (parts.any fun p => p.cause == none) = false := List.any_eq_false.2 fun p hp => by
      rw [beq_iff_eq]
      exact hall p hp
    simp only [endReportOf, reportCause, h, hw, hany, Bool.false_eq_true, ↓reduceIte]

/-! ### The learning report (R113, R114) -/

theorem mem_learnedAnswers (rep : EndReport) (k : KeptAnswer) :
    k ∈ (learningReportOf last parts rep).answers ↔
      ∃ d, keptFor parts k.lane d ∧ k.address = d.address ∧ k.quality = d.quality ∧ k.hops = hopsOf last.exchange := by
  simp only [learningReportOf, List.mem_map, Prod.exists, mem_keptAnswers]
  constructor
  · rintro ⟨lane, d, hkept, rfl⟩
    exact ⟨d, hkept, rfl, rfl, rfl⟩
  · rintro ⟨d, hkept, ha, hq, hh⟩
    refine ⟨k.lane, d, hkept, ?_⟩
    rw [← ha, ← hq, ← hh]

theorem silence_some {rep : EndReport} {u : Nat} {a : Address} (h : (learningReportOf last parts rep).silence = some (u, a)) :
    rep.cause = none ∧ rep.notAnswered = some u ∧ (u, a) ∈ last.exchange.targets := by
  unfold learningReportOf at h
  cases hc : rep.cause with
  | some c => simp [hc] at h
  | none =>
    cases hn : rep.notAnswered with
    | none => simp [hc, hn] at h
    | some i =>
      simp only [hc, hn] at h
      have hi : u = i := by simpa using List.find?_some h
      exact ⟨rfl, by rw [hi], List.mem_of_find?_eq_some h⟩

theorem silence_ne_none {rep : EndReport} {u : Nat} {a : Address} (hc : rep.cause = none) (hn : rep.notAnswered = some u)
    (hmem : (u, a) ∈ last.exchange.targets) : (learningReportOf last parts rep).silence ≠ none := by
  simp only [learningReportOf, hc, hn, ne_eq, List.find?_eq_none, beq_iff_eq]
  exact fun h => h _ hmem rfl

end Sys2Proof.Machine

/-! ## What runs on beside the exchanges in hand (R55, R69 to R78)

`PartsKept` says that an operation gives the lanes only the exchanges that they have and new ones of unused numbers, and that
it leaves alone the ended parts of an exchange that no ARMED lane holds. `RunsOn` adds that reports already formed stay where
they stand and that no record's collided windows are counted again. -/

namespace Sys2Proof.Machine

open Sys2Proof.Claims

/-! ### The relations -/

structure PartsKept (s t : State) : Prop where
  number : s.nextExchange ≤ t.nextExchange
  held : ∀ q y, (laneOf t q).exchange = some y → s.nextExchange ≤ y.exch ∨
    (∃ x, (laneOf s q).exchange = some x ∧ y.exch = x.exch) ∧ ((laneOf s q).state ≠ .armed → (laneOf t q).state ≠ .armed)
  ended : ∀ n, n < s.nextExchange → noneArmed n s → partsOf n t = partsOf n s
  pins : ∀ q, (laneOf s q).txen = false ∧ (laneOf s q).drv = false → (laneOf t q).txen = false ∧ (laneOf t q).drv = false

/-- What counts the collided windows of a record. -/
def tally (r : Record) : Nat × Nat := (r.serial, r.collided)

/-- No record's collided windows are counted again, where serial numbers keep the records apart. -/
def talliesKept (s t : State) : Prop :=
  (s.records.map Record.serial).Nodup → t.records.map tally = s.records.map tally

structure RunsOn (s t : State) : Prop extends PartsKept s t where
  ends : ∃ more, t.endReports = s.endReports ++ more
  learned : ∃ more, t.learningReports = s.learningReports ++ more
  tallies : talliesKept s t

theorem serials_of_tallies {s t : State} (h : t.records.map tally = s.records.map tally) :
    t.records.map Record.serial = s.records.map Record.serial := by
  have hfst : ∀ rs : List Record, rs.map Record.serial = (rs.map tally).map Prod.fst := fun rs => by
    rw [List.map_map]
    rfl
  rw [hfst, hfst, h]

theorem talliesKept.trans {a b c : State} (h : talliesKept a b) (k : talliesKept b c) : talliesKept a c := fun hn =>
  (k (by rwa [serials_of_tallies (h hn)])).trans (h hn)

/-- A lane that gets no new exchange and is not made ARMED. -/
theorem noneArmed.on {n : Nat} {s t : State} (h : PartsKept s t) (hlt : n < s.nextExchange) (hn : noneArmed n s) :
    noneArmed n t := fun q y hy hyn => by
  rcases h.held q y hy with hnew | ⟨⟨x, hx, hxy⟩, harmed⟩
  · exact absurd hyn (Nat.ne_of_gt (hlt.trans_le hnew))
  · exact harmed (hn q x hx (hxy.symm.trans hyn))

theorem PartsKept.trans {a b c : State} (h : PartsKept a b) (k : PartsKept b c) : PartsKept a c where
  number := h.number.trans k.number
  held q z hz := by
    rcases k.held q z hz with hnew | ⟨⟨y, hy, hzy⟩, harmed⟩
    · exact .inl (h.number.trans hnew)
    · rcases h.held q y hy with hnew | ⟨⟨x, hx, hyx⟩, harmed'⟩
      · exact .inl (hzy ▸ hnew)
      · exact .inr ⟨⟨x, hx, hzy.trans hyx⟩, harmed ∘ harmed'⟩
  ended n hlt hn := (k.ended n (hlt.trans_le h.number) (hn.on h hlt)).trans (h.ended n hlt hn)
  pins q := k.pins q ∘ h.pins q

theorem RunsOn.trans {a b c : State} (h : RunsOn a b) (k : RunsOn b c) : RunsOn a c where
  toPartsKept := h.toPartsKept.trans k.toPartsKept
  ends := by
    obtain ⟨m, hm⟩ := h.ends
    obtain ⟨n, hn⟩ := k.ends
    exact ⟨m ++ n, by rw [hn, hm, List.append_assoc]⟩
  learned := by
    obtain ⟨m, hm⟩ := h.learned
    obtain ⟨n, hn⟩ := k.learned
    exact ⟨m ++ n, by rw [hn, hm, List.append_assoc]⟩
  tallies := h.tallies.trans k.tallies

/-- Lanes that keep their exchanges and their states, or leave off being RESERVED, and keep their pins. -/
theorem partsKept_of_lanes {s t : State} (hn : t.nextExchange = s.nextExchange) (he : t.endedParts = s.endedParts)
    (h : ∀ q, (laneOf t q).exchange = (laneOf s q).exchange ∧ ((laneOf s q).state ≠ .armed → (laneOf t q).state ≠ .armed) ∧
      (laneOf t q).txen = (laneOf s q).txen ∧ (laneOf t q).drv = (laneOf s q).drv) : PartsKept s t where
  number := hn.ge
  held q y hy := .inr ⟨⟨y, (h q).1.symm.trans hy, rfl⟩, (h q).2.1⟩
  ended n _ _ := by rw [partsOf, he, partsOf]
  pins q hp := by
    obtain ⟨-, -, htxen, hdrv⟩ := h q
    rwa [htxen, hdrv]

theorem partsKept_of_eq {s t : State} (hn : t.nextExchange = s.nextExchange) (he : t.endedParts = s.endedParts)
    (hl : t.lanes = s.lanes) : PartsKept s t :=
  partsKept_of_lanes hn he fun q => by
    rw [laneOf, hl]
    exact ⟨rfl, id, rfl, rfl⟩

theorem PartsKept.runsOn {s t : State} (h : PartsKept s t) (he : t.endReports = s.endReports)
    (hl : t.learningReports = s.learningReports) (hr : talliesKept s t) : RunsOn s t :=
  { h with ends := ⟨[], by rw [he, List.append_nil]⟩, learned := ⟨[], by rw [hl, List.append_nil]⟩, tallies := hr }

theorem runsOn_of_eq {s t : State} (hn : t.nextExchange = s.nextExchange) (he : t.endedParts = s.endedParts)
    (hl : t.lanes = s.lanes) (hends : t.endReports = s.endReports) (hlearned : t.learningReports = s.learningReports)
    (hr : talliesKept s t) : RunsOn s t := (partsKept_of_eq hn he hl).runsOn hends hlearned hr

theorem RunsOn.refl (s : State) : RunsOn s s := runsOn_of_eq rfl rfl rfl rfl rfl fun _ => rfl

theorem RunsOn.foldl {α : Type} {f : State → α → State} (h : ∀ s a, RunsOn s (f s a)) :
    ∀ (as : List α) (s : State), RunsOn s (as.foldl f s)
  | [], s => .refl s
  | a :: as, s => (h s a).trans (RunsOn.foldl h as (f s a))

theorem LanesMove.parts {s t : State} (h : LanesMove s t) (hn : t.nextExchange = s.nextExchange) : PartsKept s t where
  number := hn.ge
  held q y hy := by
    obtain ⟨x, hx, hxy⟩ := (h.lanes q).part y hy
    exact .inr ⟨⟨x, hx, hxy.exch⟩, (h.lanes q).notArmed⟩
  ended n _ := h.ended n
  pins q := (h.lanes q).pins

theorem tallies_of_chosen {rs rs' : List Record} (h : List.Forall₂ RecordChosen rs rs') : rs'.map tally = rs.map tally := by
  induction h with
  | nil => rfl
  | cons hr _ ih => rw [List.map_cons, List.map_cons, ih, tally, tally, hr.continues.1, hr.collided]

theorem tell_runsOn (asked : List Phase) (s : State) : RunsOn s (tell asked s) :=
  { (tell_moves asked s).parts (tell_work asked s).nextExchange with
    ends := (tell_choice asked s).ends
    learned := (tell_choice asked s).learned
    tallies := fun _ => tallies_of_chosen (tell_chosen asked s) }

/-! ### Records put back -/

theorem putRecord_tallies {s : State} {r r' : Record} (hr : r ∈ s.records) (h : tally r' = tally r) :
    talliesKept s (putRecord r' s) := fun hn => by
  obtain ⟨hserial, -⟩ := Prod.mk.inj h
  rw [putRecord, commitRecords_records, List.map_map]
  refine List.map_congr_left fun q hq => ?_
  show tally (if q.serial = r'.serial then r' else q) = tally q
  split
  · rename_i hs
    rw [h, eq_of_serial hn hq hr (hs.trans hserial)]
  · rfl

theorem putRecord_runsOn {s : State} {r r' : Record} (hr : r ∈ s.records) (h : tally r' = tally r) :
    RunsOn s (putRecord r' s) := by
  have htallies := putRecord_tallies hr h
  rw [putRecord, commitRecords_frame] at htallies ⊢
  exact runsOn_of_eq rfl rfl rfl rfl rfl htallies

theorem reportBroken_runsOn (serial unit : Nat) (s : State) : RunsOn s (reportBroken serial unit s) := by
  unfold reportBroken
  split
  · exact .refl s
  · rename_i r hr
    refine putRecord_runsOn (recordOf_mem hr).1 ?_
    have hchosen := completeIfFinished_chosen s { r with targets := r.targets.map fun t =>
      if t.unit = unit ∧ t.outcome = .pending then { t with outcome := .unreached .routeBroken } else t }
    rw [tally, hchosen.continues.1, hchosen.collided]
    rfl

theorem applyGrant_runsOn (ph : Phase) (i : WorkItem) (units : List Nat) (s : State) :
    RunsOn s (applyGrant ph i units s) := by
  cases hr : recordOf s i.serial with
  | none =>
    rw [applyGrant_none hr]
    exact .refl s
  | some r =>
    rw [applyGrant_some hr]
    exact (putRecord_runsOn (r' := grantedRecord ph i units r) (recordOf_mem hr).1 rfl).trans
      (runsOn_of_eq rfl rfl rfl rfl rfl fun _ => rfl)

/-! ### The grant opportunity -/

theorem walkCandidates_runsOn (ph : Phase) : ∀ (cs : List WorkItem) (s : State), RunsOn s (walkCandidates ph cs s).1
  | [], s => .refl s
  | i :: rest, s => by
    unfold walkCandidates
    split
    · split
      · exact (reportBroken_runsOn _ _ s).trans (walkCandidates_runsOn ph rest _)
      · split
        · exact .refl s
        · exact walkCandidates_runsOn ph rest s
    · split
      · exact .refl s
      · exact walkCandidates_runsOn ph rest s

theorem walked_runsOn (ph : Phase) (s : State) : RunsOn s (walked ph s) := by
  unfold walked
  dsimp only
  split
  · exact (walkCandidates_runsOn ph _ s).trans (tell_runsOn _ _)
  · exact walkCandidates_runsOn ph _ s

theorem setLane_parts {s : State} {ph : Phase} {l : Lane} (hx : l.exchange = (laneOf s ph).exchange)
    (ha : (laneOf s ph).state ≠ .armed → l.state ≠ .armed) (ht : l.txen = (laneOf s ph).txen) (hd : l.drv = (laneOf s ph).drv) :
    PartsKept s (setLane s ph l) :=
  partsKept_of_lanes rfl rfl fun q => by
    by_cases hq : q = ph
    · subst hq
      rw [laneOf_setLane_self]
      exact ⟨hx, ha, ht, hd⟩
    · rw [laneOf_setLane_of_ne _ _ hq]
      exact ⟨rfl, id, rfl, rfl⟩

theorem setLane_runsOn {s : State} {ph : Phase} {l : Lane} (hx : l.exchange = (laneOf s ph).exchange)
    (ha : (laneOf s ph).state ≠ .armed → l.state ≠ .armed) (ht : l.txen = (laneOf s ph).txen) (hd : l.drv = (laneOf s ph).drv) :
    RunsOn s (setLane s ph l) := (setLane_parts hx ha ht hd).runsOn rfl rfl fun _ => rfl

theorem releaseReserved_runsOn (s : State) (ph : Phase) : RunsOn s (releaseReserved s ph) := by
  unfold releaseReserved
  dsimp only
  split
  · exact setLane_runsOn rfl (fun _ => nofun) rfl rfl
  · exact .refl s

/-- Lanes that are given an exchange of the next number (R73, R78, log 18). -/
theorem runsOn_of_granted {s t : State} (hn : t.nextExchange = s.nextExchange + 1) (he : t.endedParts = s.endedParts)
    (hends : t.endReports = s.endReports) (hlearned : t.learningReports = s.learningReports) (hr : t.records = s.records)
    (h : ∀ q, laneOf t q = laneOf s q ∨ (∃ x, (laneOf t q).exchange = some x ∧ x.exch = s.nextExchange) ∧
      (laneOf t q).txen = (laneOf s q).txen ∧ (laneOf t q).drv = (laneOf s q).drv) : RunsOn s t := by
  refine PartsKept.runsOn ⟨by omega, fun q y hy => ?_, fun n _ _ => by rw [partsOf, he, partsOf], fun q hp => ?_⟩ hends hlearned
    fun _ => by rw [hr]
  · rcases h q with hq | ⟨⟨x, hx, hxn⟩, -⟩
    · rw [hq] at hy ⊢
      exact .inr ⟨⟨y, hy, rfl⟩, id⟩
    · cases hx.symm.trans hy
      exact .inl hxn.ge
  · rcases h q with hq | ⟨-, ht, hd⟩
    · rwa [hq]
    · rwa [ht, hd]

theorem grantedState_runsOn (s : State) (r : Record) (i : WorkItem) (ph : Phase) (forced : Bool) :
    RunsOn s (grantedState s r i ph forced) :=
  runsOn_of_granted rfl rfl rfl rfl rfl fun q => by
    rw [laneOf_grantedState]
    split
    · exact .inr ⟨⟨_, rfl, rfl⟩, rfl, rfl⟩
    · exact .inl rfl

theorem joinedState_runsOn (s : State) (r : Record) (i : WorkItem) (ph : Phase) : RunsOn s (joinedState s r i ph) :=
  runsOn_of_granted rfl rfl rfl rfl rfl fun q => by
    rw [laneOf_joinedState]
    split
    · exact .inr ⟨⟨_, rfl, rfl⟩, rfl, rfl⟩
    · exact .inl rfl

theorem grantOnLane_runsOn (ph : Phase) (i : WorkItem) (forced : Bool) (s : State) :
    RunsOn s (grantOnLane ph i forced s) := by
  rcases grantOnLane_cases ph i forced s with he | ⟨r, -, he⟩ <;> rw [he]
  · exact .refl s
  · exact ((grantedState_runsOn s r i ph forced).trans (applyGrant_runsOn ..)).trans (tell_runsOn _ _)

theorem joinedGrant_runsOn (ph : Phase) (i : WorkItem) (s : State) : RunsOn s (joinedGrant ph i s) := by
  rcases joinedGrant_cases ph i s with he | ⟨ps, he⟩ | ⟨r, -, -, he⟩ <;> rw [he]
  · exact .refl s
  · exact RunsOn.foldl releaseReserved_runsOn ps s
  · exact ((joinedState_runsOn s r i ph).trans (applyGrant_runsOn ..)).trans (tell_runsOn _ _)

theorem reserveLane_runsOn (ph : Phase) (i : WorkItem) (forced : Bool) (s : State) :
    RunsOn s (reserveLane ph i forced s) := by
  unfold reserveLane
  split
  · exact (setLane_runsOn (l := { laneOf s ph with state := .reserved, reserved := some ⟨i, forced⟩ }) rfl (fun _ => nofun)
      rfl rfl).trans (joinedGrant_runsOn ph i _)
  · exact .refl s

theorem actOn_runsOn (ph : Phase) (i : WorkItem) (forced : Bool) (s : State) : RunsOn s (actOn ph i forced s) := by
  have hstart : RunsOn s (undeferred ph s) :=
    setLane_runsOn (l := { laneOf s ph with deferral := 0 }) rfl id rfl rfl
  refine hstart.trans ?_
  show RunsOn (undeferred ph s) (if i.joined then reserveLane ph i forced (undeferred ph s)
    else grantOnLane ph i forced (undeferred ph s))
  split
  · exact reserveLane_runsOn ph i forced _
  · exact grantOnLane_runsOn ph i forced _

theorem carrierTest_runsOn (ph : Phase) (v : Verdict) (i : WorkItem) (s : State) : RunsOn s (carrierTest ph v i s) := by
  unfold carrierTest
  split
  · exact actOn_runsOn ph i false s
  · dsimp only
    split
    · exact setLane_runsOn rfl id rfl rfl
    · have hraise : RunsOn s (raise .lineBusy s) := by
        rw [raise_frame]
        exact runsOn_of_eq rfl rfl rfl rfl rfl fun _ => rfl
      exact hraise.trans (actOn_runsOn ph i true _)
  · exact .refl s

theorem opportunity_runsOn (ph : Phase) (v : Verdict) (s : State) : RunsOn s (opportunity ph v s) := by
  rw [opportunity_eq]
  refine (walked_runsOn ph s).trans ?_
  split
  · exact releaseReserved_runsOn _ _
  · split
    · exact joinedGrant_runsOn _ _ _
    · exact carrierTest_runsOn _ _ _ _

end Sys2Proof.Machine

/-! ## The end of an exchange's part, and the reports that it forms (R74, R107 to R114): O31 -/

namespace Sys2Proof.Machine

open Sys2Proof.Claims

/-! ### Reports taken at once (R111, R119 to R126) -/

theorem applyEndReport_parts (rep : EndReport) (s : State) : PartsKept s (applyEndReport rep s) := by
  rw [applyEndReport_frame]
  exact partsKept_of_eq rfl rfl rfl

theorem applyLearning_parts (rep : LearningReport) (s : State) : PartsKept s (applyLearning rep s) := by
  obtain ⟨us, ds, e, u, h⟩ := applyLearning_frame rep s
  rw [h]
  exact partsKept_of_eq rfl rfl rfl

theorem takeQueueReport_parts (n : Nat) (s : State) : PartsKept s (takeQueueReport n s) := by
  unfold takeQueueReport
  split
  · exact (RunsOn.refl s).toPartsKept
  · rename_i rep rest _
    have hout : PartsKept s { s with endReports := s.endReports.take n ++ rest } := partsKept_of_eq rfl rfl rfl
    exact (hout.trans (applyEndReport_parts rep _)).trans (tell_runsOn _ _).toPartsKept

theorem takeTableReport_parts (n : Nat) (s : State) : PartsKept s (takeTableReport n s) := by
  unfold takeTableReport
  split
  · exact (RunsOn.refl s).toPartsKept
  · rename_i rep rest _
    have hout : PartsKept s { s with learningReports := s.learningReports.take n ++ rest } := partsKept_of_eq rfl rfl rfl
    have hlearned := hout.trans (applyLearning_parts rep _)
    dsimp only
    split
    · exact hlearned.trans (tell_runsOn _ _).toPartsKept
    · exact hlearned

theorem takeReports_parts (o : ReportOrder) (m n : Nat) (s : State) : PartsKept s (takeReports o m n s) := by
  cases o with
  | neither => exact (RunsOn.refl s).toPartsKept
  | queueOnly => exact takeQueueReport_parts m s
  | tableOnly => exact takeTableReport_parts n s
  | queueThenTable => exact (takeQueueReport_parts m s).trans (takeTableReport_parts n _)
  | tableThenQueue => exact (takeTableReport_parts n s).trans (takeQueueReport_parts m _)

/-! ### What is learned depends on the table and the silence limit alone -/

theorem applyAnswer_units_congr {s t : State} (h : t.units = s.units) (ans : KeptAnswer) :
    (applyAnswer ans t).units = (applyAnswer ans s).units := by
  have hoffer : ∀ a m, (offerDiscovery a m).units = m.units := fun a m => by
    unfold offerDiscovery
    split
    · rfl
    · split <;> rw [raise_frame]
  unfold applyAnswer unitAt
  rw [h]
  split
  · dsimp only
    split
    · rw [(raiseIf_work _ _ _).units, (raiseIf_work _ _ _).units]
    · exact h
  · split
    · exact h
    · rw [hoffer, hoffer, h]

theorem foldl_applyAnswer_units_congr : ∀ (as : List KeptAnswer) {s t : State} (_ : t.units = s.units),
    (as.foldl (fun st ans => applyAnswer ans st) t).units = (as.foldl (fun st ans => applyAnswer ans st) s).units
  | [], _, _, h => h
  | a :: as, _, _, h => foldl_applyAnswer_units_congr as (applyAnswer_units_congr h a)

theorem foldl_applyAnswer_profile (as : List KeptAnswer) (s : State) :
    (as.foldl (fun st ans => applyAnswer ans st) s).profile = s.profile := by
  obtain ⟨us, ds, e, u, h⟩ := foldl_applyAnswer_frame as s
  rw [h]

theorem applySilence_units_congr {s t : State} (h : t.units = s.units) (hp : t.profile = s.profile) (i : Nat) (a : Address) :
    (applySilence i a t).units = (applySilence i a s).units := by
  unfold applySilence unitAt
  rw [h, hp]
  dsimp only
  split
  · rfl
  · exact h

theorem applyLearning_units_congr {s t : State} (h : t.units = s.units) (hp : t.profile = s.profile) (rep : LearningReport) :
    (applyLearning rep t).units = (applyLearning rep s).units := by
  have hheard := foldl_applyAnswer_units_congr rep.answers h
  unfold applyLearning
  dsimp only
  split
  · exact hheard
  · exact applySilence_units_congr hheard (by rw [foldl_applyAnswer_profile, foldl_applyAnswer_profile, hp]) _ _

/-! ### Where the two reports of an ended exchange stand -/

/-- What has become of the end report `rep` and the learning report `learned`, formed when `E` and `L` were in transit: the
queue has taken the one or not, the table the other or not, and later reports stand after them. -/
structure ReportsStand (queue table : Bool) (E : List EndReport) (L : List LearningReport) (rep : EndReport)
    (learned : LearningReport) (s t : State) : Prop where
  ends : ∃ more, t.endReports = E ++ (if queue then [] else [rep]) ++ more
  learning : ∃ more, t.learningReports = L ++ (if table then [] else [learned]) ++ more
  units : t.units = if table then (applyLearning learned s).units else s.units
  profile : t.profile = s.profile
  apart : (t.records.map Record.serial).Nodup
  counted : ∀ r ∈ s.records, r.serial = rep.serial → ∃ r' ∈ t.records,
    tally r' = (r.serial, if queue then min 65535 (r.collided + rep.collided) else r.collided)

section

variable {queue table : Bool} {E : List EndReport} {L : List LearningReport} {rep : EndReport} {learned : LearningReport}
  {s t : State}

theorem reportsStand_start (he : s.endReports = E ++ [rep]) (hl : s.learningReports = L ++ [learned])
    (hn : (s.records.map Record.serial).Nodup) : ReportsStand false false E L rep learned s s :=
  ⟨⟨[], by simp [he]⟩, ⟨[], by simp [hl]⟩, rfl, rfl, hn, fun r hr _ => ⟨r, hr, rfl⟩⟩

theorem ReportsStand.runsOn (h : ReportsStand queue table E L rep learned s t) {t' : State} (k : RunsOn t t')
    (hu : t'.units = t.units) (hp : t'.profile = t.profile) : ReportsStand queue table E L rep learned s t' := by
  obtain ⟨moreE, hE⟩ := h.ends
  obtain ⟨moreL, hL⟩ := h.learning
  obtain ⟨addE, hE'⟩ := k.ends
  obtain ⟨addL, hL'⟩ := k.learned
  refine ⟨⟨moreE ++ addE, by rw [hE', hE, List.append_assoc]⟩, ⟨moreL ++ addL, by rw [hL', hL, List.append_assoc]⟩,
    hu.trans h.units, hp.trans h.profile, ?_, fun r hr hserial => ?_⟩
  · rw [serials_of_tallies (k.tallies h.apart)]
    exact h.apart
  · obtain ⟨r1, hr1, ht1⟩ := h.counted r hr hserial
    have hmem : tally r1 ∈ t'.records.map tally := k.tallies h.apart ▸ List.mem_map_of_mem hr1
    obtain ⟨r', hr', ht'⟩ := List.mem_map.1 hmem
    exact ⟨r', hr', ht'.trans ht1⟩

theorem ReportsStand.tell (h : ReportsStand queue table E L rep learned s t) (asked : List Phase) :
    ReportsStand queue table E L rep learned s (Machine.tell asked t) :=
  h.runsOn (tell_runsOn asked t) (tell_work asked t).units (tell_work asked t).profile

/-- The collided windows that a report has counted into its record (R111). -/
theorem applyEndReport_counted {m : State} (hn : (m.records.map Record.serial).Nodup) {r : Record} (hr : r ∈ m.records)
    (hserial : r.serial = rep.serial) :
    ∃ r' ∈ (applyEndReport rep m).records, tally r' = (r.serial, min 65535 (r.collided + rep.collided)) := by
  refine ⟨settledByReport (releaseUnits rep.units m) rep r, ?_, ?_⟩
  · rw [applyEndReport_of (hserial ▸ recordOf_eq hn hr), putRecord, commitRecords_records]
    exact List.mem_map.2 ⟨r, hr, if_pos (settledByReport_serial _ _ _).symm⟩
  · rw [tally, settledByReport_serial, (settledByReport_settled _ rep r).collided]
    rfl

/-- The queue takes the end report. -/
theorem ReportsStand.queueTakes (h : ReportsStand false table E L rep learned s t) :
    ReportsStand true table E L rep learned s (takeQueueReport E.length t) := by
  obtain ⟨more, hends⟩ := h.ends
  have hends' : t.endReports = E ++ rep :: more := by simpa using hends
  have happly := applyEndReport_work rep { t with endReports := E ++ more }
  have hframe := applyEndReport_frame rep { t with endReports := E ++ more }
  rw [takeQueueReport_of hends']
  refine ReportsStand.tell ⟨⟨more, ?_⟩, ?_, ?_, happly.profile.trans h.profile, ?_, fun r hr hserial => ?_⟩ _
  · rw [hframe]
    simp
  · rw [hframe]
    exact h.learning
  · exact happly.units.trans h.units
  · rw [happly.serials]
    exact h.apart
  · obtain ⟨r1, hr1, ht1⟩ := h.counted r hr hserial
    obtain ⟨hserial1, hcollided1⟩ := Prod.mk.inj ht1
    obtain ⟨r', hr', ht'⟩ := applyEndReport_counted (rep := rep) (m := { t with endReports := E ++ more }) h.apart hr1
      (hserial1.trans hserial)
    refine ⟨r', hr', ht'.trans ?_⟩
    rw [hserial1, hcollided1]
    rfl

/-- The table takes the learning report. -/
theorem ReportsStand.tableTakes (h : ReportsStand queue false E L rep learned s t) :
    ReportsStand queue true E L rep learned s (takeTableReport L.length t) := by
  obtain ⟨more, hl⟩ := h.learning
  have hl' : t.learningReports = L ++ learned :: more := by simpa using hl
  have hdrop : t.learningReports.drop L.length = learned :: more := by rw [hl', List.drop_left]
  have htake : t.learningReports.take L.length = L := by rw [hl', List.take_left]
  have hlearned : ReportsStand queue true E L rep learned s (applyLearning learned { t with learningReports := L ++ more }) := by
    have hunits := applyLearning_units_congr (s := s) (t := { t with learningReports := L ++ more }) h.units h.profile learned
    obtain ⟨us, ds, e, u, hframe⟩ := applyLearning_frame learned { t with learningReports := L ++ more }
    rw [hframe] at hunits ⊢
    exact ⟨h.ends, ⟨more, by simp⟩, hunits, h.profile, h.apart, h.counted⟩
  unfold takeTableReport
  simp only [hdrop, htake]
  split
  · exact hlearned.tell _
  · exact hlearned

end

/-- The queue takes an end report formed at the boundary within it (log 8). -/
def queueTakes : ReportOrder → Bool
  | .neither | .tableOnly => false
  | .queueOnly | .queueThenTable | .tableThenQueue => true

/-- The table takes a learning report formed at the boundary within it (log 9). -/
def tableTakes : ReportOrder → Bool
  | .neither | .queueOnly => false
  | .tableOnly | .queueThenTable | .tableThenQueue => true

theorem queueTakes_iff (o : ReportOrder) : queueTakes o = true ↔ o ≠ .neither ∧ o ≠ .tableOnly := by cases o <;> decide
theorem tableTakes_iff (o : ReportOrder) : tableTakes o = true ↔ o ≠ .neither ∧ o ≠ .queueOnly := by cases o <;> decide

theorem takeReports_stand {o : ReportOrder} {E : List EndReport} {L : List LearningReport} {rep : EndReport}
    {learned : LearningReport} {s : State} (he : s.endReports = E ++ [rep]) (hl : s.learningReports = L ++ [learned])
    (hn : (s.records.map Record.serial).Nodup) :
    ReportsStand (queueTakes o) (tableTakes o) E L rep learned s (takeReports o E.length L.length s) := by
  have hstart := reportsStand_start he hl hn
  cases o with
  | neither => exact hstart
  | queueOnly => exact hstart.queueTakes
  | tableOnly => exact hstart.tableTakes
  | queueThenTable => exact hstart.queueTakes.tableTakes
  | tableThenQueue => exact hstart.tableTakes.queueTakes

/-! ### A part that ends, and its lane lands (R74, R108, R111) -/

/-- The state in which a part has ended and its lane has landed. -/
def landed (ph : Phase) (c : Option AbortCause) (time : Nat) (s : State) : State := landLane ph (endPart ph c time s)

theorem laneOf_landed {ph : Phase} {s : State} {x : Exchange} (hx : (laneOf s ph).exchange = some x) (c : Option AbortCause)
    (time : Nat) (q : Phase) :
    laneOf (landed ph c time s) q = if q = ph then landedLane (freedLane (laneOf s ph)) else laneOf s q := by
  rw [landed, landLane_lanes]
  split
  · rename_i hq
    rw [hq, endPart_lane _ _ hx]
  · rename_i hq
    rw [endPart_other hq]

theorem landed_work (ph : Phase) (c : Option AbortCause) (time : Nat) (s : State) : LaneWork s (landed ph c time s) :=
  (endPart_work ph c time s).trans (landLane_work ph _)

theorem landed_tallies (ph : Phase) (c : Option AbortCause) (time : Nat) (s : State) :
    (landed ph c time s).records.map tally = s.records.map tally :=
  tallies_of_chosen (chosen_byChoice.endAndLand ph c time s)

/-- The last part of an exchange forms both reports from all of its parts. -/
theorem landed_last {ph : Phase} {s : State} {x : Exchange} (hx : (laneOf s ph).exchange = some x)
    (hn : noOtherPart s ph x) (c : Option AbortCause) (time : Nat) :
    let part : EndedPart := { lane := ph, exchange := x, cause := c }
    let rep := endReportOf part (endedWith s part) time
    (landed ph c time s).endReports = s.endReports ++ [rep] ∧
      (landed ph c time s).learningReports = s.learningReports ++ [learningReportOf part (endedWith s part) rep] ∧
      partsOf x.exch (landed ph c time s) = [] := by
  obtain ⟨rs, e, u, hland⟩ := landLane_frame ph (endPart ph c time s)
  obtain ⟨hends, hlearned⟩ := endPart_last c time hx hn
  have hparts : partsOf x.exch (endPart ph c time s) = [] := by
    simp only [endPart, hx, noOtherPart_iff.1 hn, Bool.false_eq_true, ↓reduceIte, partsOf, List.filter_filter]
    exact List.filter_eq_nil_iff.2 fun p _ => by simp
  rw [landed, hland]
  exact ⟨hends, hlearned, hparts⟩

/-- A part that ends while another runs on is kept with those that have ended. -/
theorem landed_other {ph : Phase} {s : State} {x : Exchange} (hx : (laneOf s ph).exchange = some x)
    (hn : ¬noOtherPart s ph x) (c : Option AbortCause) (time : Nat) :
    partsOf x.exch (landed ph c time s) = endedWith s { lane := ph, exchange := x, cause := c } := by
  have hruns : otherPartRuns s ph x = true := Bool.not_eq_false _ ▸ mt noOtherPart_iff.2 hn
  rw [landed, landLane_ended, partsOf]
  simp only [endPart, hx, hruns, ↓reduceIte, setLane_endedParts, List.filter_append, endedWith]
  simp

/-! ### The lane that has landed rests -/

/-- A lane at rest stays as it is, its pending winner apart. -/
def restsOn (ph : Phase) (s t : State) : Prop :=
  freeLane (laneOf s ph) → ∃ w, laneOf t ph = { laneOf s ph with winner := w }

theorem restsOn_of_eq {ph : Phase} {s t : State} (h : laneOf t ph = laneOf s ph) : restsOn ph s t := fun _ => ⟨_, h⟩

theorem restsOn.trans {ph : Phase} {a b c : State} (h : restsOn ph a b) (k : restsOn ph b c) : restsOn ph a c := fun hf => by
  obtain ⟨w, hw⟩ := h hf
  obtain ⟨w', hw'⟩ := k (by rw [hw]; exact hf)
  exact ⟨w', by rw [hw', hw]⟩

theorem tell_restsOn (asked : List Phase) (ph : Phase) (s : State) : restsOn ph s (tell asked s) :=
  (tell_choice asked s).free ph

theorem takeQueueReport_restsOn (n : Nat) (ph : Phase) (s : State) : restsOn ph s (takeQueueReport n s) := by
  unfold takeQueueReport
  split
  · exact restsOn_of_eq rfl
  · rename_i rep rest _
    refine restsOn.trans (b := applyEndReport rep { s with endReports := s.endReports.take n ++ rest }) ?_ (tell_restsOn _ ph _)
    rw [applyEndReport_frame]
    exact restsOn_of_eq rfl

theorem takeTableReport_restsOn (n : Nat) (ph : Phase) (s : State) : restsOn ph s (takeTableReport n s) := by
  unfold takeTableReport
  split
  · exact restsOn_of_eq rfl
  · rename_i rep rest _
    have hlearned : restsOn ph s (applyLearning rep { s with learningReports := s.learningReports.take n ++ rest }) := by
      obtain ⟨us, ds, e, u, h⟩ := applyLearning_frame rep { s with learningReports := s.learningReports.take n ++ rest }
      rw [h]
      exact restsOn_of_eq rfl
    dsimp only
    split
    · exact hlearned.trans (tell_restsOn _ ph _)
    · exact hlearned

theorem takeReports_restsOn (o : ReportOrder) (m n : Nat) (ph : Phase) (s : State) : restsOn ph s (takeReports o m n s) := by
  cases o with
  | neither => exact restsOn_of_eq rfl
  | queueOnly => exact takeQueueReport_restsOn m ph s
  | tableOnly => exact takeTableReport_restsOn n ph s
  | queueThenTable => exact (takeQueueReport_restsOn m ph s).trans (takeTableReport_restsOn n ph _)
  | tableThenQueue => exact (takeTableReport_restsOn n ph s).trans (takeQueueReport_restsOn m ph _)

/-! ### The boundary around it -/

/-- After the lane's own work come the choosing again and the opportunity, if there is one. -/
theorem laneBoundary_runsOn (ph : Phase) (ended : EndedHalf) (v : Verdict) (o : ReportOrder) (s : State) :
    RunsOn (laneAdvance ph ended o s) (laneBoundary ph ended v o s) ∧
      GrantWork (laneAdvance ph ended o s) (laneBoundary ph ended v o s) := by
  unfold laneBoundary
  dsimp only
  generalize (if (laneOf (laneAdvance ph ended o s) ph).state = .stopped ∧ (laneOf s ph).state ≠ .stopped then
    allPhases else [ph]) = asked
  have hr := tell_runsOn asked (laneAdvance ph ended o s)
  have hw := (tell_work asked (laneAdvance ph ended o s)).grant
  split
  · exact ⟨hr.trans (opportunity_runsOn ph v _), hw.trans (opportunity_work ph v _)⟩
  · exact ⟨hr, hw⟩

/-- A lane that is out of service after its own work meets no opportunity (R70). -/
theorem laneBoundary_restsOn {ph : Phase} {ended : EndedHalf} {v : Verdict} {o : ReportOrder} {s : State}
    (hf : freeLane (laneOf (laneAdvance ph ended o s) ph)) (hi : (laneOf (laneAdvance ph ended o s) ph).state ≠ .idle) :
    ∃ w, laneOf (laneBoundary ph ended v o s) ph = { laneOf (laneAdvance ph ended o s) ph with winner := w } := by
  unfold laneBoundary
  dsimp only
  generalize (if (laneOf (laneAdvance ph ended o s) ph).state = .stopped ∧ (laneOf s ph).state ≠ .stopped then
    allPhases else [ph]) = asked
  obtain ⟨w, hw⟩ := tell_restsOn asked ph _ hf
  have hopp : isOpportunity (tell asked (laneAdvance ph ended o s)) ph v = false := by
    rw [isOpportunity, hw]
    simp [beq_eq_false_iff_ne.2 hi, beq_eq_false_iff_ne.2 hf.2.2]
  rw [hopp]
  exact ⟨w, hw⟩

/-- The lane with the half-cycle just ended heard (R103). -/
def heardState (ph : Phase) (ended : EndedHalf) (x : Exchange) (s : State) : State :=
  setLane s ph { laneOf s ph with exchange := some (hearHalf ended x) }

/-- A part whose plan has come to its end, or of which an abort is due, ends at the boundary (R74). -/
theorem advanceExchange_ending {ph : Phase} {s : State} {x : Exchange} (hx : (laneOf s ph).exchange = some x)
    (h : x.abortDue ≠ none ∨ x.plan.t ≤ x.position) (ended : EndedHalf) (o : ReportOrder) :
    advanceExchange ph ended o s = takeReports o s.endReports.length s.learningReports.length
      (landed ph x.abortDue ended.time (heardState ph ended x s)) := by
  have hframe := hearHalf_frame ended x
  have hdue : (hearHalf ended x).abortDue = x.abortDue := by rw [hframe]
  have hplan : (hearHalf ended x).plan = x.plan := by rw [hframe]
  have hpos : (hearHalf ended x).position = x.position := by rw [hframe]
  simp only [advanceExchange, hx, hdue, hplan, hpos]
  cases hd : x.abortDue with
  | some c => rfl
  | none =>
    have ht : x.plan.t ≤ x.position := h.resolve_left fun hne => hne hd
    rw [if_pos ht]
    rfl

/-- The state in which the boundary has ended the lane's part, with no report taken yet. -/
def endedState (ph : Phase) (mf : Bool) (x : Exchange) (s : State) : State :=
  landed ph x.abortDue (endedHalf (ptuOf s ph)).time (heardState ph (endedHalf (ptuOf s ph)) x (boundaryStart ph mf s))

/-- What the rest of the boundary at lane `ph` makes of the state in which the part has ended. -/
structure BoundaryEnds (ph : Phase) (o : ReportOrder) (E : List EndReport) (L : List LearningReport) (m t : State) : Prop where
  parts : PartsKept m t
  rests : freeLane (laneOf m ph) → (laneOf m ph).state ≠ .idle → ∃ w, laneOf t ph = { laneOf m ph with winner := w }
  stand : ∀ rep learned, m.endReports = E ++ [rep] → m.learningReports = L ++ [learned] →
    (m.records.map Record.serial).Nodup → ReportsStand (queueTakes o) (tableTakes o) E L rep learned m t

/-- The reports taken at the boundary, the choosing again and the opportunity (R69, R70, R111). -/
theorem laneBoundary_ends {ph : Phase} {mf : Bool} {s : State} {x : Exchange} (hx : (laneOf s ph).exchange = some x)
    (hrun : (laneOf s ph).state = .sending ∨ (laneOf s ph).state = .listening)
    (h : x.abortDue ≠ none ∨ x.plan.t ≤ x.position) (v : Verdict) (o : ReportOrder) :
    BoundaryEnds ph o s.endReports s.learningReports (endedState ph mf x s)
      (laneBoundary ph (endedHalf (ptuOf s ph)) v o (boundaryStart ph mf s)) := by
  have hstart := laneOf_boundaryStart ph mf s ph
  have hx0 : (laneOf (boundaryStart ph mf s) ph).exchange = some x := by rw [hstart, hx]
  have hwork : laneAdvance ph (endedHalf (ptuOf s ph)) o (boundaryStart ph mf s) =
      takeReports o s.endReports.length s.learningReports.length (endedState ph mf x s) := by
    rw [laneAdvance_running (by rw [hstart]; exact hrun), advanceExchange_ending hx0 h, endedState]
    rw [boundaryStart_frame]
  obtain ⟨hruns, hgrants⟩ := laneBoundary_runsOn ph (endedHalf (ptuOf s ph)) v o (boundaryStart ph mf s)
  have hlast := laneBoundary_restsOn (ph := ph) (ended := endedHalf (ptuOf s ph)) (v := v) (o := o) (s := boundaryStart ph mf s)
  rw [hwork] at hruns hgrants hlast
  refine ⟨(takeReports_parts o _ _ _).trans hruns.toPartsKept, fun hf hi => ?_, fun rep learned he hl hn => ?_⟩
  · obtain ⟨w, hw⟩ := takeReports_restsOn o s.endReports.length s.learningReports.length ph (endedState ph mf x s) hf
    obtain ⟨w', hw'⟩ := hlast (by rw [hw]; exact hf) (by rw [hw]; exact hi)
    exact ⟨w', by rw [hw', hw]⟩
  · exact (takeReports_stand he hl hn).runsOn hruns hgrants.units hgrants.profile

/-- What nothing but the monitors, the events and the uplink is changed of afterwards. -/
theorem BoundaryEnds.exec {ph : Phase} {mf : Bool} {o : ReportOrder} {s m : State} {h : HalfCycle} {cyc : Cycle}
    (hb : boundaryReady s ph h cyc)
    (hm : BoundaryEnds ph o s.endReports s.learningReports m
      (laneBoundary ph (endedHalf (ptuOf s ph)) (verdictOn (lcmOf s ph) (endedHalf (ptuOf s ph))) o (boundaryStart ph mf s))) :
    ∃ t, Machine.exec (.halfCycleBoundary ph mf o) s = .next t ∧
      BoundaryEnds ph o s.endReports s.learningReports m t := by
  have hexec := exec_halfCycleBoundary_due (mf := mf) (o := o) (boundaryDue_of_ready hb)
  rw [takeBoundary_eq, boundaryEnd_frame, transmit_frame] at hexec
  refine ⟨_, hexec, ⟨hm.parts.trans (partsKept_of_eq rfl rfl rfl), hm.rests, fun rep learned he hl hn => ?_⟩⟩
  exact (hm.stand rep learned he hl hn).runsOn (runsOn_of_eq rfl rfl rfl rfl rfl fun _ => rfl) rfl rfl

/-! ### The state in which the part has ended -/

section

variable {ph : Phase} {mf : Bool} {s : State} {x : Exchange}

theorem laneOf_heardState (ended : EndedHalf) (q : Phase) :
    laneOf (heardState ph ended x s) q =
      if q = ph then { laneOf s ph with exchange := some (hearHalf ended x) } else laneOf s q := by
  split
  · rename_i hq
    rw [hq, heardState, laneOf_setLane_self]
  · rename_i hq
    rw [heardState, laneOf_setLane_of_ne _ _ hq]

theorem hearHalf_exch (ended : EndedHalf) (x : Exchange) : (hearHalf ended x).exch = x.exch := by rw [hearHalf_frame]

theorem noOtherPart_heardState (ended : EndedHalf) :
    noOtherPart (heardState ph ended x (boundaryStart ph mf s)) ph (hearHalf ended x) ↔ noOtherPart s ph x := by
  unfold noOtherPart
  rw [hearHalf_exch]
  refine forall_congr' fun q => forall_congr' fun y => forall_congr' fun hq => ?_
  rw [laneOf_heardState, if_neg hq, laneOf_boundaryStart]

theorem laneOf_endedState (q : Phase) :
    laneOf (endedState ph mf x s) q =
      if q = ph then
        landedLane (freedLane { laneOf s ph with exchange := some (hearHalf (endedHalf (ptuOf s ph)) x) })
      else laneOf s q := by
  have hlane := fun p => laneOf_heardState (ph := ph) (x := x) (s := boundaryStart ph mf s) (endedHalf (ptuOf s ph)) p
  rw [endedState, laneOf_landed (by rw [hlane, if_pos rfl]), hlane, if_pos rfl, laneOf_boundaryStart]
  split
  · rfl
  · rename_i hq
    rw [hlane, if_neg hq, laneOf_boundaryStart]

theorem endedState_lane_free : (laneOf (endedState ph mf x s) ph).exchange = none ∧
    (laneOf (endedState ph mf x s) ph).txen = false ∧ (laneOf (endedState ph mf x s) ph).drv = false := by
  rw [laneOf_endedState, if_pos rfl]
  exact landedLane_kept _

theorem endedState_lane_state :
    (laneOf (endedState ph mf x s) ph).state =
        (if (laneOf s ph).stopDue then .stopped else if (laneOf s ph).pauseDue then .paused else .idle) ∧
      (laneOf (endedState ph mf x s) ph).stopDue = false ∧ (laneOf (endedState ph mf x s) ph).pauseDue = false := by
  rw [laneOf_endedState, if_pos rfl]
  exact landedLane_state _

/-- No part of the exchange that another part goes on on an ARMED lane. -/
theorem endedState_noneArmed
    (h : ∀ q z, q ≠ ph → (laneOf s q).exchange = some z → z.exch = x.exch → (laneOf s q).state ≠ .armed) :
    noneArmed x.exch (endedState ph mf x s) := fun q z hz hzx => by
  by_cases hq : q = ph
  · subst hq
    rw [endedState_lane_free.1] at hz
    cases hz
  · rw [laneOf_endedState, if_neg hq] at hz ⊢
    exact h q z hq hz hzx

/-- The part as it is kept, or stands last in the reports (R111). -/
def endedPart (ph : Phase) (x : Exchange) (s : State) : EndedPart :=
  { lane := ph, exchange := hearHalf (endedHalf (ptuOf s ph)) x, cause := x.abortDue }

theorem endedState_last (hn : noOtherPart s ph x) :
    let part := endedPart ph x s
    let rep := endReportOf part (endedWith s part) (endedHalf (ptuOf s ph)).time
    (endedState ph mf x s).endReports = s.endReports ++ [rep] ∧
      (endedState ph mf x s).learningReports = s.learningReports ++ [learningReportOf part (endedWith s part) rep] ∧
      partsOf x.exch (endedState ph mf x s) = [] := by
  have hx : (laneOf (heardState ph (endedHalf (ptuOf s ph)) x (boundaryStart ph mf s)) ph).exchange =
      some (hearHalf (endedHalf (ptuOf s ph)) x) := by rw [laneOf_heardState, if_pos rfl]
  obtain ⟨he, hl, hp⟩ := landed_last hx (noOtherPart_heardState _|>.2 hn) x.abortDue (endedHalf (ptuOf s ph)).time
  rw [hearHalf_exch] at hp
  rw [endedState, he, hl, hp, boundaryStart_frame]
  exact ⟨rfl, rfl, rfl⟩

theorem endedState_other (hn : ¬noOtherPart s ph x) :
    partsOf x.exch (endedState ph mf x s) = endedWith s (endedPart ph x s) := by
  have hx : (laneOf (heardState ph (endedHalf (ptuOf s ph)) x (boundaryStart ph mf s)) ph).exchange =
      some (hearHalf (endedHalf (ptuOf s ph)) x) := by rw [laneOf_heardState, if_pos rfl]
  have hp := landed_other hx (mt (noOtherPart_heardState _).1 hn) x.abortDue (endedHalf (ptuOf s ph)).time
  rw [hearHalf_exch] at hp
  rw [endedState, hp, boundaryStart_frame]
  rfl

theorem endedState_tallies : (endedState ph mf x s).records.map tally = s.records.map tally := by
  rw [endedState, landed_tallies, heardState, boundaryStart_frame]
  rfl

theorem endedState_rest : (endedState ph mf x s).nextExchange = s.nextExchange ∧ (endedState ph mf x s).units = s.units ∧
    (endedState ph mf x s).profile = s.profile := by
  have h := landed_work ph x.abortDue (endedHalf (ptuOf s ph)).time
    (heardState ph (endedHalf (ptuOf s ph)) x (boundaryStart ph mf s))
  rw [endedState, h.nextExchange, h.units, h.profile, heardState, boundaryStart_frame]
  exact ⟨rfl, rfl, rfl⟩

end

/-! ### The two clauses -/

/-- What the reports of an exchange say of its parts. -/
theorem reports_say (last : EndedPart) (parts : List EndedPart) (time : Nat) :
    let x := last.exchange
    let rep := endReportOf last parts time
    let learned := learningReportOf last parts rep
    rep.serial = x.serial ∧ rep.work = x.work ∧ rep.lane = (if x.joined then none else some last.lane) ∧
      rep.units = x.targets.map Prod.fst ∧ rep.endTime = time ∧
      rep.collided = (parts.map fun p => p.exchange.collided).sum ∧
      (∀ u v, (u, v) ∈ rep.answered → ∃ a lane d, (u, a) ∈ x.targets ∧ keptFor parts lane d ∧ d.address = a ∧ d.status = v) ∧
      (∀ u a lane d, (u, a) ∈ x.targets → keptFor parts lane d → d.address = a → ∃ v, (u, v) ∈ rep.answered) ∧
      (∀ u, rep.notAnswered = some u ↔ x.work = .unicast u ∧ ∀ v, (u, v) ∉ rep.answered) ∧
      (x.joined = false → rep.cause = last.cause ∧ rep.abortedWhole = false) ∧
      (x.joined = true → (rep.abortedWhole = true ↔ x.wholeAbort ≠ none) ∧
        (∀ c, x.wholeAbort = some c → rep.cause = some c) ∧
        (x.wholeAbort = none → (∃ p ∈ parts, p.cause = none) → rep.cause = none) ∧
        (x.wholeAbort = none → (∀ p ∈ parts, p.cause ≠ none) → rep.cause = last.cause)) ∧
      (∀ k, k ∈ learned.answers ↔ ∃ d, keptFor parts k.lane d ∧ k.address = d.address ∧ k.quality = d.quality ∧
        k.hops = hopsOf x) ∧
      (∀ u a, learned.silence = some (u, a) → rep.cause = none ∧ rep.notAnswered = some u ∧ (u, a) ∈ x.targets) ∧
      (∀ u a, rep.cause = none → rep.notAnswered = some u → (u, a) ∈ x.targets → learned.silence ≠ none) :=
  ⟨rfl, rfl, rfl, rfl, rfl, rfl, fun _ _ => answered_kept, fun _ _ _ _ => answered_of_kept, notAnswered_iff, cause_of_lane,
    cause_of_joined, mem_learnedAnswers _, fun _ _ => silence_some, fun _ _ => silence_ne_none⟩

/-- No ended part is kept of an exchange whose last part has ended (R111). -/
theorem BoundaryEnds.noParts {ph : Phase} {mf : Bool} {o : ReportOrder} {s t : State} {x : Exchange}
    (hm : BoundaryEnds ph o s.endReports s.learningReports (endedState ph mf x s) t) (hlt : x.exch < s.nextExchange)
    (hn : noOtherPart s ph x) : ∀ p ∈ t.endedParts, p.exchange.exch ≠ x.exch := fun p hp he => by
  obtain ⟨-, -, hnone⟩ := endedState_last (mf := mf) hn
  have hparts := hm.parts.ended x.exch (by rw [endedState_rest.1]; exact hlt)
    (endedState_noneArmed fun q z hq hz hzx => absurd hzx (hn q z hq hz))
  have hmem : p ∈ partsOf x.exch t := List.mem_filter.2 ⟨hp, beq_iff_eq.2 he⟩
  rw [hparts, hnone] at hmem
  cases hmem

/-- Where the reports of the last part stand. -/
theorem BoundaryEnds.reports {ph : Phase} {mf : Bool} {o : ReportOrder} {s t : State} {x : Exchange}
    (hm : BoundaryEnds ph o s.endReports s.learningReports (endedState ph mf x s) t) (hq : s.queueOk)
    (hn : noOtherPart s ph x) {time : Nat} (htime : (endedHalf (ptuOf s ph)).time = time) :
    let part := endedPart ph x s
    let rep := endReportOf part (endedWith s part) time
    ReportsStand (queueTakes o) (tableTakes o) s.endReports s.learningReports rep
      (learningReportOf part (endedWith s part) rep) (endedState ph mf x s) t := by
  subst htime
  obtain ⟨he, hl, -⟩ := endedState_last (mf := mf) hn
  exact hm.stand _ _ he hl (by rw [serials_of_tallies endedState_tallies]; exact hq.serialsApart)

/-- Settles O31, by the parts of the exchange that still run. -/
theorem exchangeEndFormsReports : Obligations.ExchangeEndFormsReports := by
  unfold Obligations.ExchangeEndFormsReports
  refine ⟨fun ph mf o s h cyc x hb hs hq hx ha hends => ?_, reports_say⟩
  have hlt : x.exch < s.nextExchange := (hs ph).2 x hx
  have hrun := running_of_occupied ((hs ph).1.occupied hx) ha
  have hended := endedHalf_of_ready hb
  obtain ⟨t, hexec, hm⟩ := (laneBoundary_ends (mf := mf) hx hrun hends _ o).exec hb
  obtain ⟨hparts, hrests, -⟩ := id hm
  obtain ⟨hnext, hunits, hprofile⟩ := endedState_rest (ph := ph) (mf := mf) (s := s) (x := x)
  obtain ⟨hfree, hpins⟩ := endedState_lane_free (ph := ph) (mf := mf) (s := s) (x := x)
  obtain ⟨hstate, hstop, hpause⟩ := endedState_lane_state (ph := ph) (mf := mf) (s := s) (x := x)
  obtain ⟨htxen, hdrv⟩ := hparts.pins ph hpins
  have hrested : (laneOf s ph).stopDue = true ∨ (laneOf s ph).pauseDue = true →
      (laneOf t ph).state = (laneOf (endedState ph mf x s) ph).state ∧ (laneOf t ph).stopDue = false ∧
        (laneOf t ph).pauseDue = false := fun hdue => by
    have haside : (laneOf (endedState ph mf x s) ph).state = .stopped ∨
        (laneOf (endedState ph mf x s) ph).state = .paused := by
      rw [hstate]
      split
      · exact .inl rfl
      · exact .inr (if_pos (hdue.resolve_left ‹_›))
    obtain ⟨w, hw⟩ := hrests ⟨hfree, by rcases haside with h' | h' <;> rw [h'] <;> rfl,
      by rcases haside with h' | h' <;> rw [h'] <;> nofun⟩ (by rcases haside with h' | h' <;> rw [h'] <;> nofun)
    rw [hw]
    exact ⟨rfl, hstop, hpause⟩
  refine ⟨t, hearHalf (endedHalf (ptuOf s ph)) x, hexec, hearHalf_frame _ x,
    halfHeard_of_hearHalf (by rw [hended]) (by rw [hended]) rfl rfl rfl, htxen, hdrv, fun z hz => ?_, fun hd => ?_,
    fun hns hd => ?_, ?_⟩
  · rcases hparts.held ph z hz with hnew | ⟨⟨y, hy, -⟩, -⟩
    · omega
    · exact absurd (hfree.symm.trans hy) nofun
  · obtain ⟨h1, h2, h3⟩ := hrested (.inl hd)
    exact ⟨by rw [h1, hstate, hd]; rfl, h2, h3⟩
  · obtain ⟨h1, -, h3⟩ := hrested (.inr hd)
    exact ⟨by rw [h1, hstate, hns, hd]; rfl, h3⟩
  · intro part rep learned
    refine ⟨fun hn => ?_, fun hn hother => ?_⟩
    · have hstand := hm.reports hq hn (by rw [hended])
      obtain ⟨moreEnds, he⟩ := hstand.ends
      obtain ⟨moreLearned, hl⟩ := hstand.learning
      have hunits' := hstand.units
      have hlearn : (applyLearning learned (endedState ph mf x s)).units = (applyLearning learned s).units :=
        applyLearning_units_congr hunits hprofile learned
      refine ⟨moreEnds, moreLearned, hm.noParts hlt hn, fun ho => ?_, fun ho1 ho2 => ⟨?_, fun r hr hserial => ?_⟩,
        fun ho => ?_, fun ho1 ho2 => ?_⟩
      · rw [he, if_neg (by rw [queueTakes_iff]; tauto)]
        simp [part, rep, endedPart]
      · rw [he, if_pos ((queueTakes_iff o).2 ⟨ho1, ho2⟩), List.append_nil]
      · have hmem : tally r ∈ (endedState ph mf x s).records.map tally := by
          rw [endedState_tallies]
          exact List.mem_map_of_mem hr
        obtain ⟨r1, hr1, ht1⟩ := List.mem_map.1 hmem
        obtain ⟨hserial1, hcollided1⟩ := Prod.mk.inj ht1
        have hsame : (hearHalf (endedHalf (ptuOf s ph)) x).serial = x.serial := by rw [hearHalf_frame]
        obtain ⟨r', hr', ht'⟩ := hstand.counted r1 hr1 (hserial1.trans (hserial.trans hsame.symm))
        rw [if_pos ((queueTakes_iff o).2 ⟨ho1, ho2⟩)] at ht'
        obtain ⟨hserial', hcollided'⟩ := Prod.mk.inj ht'
        exact ⟨r', hr', hserial'.trans hserial1, by rw [hcollided', hcollided1]; rfl⟩
      · rw [hl, hunits', if_neg (by rw [tableTakes_iff]; tauto), if_neg (by rw [tableTakes_iff]; tauto)]
        exact ⟨by simp [part, rep, learned, endedPart], hunits⟩
      · rw [hl, hunits', if_pos ((tableTakes_iff o).2 ⟨ho1, ho2⟩), if_pos ((tableTakes_iff o).2 ⟨ho1, ho2⟩), List.append_nil]
        exact ⟨rfl, hlearn⟩
    · have hkept := hparts.ended x.exch (by rw [hnext]; exact hlt) (endedState_noneArmed hother)
      exact hkept.trans (endedState_other hn)

end Sys2Proof.Machine

/-! ## A joined unicast on a clear line (R72, R75, R78 to R80): O29 -/

namespace Sys2Proof.Machine

open Sys2Proof.Claims

/-! ### An exchange that no preemption test ends (R80) -/

/-- No lane that holds the numbered exchange can preempt it: it is urgent, or no candidate of the lane is. -/
def spared (n : Nat) (s : State) : Prop :=
  ∀ p y, (laneOf s p).exchange = some y → y.exch = n →
    s.profile.urgent ≤ y.priority ∨ ∀ i ∈ candidates s p, i.priority < s.profile.urgent

theorem preemptionTest_spared {n : Nat} {s : State} (h : spared n s) {p : Phase} {x : Exchange}
    (hx : (laneOf s p).exchange = some x) (hn : x.exch = n) : preemptionTest s p = s := by
  rw [preemptionTest_of hx, if_neg]
  intro hp
  simp only [preemptionPasses, Bool.and_eq_true, List.any_eq_true, decide_eq_true_eq] at hp
  obtain ⟨⟨⟨⟨i, hi, hurgent, -⟩, hlow⟩, -⟩, -⟩ := hp
  rcases h p x hx hn with hx' | hnone
  · omega
  · have hi' := hnone i hi
    omega

/-- What a test leaves alone spares the exchange still. -/
theorem TestWork.spared {n : Nat} {s t : State} (h : TestWork n s t) (hs : spared n s) : spared n t := fun q y hy hyn => by
  obtain ⟨x, hx, hyx⟩ := h.numbers q y hy
  have hlane := h.kept q x hx (hyx.symm.trans hyn)
  have hrest := h.rest
  have husable : usable t q = usable s q := usable_congr (by rw [hrest]) (by rw [hrest]) (by rw [hlane])
  have hcand : candidates t q = candidates s q :=
    candidates_congr (by rw [hrest]) (by rw [hrest]) (by rw [hrest]) (by rw [hrest]) husable
  have hprofile : t.profile = s.profile := by rw [hrest]
  rw [hcand, hprofile]
  exact hs q y (hlane ▸ hy) hyn

theorem foldl_preemptionTest_spared {n : Nat} : ∀ {ps : List Phase} {s : State}, (∀ ph, armedClear (laneOf s ph)) →
    spared n s → TestWork n s (ps.foldl preemptionTest s)
  | [], _, h, _ => .refl n h
  | p :: ps, s, h, hs => by
    have hp : TestWork n s (preemptionTest s p) := by
      by_cases hn : ∀ x, (laneOf s p).exchange = some x → x.exch ≠ n
      · exact preemptionTest_testWork h hn
      · push Not at hn
        obtain ⟨x, hx, hxn⟩ := hn
        rw [preemptionTest_spared hs hx hxn]
        exact .refl n h
    exact hp.trans (foldl_preemptionTest_spared hp.clear (hp.spared hs))

theorem chosenState_spared {n : Nat} {s : State} (h : spared n s) (ps : List Phase) : spared n (chosenState s ps) :=
  fun q y hy hyn => by
    rw [laneOf_chosenState_exchange] at hy
    rw [(sameView_chosenState s ps).candidates]
    exact h q y hy hyn

theorem laneOf_chosenState_unreserved {s : State} {q : Phase} (h : (laneOf s q).state ≠ .reserved) (ps : List Phase) :
    ∃ w, laneOf (chosenState s ps) q = { laneOf s q with winner := w } := by
  rw [laneOf_chosenState]
  split
  · exact ⟨_, chosenLane_unreserved h⟩
  · exact ⟨_, rfl⟩

/-- A lane with an exchange that is spared keeps it, its pending winner apart. -/
theorem chooseAndTest_spared {ps : List Phase} {s : State} (hp : ps.Nodup) (h : ∀ ph, armedClear (laneOf s ph)) {q : Phase}
    {x : Exchange} (hx : (laneOf s q).exchange = some x) (hr : (laneOf s q).state ≠ .reserved) (hs : spared x.exch s) :
    ∃ w, laneOf (chooseAndTest ps s) q = { laneOf s q with winner := w } := by
  obtain ⟨w, hw⟩ := laneOf_chosenState_unreserved hr ps
  have hwork : TestWork x.exch (chosenState s ps) (testedState ps s) :=
    foldl_preemptionTest_spared (chosenState_clear h ps) (chosenState_spared hs ps)
  have htested : laneOf (testedState ps s) q = { laneOf s q with winner := w } :=
    (hwork.kept q x (by rw [hw]; exact hx) rfl).trans hw
  obtain ⟨w', hw'⟩ := laneOf_chosenState_unreserved (s := testedState ps s) (q := q) (by rw [htested]; exact hr)
    (usabilityChanged (chosenState s ps) (testedState ps s))
  exact ⟨w', by rw [chooseAndTest_eq hp, hw', htested]⟩

/-! ### A grant offers nothing of another priority (R56, R57) -/

theorem eligible_of_more {s t : State} (hn : t.now = s.now) (hu : t.units = s.units)
    (hf : ∀ u ∈ s.inFlight, u ∈ t.inFlight) {r : Record} {g : Target} (h : eligible t r g = true) : eligible s r g = true := by
  have hnot : (!t.inFlight.contains g.unit) = true → (!s.inFlight.contains g.unit) = true := by
    simpa using mt (hf g.unit)
  simp only [eligible, Bool.and_eq_true, backoffOver, unitAt_congr hu, hn] at h ⊢
  obtain ⟨⟨⟨⟨⟨hpend, hmark⟩, hfree⟩, hbudget⟩, hback⟩, hsilent⟩ := h
  exact ⟨⟨⟨⟨⟨hpend, hmark⟩, hnot hfree⟩, hbudget⟩, hback⟩, hsilent⟩

theorem offerFor_priority {s : State} {r : Record} {ph : Option Phase} {i : WorkItem} (h : i ∈ offerFor s r ph) :
    i.priority = r.priority := by
  unfold offerFor at h
  dsimp only at h
  split at h
  · split at h
    · rw [List.mem_singleton.1 h]
    · cases h
  · split at h
    · rw [List.mem_singleton.1 h]
    · cases h

/-- A record that makes an offer makes one also where fewer units are in flight. -/
theorem offerFor_of_more {s t : State} (hn : t.now = s.now) (hu : t.units = s.units)
    (hf : ∀ u ∈ s.inFlight, u ∈ t.inFlight) {r : Record} {ph : Option Phase} {i : WorkItem} (h : i ∈ offerFor t r ph) :
    ∃ j ∈ offerFor s r ph, j.priority = r.priority := by
  obtain ⟨j, hj⟩ : ∃ j, j ∈ offerFor s r ph := by
    unfold offerFor at h ⊢
    dsimp only at h ⊢
    cases hstage : r.stage with
    | broadcast k =>
      rw [hstage] at h
      exact ⟨i, h⟩
    | followUp =>
      rw [hstage] at h
      cases hfirst : firstEligible t r ph with
      | none => simp [hfirst] at h
      | some u =>
        obtain ⟨g, hg, -⟩ := Option.map_eq_some_iff.1 hfirst
        have hfound : (eligible t r g && (unitAt t g.unit).phase == ph) = true :=
          List.find?_some (p := fun g => eligible t r g && (unitAt t g.unit).phase == ph) hg
        obtain ⟨he, hphase⟩ := Bool.and_eq_true_iff.1 hfound
        rw [unitAt_congr hu] at hphase
        cases hfirst' : firstEligible s r ph with
        | none =>
          have hno := List.find?_eq_none.1 (Option.map_eq_none_iff.1 hfirst') g (List.mem_of_find?_eq_some hg)
          exact absurd (Bool.and_eq_true_iff.2 ⟨eligible_of_more hn hu hf he, hphase⟩) hno
        | some v => exact ⟨_, List.mem_singleton.2 rfl⟩
  exact ⟨j, hj, offerFor_priority hj⟩

theorem mem_offersTo {s : State} {ph : Phase} {i : WorkItem} :
    i ∈ offersTo s ph ↔ ∃ r ∈ s.records, competes r = true ∧
      (i ∈ offerFor s r (some ph) ∨ usable s ph = true ∧ i ∈ offerFor s r none) := by
  unfold offersTo
  simp only [List.mem_flatMap, List.mem_filter, List.mem_append, and_assoc]
  refine exists_congr fun r => and_congr_right fun _ => and_congr_right fun _ => or_congr_right ?_
  split
  · rename_i hu
    simp [hu]
  · rename_i hu
    simp [hu]

/-- With one record replaced by one of the same priority and more units in flight, each offer has a priority that some
offer had, or the replaced record's. -/
theorem priority_of_granted {s t : State} {r r' : Record} (hn : t.now = s.now) (hu : t.units = s.units)
    (hf : ∀ u ∈ s.inFlight, u ∈ t.inFlight) (husable : ∀ q, usable t q = usable s q)
    (hr : t.records = s.records.map fun q => if q.serial = r.serial then r' else q) (hp : r'.priority = r.priority)
    {ph : Phase} {i : WorkItem} (hi : i ∈ candidates t ph) :
    i.priority = r.priority ∨ ∃ j ∈ candidates s ph, j.priority = i.priority := by
  obtain ⟨q', hq', hc, hoffer⟩ := mem_offersTo.1 (mem_candidates.1 hi)
  have hprio : i.priority = q'.priority := hoffer.elim offerFor_priority fun h => offerFor_priority h.2
  rw [hr] at hq'
  obtain ⟨q, hq, hqq⟩ := List.mem_map.1 hq'
  split at hqq
  · rw [← hqq, hp] at hprio
    exact .inl hprio
  · subst hqq
    right
    rcases hoffer with hone | ⟨hus, hjoint⟩
    · obtain ⟨j, hj, hjp⟩ := offerFor_of_more hn hu hf hone
      exact ⟨j, mem_candidates.2 (mem_offersTo.2 ⟨q, hq, hc, .inl hj⟩), hjp.trans hprio.symm⟩
    · obtain ⟨j, hj, hjp⟩ := offerFor_of_more hn hu hf hjoint
      exact ⟨j, mem_candidates.2 (mem_offersTo.2 ⟨q, hq, hc, .inr ⟨husable ph ▸ hus, hj⟩⟩), hjp.trans hprio.symm⟩

/-! ### The lane holds itself for the item (R75, R78) -/

/-- The joined item of a record's target. -/
def joinedItem (r : Record) (u : Nat) : WorkItem :=
  { serial := r.serial, work := .unicast u, joined := true, priority := r.priority }

/-- The length of a short direct unicast's plan (R95, R97, R98). -/
theorem planFor_short {s : State} {r : Record} {u : Nat} (hroute : (unitAt s u).route = []) (hw : 24 ≤ s.profile.w)
    (hpayload : r.payload.length ≤ 16) (mode : Mode) (lanes : List Phase) :
    (planFor s r (.unicast u) mode lanes).t ≤ 322 := by
  have hn := ceilDiv_le (104 + 8 * r.payload.length) (bitsAHalf s.profile.w mode)
  have ha := ceilDiv_le 88 (bitsAHalf s.profile.w mode)
  rw [planFor_direct hroute hw]
  show _ + _ + 2 ≤ 322
  omega

section

variable {s : State} {ph : Phase} {h : HalfCycle} {cyc : Cycle} {r : Record} {u : Nat} {mf : Bool}

theorem loneBoundary_joined (hl : loneUnicast s ph h cyc r u true) : LoneBoundary s ph h cyc (joinedItem r u) r := by
  obtain ⟨hready, hlocked, hidle, hstart, hlanes, hqueue, hprofile, hmem, hdeadline, hpayload, hroute, hlone, hquiet⟩ := hl
  refine ⟨hready, hlocked, hidle, hstart, hlanes, hqueue, hmem, rfl, hdeadline, fun v hv => ?_, fun mode => ?_, hlone,
    hquiet⟩
  · cases hv
    exact hroute
  · exact (planFor_short hroute hprofile.1.1 hpayload mode []).trans (by decide)

/-- The state in which the lane has been held for the joined item, and the joined grant is tested (R75, R78). -/
def heldState (ph : Phase) (mf : Bool) (r : Record) (u : Nat) (s : State) : State :=
  let c := undeferred ph (choosePending (boundaryStart ph mf s) ph)
  setLane c ph { laneOf c ph with state := .reserved, reserved := some { item := joinedItem r u, forced := false } }

/-- What the state in which the grant is tested has of the state in which the boundary finds the lanes. -/
structure HeldFor (ph : Phase) (mf : Bool) (r : Record) (u : Nat) (s d : State) : Prop where
  kept : BoundaryKept ph mf s d
  now : d.now = s.now
  usable : ∀ q, usable d q = usable s q
  mine : ∃ w, laneOf d ph = { laneOf s ph with
    winner := w, deferral := 0, state := .reserved, reserved := some { item := joinedItem r u, forced := false } }
  others : ∀ q, q ≠ ph → laneOf d q = laneOf s q
  offered : (offersTo d ph).any (sameItem (joinedItem r u)) = true

theorem carrierTest_joined (hl : loneUnicast s ph h cyc r u true) :
    carrierTest ph .clear (joinedItem r u) (choosePending (boundaryStart ph mf s) ph) =
      joinedGrant ph (joinedItem r u) (heldState ph mf r u s) := by
  have hitem := (((loneBoundary_joined hl).loneItem mf).chosen).undeferred
  show reserveLane ph (joinedItem r u) false (undeferred ph (choosePending (boundaryStart ph mf s) ph)) = _
  rw [reserveLane, if_pos hitem.offered]
  rfl

theorem heldFor_heldState (hl : loneUnicast s ph h cyc r u true) : HeldFor ph mf r u s (heldState ph mf r u s) := by
  have hb := loneBoundary_joined hl
  have hitem := ((hb.loneItem mf).chosen).undeferred
  have hkept := (boundaryKept_chosen ph mf s).undeferred
  obtain ⟨w, hw⟩ := chosenStart_lane hb.idle mf
  have hstart := usable_boundaryStart hb.locked mf
  have hchosen := (sameView_choosePending (boundaryStart ph mf s) ph).usable
  have hmine : laneOf (undeferred ph (choosePending (boundaryStart ph mf s) ph)) ph =
      { laneOf s ph with winner := w, deferral := 0 } := by rw [undeferred, laneOf_setLane_self, hw]
  have hheld : laneOf (heldState ph mf r u s) ph = { laneOf s ph with
      winner := w, deferral := 0, state := .reserved, reserved := some { item := joinedItem r u, forced := false } } := by
    rw [heldState, laneOf_setLane_self, hmine]
  have hstarted : ∀ q, q ≠ ph → laneOf (choosePending (boundaryStart ph mf s) ph) q = laneOf s q := fun q hq => by
    rw [choosePending_eq, laneOf_setLane_of_ne _ _ hq, laneOf_boundaryStart]
  have hother : ∀ q, q ≠ ph → laneOf (heldState ph mf r u s) q = laneOf s q := fun q hq => by
    rw [heldState, laneOf_setLane_of_ne _ _ hq, undeferred, laneOf_setLane_of_ne _ _ hq, hstarted q hq]
  have husable : ∀ q, usable (heldState ph mf r u s) q = usable (choosePending (boundaryStart ph mf s) ph) q := fun q =>
    usable_congr (s := choosePending (boundaryStart ph mf s) ph) (t := heldState ph mf r u s) rfl rfl (by
      by_cases hq : q = ph
      · rw [hq, hheld, hw, hb.idle]
        rfl
      · rw [hother q hq, hstarted q hq])
  have hnow : (heldState ph mf r u s).now = s.now := by
    show (choosePending (boundaryStart ph mf s) ph).now = s.now
    rw [choosePending_eq, boundaryStart_frame]
    rfl
  have hoffers : offersTo (heldState ph mf r u s) ph = offersTo (choosePending (boundaryStart ph mf s) ph) ph :=
    offersTo_congr (s := choosePending (boundaryStart ph mf s) ph) (t := heldState ph mf r u s) rfl rfl rfl rfl (husable ph)
  exact ⟨⟨hkept.profile, hkept.units, hkept.records, hkept.inFlight, hkept.nextExchange, hkept.lcm⟩, hnow,
    fun q => ((husable q).trans (hchosen q)).trans (hstart q), ⟨w, hheld⟩, hother,
    hoffers ▸ ((hb.loneItem mf).chosen).offered⟩

end

/-! ### The joined grant (R78, R79, R90, R101) -/

section

variable {s d : State} {ph : Phase} {mf : Bool} {r : Record} {u : Nat}

theorem sameItem_joined {v : WorkItem} :
    sameItem v (joinedItem r u) = true ↔ v.serial = r.serial ∧ v.work = .unicast u ∧ v.joined = true := by
  simp [sameItem, joinedItem, and_assoc]

theorem reservedFor_iff {i : WorkItem} {q : Phase} :
    reservedFor s i q = true ↔ (laneOf s q).state = .reserved ∧ ∃ v, (laneOf s q).reserved = some v ∧ sameItem v.item i = true := by
  unfold reservedFor
  cases (laneOf s q).reserved <;> simp

/-- The joined grant can be made just when every other usable lane is held for the item. -/
theorem HeldFor.ready_iff (hd : HeldFor ph mf r u s d) (hu : Machine.usable s ph = true) :
    joinedReady d (joinedItem r u) ph ↔ ∀ q, q ≠ ph → Machine.usable s q = true →
      (laneOf s q).state = .reserved ∧ ∃ v, (laneOf s q).reserved = some v ∧
        v.item.serial = r.serial ∧ v.item.work = .unicast u ∧ v.item.joined = true := by
  have hiff : ∀ q, reservedFor d (joinedItem r u) q = true ↔ q = ph ∨ ((laneOf s q).state = .reserved ∧
      ∃ v, (laneOf s q).reserved = some v ∧ v.item.serial = r.serial ∧ v.item.work = .unicast u ∧ v.item.joined = true) :=
    fun q => by
      simp only [reservedFor_iff, sameItem_joined]
      by_cases hq : q = ph
      · subst hq
        obtain ⟨w, hw⟩ := hd.mine
        rw [hw]
        exact iff_of_true ⟨rfl, _, rfl, rfl, rfl, rfl⟩ (.inl rfl)
      · rw [hd.others q hq]
        simp only [hq, false_or]
  unfold joinedReady
  simp only [hiff, hd.usable, hu, hd.offered, and_self, and_true]
  refine forall_congr' fun q => ⟨fun h hq hus => (h hus).resolve_left hq, fun h hus => ?_⟩
  by_cases hq : q = ph
  · exact .inl hq
  · exact .inr (h hq hus)

/-- The lanes with the joined exchange and the queue with its record in flight, before the other lanes are told. -/
def joinedGranted (d : State) (r : Record) (u : Nat) (ph : Phase) : State :=
  { joinedState d r (joinedItem r u) ph with
    records := d.records.map fun q => if q.serial = r.serial then grantedRecord ph (joinedItem r u) [u] r else q
    inFlight := d.inFlight ++ [u].filter fun v => !d.inFlight.contains v }

theorem applyGrant_joined (hn : (d.records.map Record.serial).Nodup) (hr : r ∈ d.records)
    (hst : r.state = .ready ∨ r.state = .active) :
    applyGrant ph (joinedItem r u) (grantTargets d r ph (joinedItem r u)) (joinedState d r (joinedItem r u) ph) =
      joinedGranted d r u ph := by
  have hrec : recordOf (joinedState d r (joinedItem r u) ph) (joinedItem r u).serial = some r := recordOf_eq (s := d) hn hr
  have hput := putRecord_quiet (s := joinedState d r (joinedItem r u) ph)
    (r' := grantedRecord ph (joinedItem r u) [u] r) hn hr rfl (isDone_granted hst _)
  show applyGrant ph (joinedItem r u) [u] (joinedState d r (joinedItem r u) ph) = _
  rw [applyGrant_some hrec, hput]
  rfl

theorem laneOf_joinedGranted (q : Phase) :
    laneOf (joinedGranted d r u ph) q = if usable d q then joinedLane d r (joinedItem r u) ph q else laneOf d q :=
  laneOf_joinedState d r (joinedItem r u) ph q

theorem joinedLane_self (i : WorkItem) : joinedLane d r i ph ph = { laneOf d ph with
    state := .sending
    reserved := none
    exchange := some (exchangeFor d r i (grantTargets d r ph i) (allPhases.filter (usable d)) (jointMode d)
      (reservationForced d ph) 1) } := by
  rw [joinedLane, if_pos rfl, if_pos rfl]

theorem joinedLane_other {q : Phase} (h : q ≠ ph) (i : WorkItem) : joinedLane d r i ph q = { laneOf d q with
    state := .armed
    reserved := none
    exchange := some (exchangeFor d r i (grantTargets d r ph i) (allPhases.filter (usable d)) (jointMode d)
      (reservationForced d q) 0) } := by
  rw [joinedLane, if_neg h, if_neg h]

/-- A lane of the set stays in service with its part (R68). -/
theorem usable_joinedGranted (q : Phase) : usable (joinedGranted d r u ph) q = usable d q := by
  refine usable_congr (s := d) (t := joinedGranted d r u ph) rfl rfl ?_
  rw [laneOf_joinedGranted]
  split
  · rename_i hu
    rw [(Bool.and_eq_true_iff.1 hu).1, joinedLane]
    dsimp only
    split <;> rfl
  · rfl

/-- The lanes of the set carry the new exchange, and no other lane does. -/
theorem joinedGranted_spared (hnumber : ∀ q x, (laneOf d q).exchange = some x → x.exch < d.nextExchange)
    (h : d.profile.urgent ≤ r.priority ∨
      ∀ q, ∀ i ∈ candidates (joinedGranted d r u ph) q, i.priority < d.profile.urgent) :
    spared d.nextExchange (joinedGranted d r u ph) := fun p y hy hyn => by
  rw [laneOf_joinedGranted] at hy
  split at hy
  · obtain rfl := Option.some.inj hy
    exact h.imp id fun hall => hall p
  · exact absurd hyn (Nat.ne_of_lt (hnumber p y hy))

theorem joinedGranted_clear (hs : ∀ q, laneOk (laneOf d q)) (hready : joinedReady d (joinedItem r u) ph) (q : Phase) :
    armedClear (laneOf (joinedGranted d r u ph) q) := by
  rw [laneOf_joinedGranted]
  split
  · rename_i hu
    have hopen := open_of_reservedFor (hready.1 q hu)
    obtain ⟨-, hstop, -⟩ := (hs q).restful (by rw [hopen]; rfl)
    exact fun _ => ⟨nofun, hstop⟩
  · exact (hs q).armedClear

theorem joinedFailing_short (hdeadline : r.deadline = 0) (i : WorkItem)
    (hshort : ∀ mode lanes, (planFor d r i.work mode lanes).t ≤ 322) : joinedFailing d r i ph = [] := by
  refine List.filter_eq_nil_iff.2 fun p _ => ?_
  have ht := hshort (jointMode d) (allPhases.filter (usable d))
  have hrem : halfCyclesRemaining d p r.deadline = 65535 := if_pos hdeadline
  rw [hrem, decide_eq_true_eq]
  split <;> omega

/-- What a joined grant leaves once the other lanes have been told. -/
structure JoinedGranted (ph : Phase) (r : Record) (u : Nat) (d t : State) : Prop where
  lanes : ∀ q, usable d q = true → ∃ w, laneOf t q = { joinedLane d r (joinedItem r u) ph q with winner := w }
  records : t.records = d.records.map fun q => if q.serial = r.serial then grantedRecord ph (joinedItem r u) [u] r else q
  inFlight : t.inFlight = d.inFlight ++ [u].filter fun v => !d.inFlight.contains v
  lcm : t.lcm = d.lcm

/-- The joined grant is made, and no preemption test of the lanes told of it ends it (R78, R80). -/
theorem joinedGrant_made (hs : d.lanesOk) (hn : (d.records.map Record.serial).Nodup) (hr : r ∈ d.records)
    (hst : r.state = .ready ∨ r.state = .active) (hquiet : ∀ q ∈ d.records, evaluationEnds d q = false)
    (hready : joinedReady d (joinedItem r u) ph) (hfail : joinedFailing d r (joinedItem r u) ph = [])
    (hspared : spared d.nextExchange (joinedGranted d r u ph)) :
    JoinedGranted ph r u d (joinedGrant ph (joinedItem r u) d) := by
  have hclear := joinedGranted_clear (fun q => (hs q).1) hready
  have hgquiet : ∀ q ∈ (joinedGranted d r u ph).records, evaluationEnds (joinedGranted d r u ph) q = false := fun q hq => by
    rw [evaluationEnds_congr (s := d) (t := joinedGranted d r u ph) rfl]
    obtain ⟨p, hp, rfl⟩ := List.mem_map.1 hq
    split
    · exact evaluationEnds_granted hst (hquiet r hr) ph _ _
    · exact hquiet p hp
  have hrest := chooseAndTest_rest (otherLanes_nodup ph) hclear
  rw [joinedGrant_ready hready (recordOf_eq hn hr), hfail, if_neg (not_not_intro rfl), applyGrant_joined hn hr hst,
    tell_of_quiet hgquiet]
  refine ⟨fun q hu => ?_, ?_, ?_, ?_⟩
  · have hlane : laneOf (joinedGranted d r u ph) q = joinedLane d r (joinedItem r u) ph q := by
      rw [laneOf_joinedGranted, if_pos hu]
    rw [← hlane]
    refine chooseAndTest_spared (otherLanes_nodup ph) hclear (by rw [hlane]; rfl) ?_ hspared
    rw [hlane, joinedLane]
    dsimp only
    split <;> nofun
  all_goals
    rw [hrest]
    rfl

theorem jointMode_robust_iff : jointMode d = .robust ↔ ∃ q, usable d q = true ∧ (lcmOf d q).mode = .robust := by
  unfold jointMode
  simp [mem_allPhases]

/-- The mode of a joined exchange: ROBUST if the monitor of some lane of the set reports it (R101). -/
theorem HeldFor.mode_iff (hd : HeldFor ph mf r u s d) (hu : Machine.usable s ph = true)
    (hother : ∀ q, q ≠ ph → lcmOf d q = lcmOf s q) :
    jointMode d = .robust ↔ (lcmOf d ph).mode = .robust ∨
      ∃ q, q ≠ ph ∧ Machine.usable s q = true ∧ (lcmOf s q).mode = .robust := by
  rw [jointMode_robust_iff]
  constructor
  · rintro ⟨q, hus, hm⟩
    by_cases hq : q = ph
    · exact .inl (hq ▸ hm)
    · exact .inr ⟨q, hq, hd.usable q ▸ hus, hother q hq ▸ hm⟩
  · rintro (hm | ⟨q, hq, hus, hm⟩)
    · exact ⟨ph, (hd.usable ph).trans hu, hm⟩
    · exact ⟨q, (hd.usable q).trans hus, by rw [hother q hq, hm]⟩

theorem lcmOf_boundaryStart_of_ne {q : Phase} (hq : q ≠ ph) : lcmOf (boundaryStart ph mf s) q = lcmOf s q := by
  cases mf with
  | false => rfl
  | true =>
    show lcmOf (measure ph (endedHalf (ptuOf s ph)) (setPtu s ph (nextHalf s.profile.w (ptuOf s ph)))) q = _
    unfold measure
    dsimp only
    rw [raiseIf_frame, raiseIf_frame]
    exact lcmOf_setLcm_of_ne _ _ hq

end

/-! ### The boundary with the joined grant -/

section

variable {s : State} {ph : Phase} {h : HalfCycle} {cyc : Cycle} {r : Record} {u : Nat} {mf : Bool}

/-- The lanes as they stand when the joined grant is tested are sound (R66, R67). -/
theorem heldState_lanesOk (hl : loneUnicast s ph h cyc r u true) : (heldState ph mf r u s).lanesOk := by
  have hitem := ((loneBoundary_joined hl).loneItem mf).chosen
  have hopen : openLane (laneOf (undeferred ph (choosePending (boundaryStart ph mf s) ph)) ph) := .inl hitem.undeferred.idle
  exact setLane_kept (fun hok => laneStays_reserve hok hopen _) hitem.undeferred.lanes

/-- No preemption test ends the joined exchange at once, as the claim's premise on priorities has it (R80). -/
theorem heldState_spared (hl : loneUnicast s ph h cyc r u true)
    (hp : s.profile.urgent ≤ r.priority ∨ ∀ q, ∀ i ∈ candidates s q, i.priority < s.profile.urgent) :
    spared (heldState ph mf r u s).nextExchange (joinedGranted (heldState ph mf r u s) r u ph) := by
  have hd := heldFor_heldState (mf := mf) hl
  refine joinedGranted_spared (fun q x hx => (heldState_lanesOk hl q).2 x hx) ?_
  rw [hd.kept.profile]
  refine hp.imp id fun hlow q i hi => ?_
  have hlone := (loneBoundary_joined hl).lone
  have hitem : r.priority < s.profile.urgent := hlow ph (joinedItem r u) (hlone ▸ List.mem_singleton.2 rfl)
  rcases priority_of_granted (s := s) (t := joinedGranted (heldState ph mf r u s) r u ph) (r := r)
    (r' := grantedRecord ph (joinedItem r u) [u] r) hd.now hd.kept.units
    (fun v hv => List.mem_append_left _ (hd.kept.inFlight ▸ hv)) (fun q => (usable_joinedGranted q).trans (hd.usable q))
    (congrArg (List.map _) hd.kept.records) rfl hi with h | ⟨j, hj, hjp⟩
  · rwa [h]
  · exact hjp ▸ hlow q j hj

/-- The boundary with the joined item in hand (R70 to R72, R75). -/
theorem exec_joined (hl : loneUnicast s ph h cyc r u true) (hclear : busy h ≤ (h.w - 2) / 8) (o : ReportOrder) :
    exec (.halfCycleBoundary ph mf o) s = .next (transmit (boundaryEnd ph mf (endedHalf (ptuOf s ph))
      (joinedGrant ph (joinedItem r u) (heldState ph mf r u s)))) := by
  have hexec := (loneBoundary_joined hl).exec mf o
  rwa [if_pos hclear, carrierTest_joined hl] at hexec

theorem joinedGrant_heldState (hl : loneUnicast s ph h cyc r u true)
    (hp : s.profile.urgent ≤ r.priority ∨ ∀ q, ∀ i ∈ candidates s q, i.priority < s.profile.urgent)
    (hready : joinedReady (heldState ph mf r u s) (joinedItem r u) ph) :
    JoinedGranted ph r u (heldState ph mf r u s) (joinedGrant ph (joinedItem r u) (heldState ph mf r u s)) := by
  have hd := heldFor_heldState (mf := mf) hl
  have hb := loneBoundary_joined hl
  have hcompetes := (hb.loneItem mf).competes
  obtain ⟨-, -, -, -, -, -, hprofile, -, hdeadline, hpayload, hroute, -, -⟩ := id hl
  refine joinedGrant_made (heldState_lanesOk hl) ?_ ?_ (state_of_competes hcompetes) (fun q hq => ?_) hready
    (joinedFailing_short hdeadline _ fun mode lanes => ?_) (heldState_spared hl hp)
  · rw [hd.kept.records]
    exact hb.queue.serialsApart
  · rw [hd.kept.records]
    exact hb.mem
  · rw [evaluationEnds_congr hd.kept.units]
    rw [hd.kept.records] at hq
    exact hb.quiet q hq
  · rw [planFor_congr hd.kept.units hd.kept.profile]
    exact planFor_short hroute hprofile.1.1 hpayload mode lanes

end

/-- Settles O29, by whether every other usable lane is held for the item. -/
theorem joinedUnicastReservesThenGrants : Obligations.JoinedUnicastReservesThenGrants := by
  unfold Obligations.JoinedUnicastReservesThenGrants
  intro ph mf o s h cyc r u hl hclear hp item held
  have hd := heldFor_heldState (mf := mf) hl
  have hb := loneBoundary_joined hl
  have hcompetes := (hb.loneItem mf).competes
  have hu : usable s ph = true := by
    rw [usable, hb.idle, phaseTrusted, hb.locked]
    rfl
  have hend := boundaryEnd_frame ph mf (endedHalf (ptuOf s ph))
  have hlane : ∀ t q, laneOf (transmit (boundaryEnd ph mf (endedHalf (ptuOf s ph)) t)) q = laneOf t q := fun t q => by
    rw [transmit_laneOf, hend]
    rfl
  refine ⟨_, exec_joined hl hclear o, fun ⟨q, hq, hus, hnot⟩ => ?_, fun hall => ?_⟩
  · rw [joinedGrant_unready fun hready => hnot ((hd.ready_iff hu).1 hready q hq hus), hlane, transmit_records, transmit_inFlight,
      transmit_nextExchange, hend]
    obtain ⟨w, hw⟩ := hd.mine
    rw [hw]
    exact ⟨rfl, rfl, (hb.lanes ph).1.exchange_none (by rw [hb.idle]; rfl), rfl, hd.kept.records, hd.kept.inFlight,
      hd.kept.nextExchange⟩
  · have hready := (hd.ready_iff hu).2 hall
    have hg := joinedGrant_heldState hl hp hready
    generalize joinedGrant ph (joinedItem r u) (heldState ph mf r u s) = t at hg
    have hmode := latchedMode_boundary (mf := mf) (endedHalf (ptuOf s ph)) (hg.lcm.trans hd.kept.lcm)
    have hjoint := hd.mode_iff hu fun q hq => (lcmOf_of_lcm hd.kept.lcm q).trans (lcmOf_boundaryStart_of_ne hq)
    rw [lcmOf_of_lcm hd.kept.lcm, ← hmode] at hjoint
    have hset : allPhases.filter (usable (heldState ph mf r u s)) = allPhases.filter (usable s) :=
      List.filter_congr fun q _ => hd.usable q
    obtain ⟨w, hw⟩ := hg.lanes ph ((hd.usable ph).trans hu)
    obtain ⟨w0, hw0⟩ := hd.mine
    rw [joinedLane_self] at hw
    refine ⟨by rw [hlane, hw], ?_, ⟨_, by rw [hlane, hw], rfl, rfl, ?_, hset, hjoint, fun q hq hus => ?_⟩,
      grantedRecord ph (joinedItem r u) [u] r, ?_, rfl, ?_, rfl⟩
    · rw [transmit_inFlight, hend, hg.inFlight, List.mem_append]
      by_cases hin : u ∈ (heldState ph mf r u s).inFlight
      · exact .inl hin
      · exact .inr (List.mem_filter.2 ⟨List.mem_singleton.2 rfl, by simpa using hin⟩)
    · show reservationForced (heldState ph mf r u s) ph = false
      rw [reservationForced, hw0]
    · obtain ⟨-, v, hv, -⟩ := hall q hq hus
      obtain ⟨w', hw'⟩ := hg.lanes q ((hd.usable q).trans hus)
      rw [joinedLane_other hq] at hw'
      rw [hlane, hw']
      refine ⟨rfl, rfl, _, v, rfl, hv, rfl, rfl, rfl, rfl, rfl, ?_⟩
      show reservationForced (heldState ph mf r u s) q = v.forced
      rw [reservationForced, hd.others q hq, hv]
    · rw [transmit_records, hend, hg.records, hd.kept.records]
      exact List.mem_map.2 ⟨r, hb.mem, if_pos rfl⟩
    · show (if r.state = .ready then _ else r.state) = _
      rcases state_of_competes hcompetes with h' | h' <;> rw [h'] <;> rfl

end Sys2Proof.Machine

/-! ## Reading a placed answer (R94 to R96, R103 to R105): O59 -/

namespace Sys2Proof.Machine

open Sys2Proof.Claims

/-! ### Where a frame's bits stand on the window grid (R95) -/

/-- A frame has no bit beyond its last half-cycle (R97). -/
theorem half_lt_halfCyclesFor {j bits deff : Nat} (hdeff : 1 ≤ deff) (hj : j < bits) :
    j / deff < halfCyclesFor bits deff := by
  unfold halfCyclesFor
  rw [Nat.lt_iff_add_one_le, ← Nat.add_div_right j hdeff]
  exact Nat.div_le_div_right (by omega)

theorem bitIndexAt_normal {d : Nat} (hd : 1 ≤ d) (j : Nat) : bitIndexAt .normal d (j / d) (1 + j % d) = some j := by
  have hwindow := Nat.mod_lt j hd
  have hplace := Nat.div_add_mod' j d
  exact bitIndexAt_eq_some_iff.2 ⟨by omega, by omega, .inl ⟨rfl, by omega⟩⟩

/-- In ROBUST both windows of bit `j` carry it: the first with `i = 1`, the second with `i = 2`. -/
theorem bitIndexAt_robust {d i : Nat} (hd : 1 ≤ d / 2) (j : Nat) (hi : i = 1 ∨ i = 2) :
    bitIndexAt .robust d (j / (d / 2)) (i + 2 * (j % (d / 2))) = some j := by
  have hwindow := Nat.mod_lt j hd
  have hplace := Nat.div_add_mod' j (d / 2)
  have hpair : (i + 2 * (j % (d / 2)) - 1) / 2 = j % (d / 2) := by omega
  exact bitIndexAt_eq_some_iff.2 ⟨by omega, by omega, .inr ⟨rfl, by omega, by omega⟩⟩

/-! ### The samples of a placed frame, and the bits read from them (R96) -/

/-- The sample of a window that carries the bit `b`, with carrier and not weak. -/
def sureSample (b : Bool) : Sample := { rxd := b, cd := true, lq := false }

theorem placedAnswer_getD {mode : Mode} {w k i j : Nat} (bits : List Bool)
    (h : bitIndexAt mode (dataWindows w) k i = some j) :
    (placedAnswer mode w bits k).getD i noSample = sureSample (bits.getD j false) := by
  obtain ⟨hfirst, hlast, -⟩ := bitIndexAt_eq_some_iff.1 h
  rw [dataWindows] at h hlast
  have hi : i < w := by omega
  simp [placedAnswer, sureSample, hi, h]

/-- The half-cycles of an answer window, each found by its number. -/
theorem placedHalves_getD {mode : Mode} {w n k : Nat} (bits : List Bool) (hk : k < n) :
    ((List.range n).map (placedAnswer mode w bits)).getD k [] = placedAnswer mode w bits k := by
  simp [hk]

/-- Every bit of a placed frame is read as it was sent, and surely, in either mode. -/
theorem decideBit_placed {mode : Mode} {w n j : Nat} (bits : List Bool) (hdeff : 1 ≤ bitsPerHalf (dataWindows w) mode)
    (hj : j / bitsPerHalf (dataWindows w) mode < n) :
    decideBit mode (dataWindows w) ((List.range n).map (placedAnswer mode w bits)) j = (bits.getD j false, false) := by
  cases mode with
  | normal =>
    simp only [bitsPerHalf] at hdeff hj
    simp only [decideBit]
    rw [placedHalves_getD bits hj, placedAnswer_getD bits (bitIndexAt_normal hdeff j)]
    rfl
  | robust =>
    simp only [bitsPerHalf] at hdeff hj
    simp only [decideBit]
    rw [placedHalves_getD bits hj, placedAnswer_getD bits (bitIndexAt_robust hdeff j (.inl rfl)),
      placedAnswer_getD bits (bitIndexAt_robust hdeff j (.inr rfl)), if_pos rfl]
    rfl

theorem map_decideBit_placed {mode : Mode} {w : Nat} {bits : List Bool} (hw : 24 ≤ w) :
    (List.range bits.length).map (decideBit mode (dataWindows w)
        ((List.range (halfCyclesFor bits.length (bitsPerHalf (dataWindows w) mode))).map (placedAnswer mode w bits))) =
      bits.map (·, false) := by
  have hdeff : 1 ≤ bitsPerHalf (dataWindows w) mode := bitsPerHalf_eq w mode ▸ bitsAHalf_pos hw mode
  refine List.ext_getElem (by simp) fun j hj _ => ?_
  have hlt : j < bits.length := by simpa using hj
  rw [List.getElem_map, List.getElem_range, decideBit_placed bits hdeff (half_lt_halfCyclesFor hdeff hlt), List.getElem_map,
    List.getD_eq_getElem _ _ hlt]

/-! ### The answer frame and its judgement (R94, R104, R105) -/

/-- What the CRC of an answer frame covers: the line tag, the address and the status (R94). -/
def answerCovered (lineTag : Nat) (address : Address) (status : Byte) : List Bool :=
  bitsOf 16 lineTag ++ bitsOf 32 address.toNat ++ bitsOf 8 status.toNat

/-- An answer frame's bits: sync pattern, covered fields and CRC (R94). -/
def answerFrame (lineTag : Nat) (address : Address) (status : Byte) : List Bool :=
  bitsOf 16 0x9B3C ++ answerCovered lineTag address status ++ bitsOf 16 (crcOfBits (answerCovered lineTag address status)).toNat

@[simp] theorem answerCovered_length (lineTag : Nat) (address : Address) (status : Byte) :
    (answerCovered lineTag address status).length = 56 := by
  simp [answerCovered]

@[simp] theorem answerFrame_length (lineTag : Nat) (address : Address) (status : Byte) :
    (answerFrame lineTag address status).length = 88 := by
  simp [answerFrame]

section

variable (lineTag : Nat) (address : Address) (status : Byte)

theorem answerFrame_sync : (answerFrame lineTag address status).take 16 = bitsOf 16 0x9B3C := by
  simp [answerFrame]

theorem answerFrame_covered :
    ((answerFrame lineTag address status).drop 16).take 56 = answerCovered lineTag address status := by
  simp [answerFrame]

theorem answerFrame_crc :
    (answerFrame lineTag address status).drop 72 = bitsOf 16 (crcOfBits (answerCovered lineTag address status)).toNat := by
  simp [answerFrame, List.drop_append]

theorem answerCovered_lineTag : (answerCovered lineTag address status).take 16 = bitsOf 16 lineTag := by
  simp [answerCovered]

theorem answerCovered_address :
    ((answerCovered lineTag address status).drop 16).take 32 = bitsOf 32 address.toNat := by
  simp [answerCovered]

theorem answerCovered_status : (answerCovered lineTag address status).drop 48 = bitsOf 8 status.toNat := by
  simp [answerCovered, List.drop_append]

end

/-- An answer frame read with no weak bit, its tag the exchange's, is good, with its own address and status and quality 15:
the sync pattern and the CRC spell what they were made from. -/
theorem judgeAnswer_of_read {mode : Mode} {w lineTag : Nat} {halves : List (List Sample)} {address : Address} {status : Byte}
    (htag : lineTag < 65536)
    (hread : (List.range 88).map (decideBit mode (dataWindows w) halves) =
      (answerFrame lineTag address status).map (·, false)) :
    judgeAnswer mode w lineTag halves = .good { address, status, quality := 15 } := by
  have hbits : ((answerFrame lineTag address status).map (·, false)).map Prod.fst = answerFrame lineTag address status := by
    simp [Function.comp_def]
  have hweak : (((answerFrame lineTag address status).map (·, false)).filter Prod.snd).length = 0 := by simp
  have hsync : natOfBits (bitsOf 16 0x9B3C) = 0x9B3C := natOfBits_bitsOf (by decide)
  have hspelt {n : Nat} (v : BitVec n) : natOfBits (bitsOf n v.toNat) = v.toNat := natOfBits_bitsOf v.isLt
  simp only [judgeAnswer, hread, hbits, hweak, answerFrame_sync, answerFrame_covered, answerFrame_crc, answerCovered_lineTag,
    answerCovered_address, answerCovered_status, hsync, hspelt, natOfBits_bitsOf (w := 16) htag, BitVec.ofNat_toNat,
    BitVec.setWidth_eq, beq_self_eq_true, Bool.and_self, if_true]
  rfl

/-- Settles O59: each of the 88 bits is read where R95 placed it and as it was sent (`decideBit_placed`), so the frame's
fields come back whole. -/
theorem placedAnswerReadsBack : Obligations.PlacedAnswerReadsBack := by
  intro mode w lineTag address status hw _ htag
  have hread := map_decideBit_placed (mode := mode) (bits := answerFrame lineTag address status) hw
  rw [answerFrame_length] at hread
  exact judgeAnswer_of_read htag hread

end Sys2Proof.Machine

/-! ## Learning reports taken by the unit table (R119 to R126): O47, O48 -/

namespace Sys2Proof.Machine

open Sys2Proof.Claims

/-! ### The report taken (R119, R125) -/

theorem exec_learningReport (n : Nat) (s : State) :
    exec (.learningReport n) s = .next (transmit (takeTableReport n s)) := rfl

theorem takeTableReport_none {n : Nat} {s : State} (h : s.learningReports.length ≤ n) : takeTableReport n s = s := by
  simp only [takeTableReport, List.drop_eq_nil_of_le h]

/-- The report is applied to the state without it, and at most choosing again follows (R125). -/
theorem takeTableReport_of {s : State} {before after : List LearningReport} {rep : LearningReport}
    (h : s.learningReports = before ++ rep :: after) :
    LaneWork (applyLearning rep { s with learningReports := before ++ after }) (takeTableReport before.length s) ∧
      ChoiceWork (applyLearning rep { s with learningReports := before ++ after }) (takeTableReport before.length s) := by
  have hdrop : s.learningReports.drop before.length = rep :: after := by rw [h, List.drop_left]
  have htake : s.learningReports.take before.length = before := by rw [h, List.take_left]
  simp only [takeTableReport, hdrop, htake]
  split
  · exact ⟨tell_work _ _, tell_choice _ _⟩
  · exact ⟨.refl _, .refl _⟩

/-- The command leaves alone what the report taught, and reports that it forms stand last. -/
theorem exec_learningReport_of {s : State} {before after : List LearningReport} {rep : LearningReport}
    (h : s.learningReports = before ++ rep :: after) :
    ∃ t more, exec (.learningReport before.length) s = .next t ∧ t.learningReports = before ++ after ++ more ∧
      (t.profile = s.profile ∧ t.clock = s.clock ∧ t.ptu = s.ptu ∧ t.inFlight = s.inFlight) ∧
      outsideKept (applyLearning rep { s with learningReports := before ++ after }) t := by
  obtain ⟨hwork, hchoice⟩ := takeTableReport_of h
  obtain ⟨more, hmore⟩ := hchoice.learned
  obtain ⟨us, ds, e, u, hframe⟩ := applyLearning_frame rep { s with learningReports := before ++ after }
  refine ⟨_, more, exec_learningReport _ s, ?_, ⟨?_, ?_, ?_, ?_⟩, hwork.outside⟩
  · rw [transmit_learningReports, hmore, hframe]
  · rw [transmit_profile, hwork.profile, hframe]
  · rw [transmit_clock, hwork.clock, hframe]
  · rw [transmit_ptu, hwork.ptu, hframe]
  · rw [transmit_inFlight, hwork.inFlight, hframe]

theorem unitAt_putEntry_self {s : State} (hs : s.tableOk) (i : Nat) (e : Entry) :
    unitAt { s with units := putEntry s.units i e } i = e := entryAt_putEntry_self hs.rising i e

theorem unitAt_putEntry_of_ne (s : State) {i j : Nat} (e : Entry) (h : j ≠ i) :
    unitAt { s with units := putEntry s.units i e } j = unitAt s j := entryAt_putEntry_of_ne _ _ h

/-! ### What an answer teaches an entry (R121 to R123) -/

section

variable {ans : KeptAnswer} {e : Entry}

theorem learnedEntry_relayed (h : ans.hops ≠ 0) :
    learnedEntry ans e = ({ e with silence := 0, state := .active }, false) := by
  rw [learnedEntry, if_pos h]

/-- The entry after any direct answer, but for its phase and its count of conflicts (R121, R122). -/
def heardDirectly (ans : KeptAnswer) (e : Entry) : Entry :=
  { e with silence := 0, state := .active, quality := some ans.quality }

theorem learnedEntry_unknown (h : ans.hops = 0) (hp : e.phase = none) :
    learnedEntry ans e = ({ heardDirectly ans e with phase := some ans.lane, conflict := 0 }, false) := by
  simp only [learnedEntry, h, hp, ne_eq, not_true_eq_false, ↓reduceIte, heardDirectly]

theorem learnedEntry_agreeing (h : ans.hops = 0) (hp : e.phase = some ans.lane) :
    learnedEntry ans e = ({ heardDirectly ans e with conflict := 0 }, false) := by
  simp only [learnedEntry, h, hp, ne_eq, not_true_eq_false, ↓reduceIte, heardDirectly]

variable {q : Phase}

/-- The third conflict in a row moves the entry (R123). -/
theorem learnedEntry_moving (h : ans.hops = 0) (hp : e.phase = some q) (hq : q ≠ ans.lane) (hc : e.conflict = 2) :
    learnedEntry ans e = ({ heardDirectly ans e with phase := some ans.lane, conflict := 0 }, true) := by
  simp only [learnedEntry, h, hp, hq, hc, ne_eq, not_true_eq_false, ↓reduceIte, heardDirectly]

theorem learnedEntry_conflicting (h : ans.hops = 0) (hp : e.phase = some q) (hq : q ≠ ans.lane) (hc : e.conflict ≠ 2) :
    learnedEntry ans e = ({ heardDirectly ans e with conflict := e.conflict + 1 }, false) := by
  have hthree : e.conflict + 1 ≠ 3 := fun h3 => hc (Nat.succ.inj h3)
  simp only [learnedEntry, h, hp, hq, hthree, ne_eq, not_true_eq_false, ↓reduceIte, heardDirectly]

end

/-! ### An answer whose address an entry holds (R120) -/

section

variable {s : State} {ans : KeptAnswer} {i : Nat}

theorem applyAnswer_dead (hs : s.tableOk) (hi : (unitAt s i).address = some ans.address)
    (hdead : isLive (unitAt s i) = false) : applyAnswer ans s = s := by
  simp only [applyAnswer, holderOf_eq_some hs hi, hdead, Bool.false_eq_true, ↓reduceIte]

theorem applyAnswer_live (hs : s.tableOk) (hi : (unitAt s i).address = some ans.address)
    (hlive : isLive (unitAt s i) = true) :
    applyAnswer ans s = raiseIf (learnedEntry ans (unitAt s i)).2 .phaseMoved
      { s with units := putEntry s.units i (learnedEntry ans (unitAt s i)).1 } := by
  simp only [applyAnswer, holderOf_eq_some hs hi, hlive, ↓reduceIte]

/-- The live entry that holds the address learns. -/
theorem applyAnswer_teaches (hs : s.tableOk) (hi : (unitAt s i).address = some ans.address)
    (hlive : isLive (unitAt s i) = true) : unitAt (applyAnswer ans s) i = (learnedEntry ans (unitAt s i)).1 := by
  rw [applyAnswer_live hs hi hlive, unitAt, (raiseIf_work _ _ _).units]
  exact unitAt_putEntry_self hs i _

/-- A phase moved is reported (R123). -/
theorem applyAnswer_phaseMoved (hs : s.tableOk) (hi : (unitAt s i).address = some ans.address)
    (hlive : isLive (unitAt s i) = true) (hmoved : (learnedEntry ans (unitAt s i)).2 = true) :
    flagSet (applyAnswer ans s) .phaseMoved = true := by
  rw [applyAnswer_live hs hi hlive, hmoved]
  exact flagSet_raise_self _ _

/-- No other entry learns, and the discovery list stays as it is. -/
theorem applyAnswer_others (hs : s.tableOk) (hi : (unitAt s i).address = some ans.address) :
    (applyAnswer ans s).discovery = s.discovery ∧ ∀ j, j ≠ i → unitAt (applyAnswer ans s) j = unitAt s j := by
  cases hlive : isLive (unitAt s i) with
  | false =>
    rw [applyAnswer_dead hs hi hlive]
    exact ⟨rfl, fun _ _ => rfl⟩
  | true =>
    rw [applyAnswer_live hs hi hlive]
    refine ⟨(raiseIf_work _ _ _).discovery, fun j hj => ?_⟩
    rw [unitAt, (raiseIf_work _ _ _).units]
    exact unitAt_putEntry_of_ne s _ hj

end

/-! ### An answer whose address no entry holds (R120, R126) -/

section

variable {s : State} {a : Address}

theorem offerDiscovery_listed (h : a ∈ s.discovery) : offerDiscovery a s = s := by
  rw [offerDiscovery, if_pos (List.contains_iff_mem.2 h)]

theorem offerDiscovery_room (h : a ∉ s.discovery) (hroom : s.discovery.length < 32) :
    offerDiscovery a s = raise .discovery { s with discovery := s.discovery ++ [a] } := by
  rw [offerDiscovery, if_neg (mt List.contains_iff_mem.1 h), if_pos hroom]

theorem offerDiscovery_full (h : a ∉ s.discovery) (hfull : s.discovery.length = 32) :
    offerDiscovery a s = raise .discoveryFull s := by
  rw [offerDiscovery, if_neg (mt List.contains_iff_mem.1 h), if_neg (by omega)]

theorem offerDiscovery_units (a : Address) (s : State) : (offerDiscovery a s).units = s.units := by
  unfold offerDiscovery
  split
  · rfl
  · split <;> exact (raise_work _ _).units

variable {ans : KeptAnswer}

theorem applyAnswer_reserved (hs : s.tableOk) (hfree : ∀ i, (unitAt s i).address ≠ some ans.address)
    (h : reservedAddress ans.address = true) : applyAnswer ans s = s := by
  simp only [applyAnswer, holderOf_eq_none hs hfree, h, ↓reduceIte]

theorem applyAnswer_offers (hs : s.tableOk) (hfree : ∀ i, (unitAt s i).address ≠ some ans.address)
    (h : reservedAddress ans.address = false) : applyAnswer ans s = offerDiscovery ans.address s := by
  simp only [applyAnswer, holderOf_eq_none hs hfree, h, Bool.false_eq_true, ↓reduceIte]

theorem applyAnswer_unheld_units (hs : s.tableOk) (hfree : ∀ i, (unitAt s i).address ≠ some ans.address) :
    (applyAnswer ans s).units = s.units := by
  cases h : reservedAddress ans.address with
  | true => rw [applyAnswer_reserved hs hfree h]
  | false => rw [applyAnswer_offers hs hfree h, offerDiscovery_units]

/-- A reserved address, or one already listed, is not listed again. -/
theorem applyAnswer_unlisted (hs : s.tableOk) (hfree : ∀ i, (unitAt s i).address ≠ some ans.address)
    (h : ans.address = 0 ∨ ans.address = 0xFFFFFFFF ∨ ans.address ∈ s.discovery) :
    (applyAnswer ans s).discovery = s.discovery := by
  cases hr : reservedAddress ans.address with
  | true => rw [applyAnswer_reserved hs hfree hr]
  | false =>
    obtain ⟨hzero, hones⟩ := (reservedAddress_iff _).1 hr
    rw [applyAnswer_offers hs hfree hr, offerDiscovery_listed ((h.resolve_left hzero).resolve_left hones)]

/-- A new address joins the list where there is room. -/
theorem applyAnswer_lists (hs : s.tableOk) (hfree : ∀ i, (unitAt s i).address ≠ some ans.address)
    (hr : reservedAddress ans.address = false) (hnew : ans.address ∉ s.discovery) (hroom : s.discovery.length < 32) :
    (applyAnswer ans s).discovery = s.discovery ++ [ans.address] ∧ flagSet (applyAnswer ans s) .discovery = true := by
  rw [applyAnswer_offers hs hfree hr, offerDiscovery_room hnew hroom]
  exact ⟨(raise_work _ _).discovery, flagSet_raise_self _ _⟩

/-- A new address that finds the list full is dropped. -/
theorem applyAnswer_drops (hs : s.tableOk) (hfree : ∀ i, (unitAt s i).address ≠ some ans.address)
    (hr : reservedAddress ans.address = false) (hnew : ans.address ∉ s.discovery) (hfull : s.discovery.length = 32) :
    (applyAnswer ans s).discovery = s.discovery ∧ flagSet (applyAnswer ans s) .discoveryFull = true := by
  rw [applyAnswer_offers hs hfree hr, offerDiscovery_full hnew hfull]
  exact ⟨(raise_work _ _).discovery, flagSet_raise_self _ _⟩

end

/-- Settles O47: the one answer applied, by who holds its address, and then what choosing again leaves of it. -/
theorem answerTeachesTable : Obligations.AnswerTeachesTable := by
  refine ⟨fun n s h => becomes_of_transmit (by rw [exec_learningReport, takeTableReport_none h]) rfl,
    fun s before after ans hs hreports => ?_⟩
  obtain ⟨t, more, hexec, hlearning, ⟨hprofile, hclock, hptu, hinFlight⟩,
    ⟨-, -, -, -, hunits, hdiscovery, -, -, -, -, -, -, hflags, -⟩⟩ := exec_learningReport_of hreports
  have hs0 : State.tableOk { s with learningReports := before ++ after } := hs
  have hunit : ∀ j, unitAt t j = unitAt (applyAnswer ans { s with learningReports := before ++ after }) j :=
    unitAt_congr hunits
  refine ⟨t, more, hexec, hlearning, hprofile, hclock, hptu, hinFlight, fun i hi => ?_, fun hfree => ?_⟩
  · obtain ⟨hlist, hothers⟩ := applyAnswer_others hs0 hi
    have htaught : isLive (unitAt s i) = true → unitAt t i = (learnedEntry ans (unitAt s i)).1 := fun hlive =>
      (hunit i).trans (applyAnswer_teaches hs0 hi hlive)
    refine ⟨hdiscovery.trans hlist, fun j hj => (hunit j).trans (hothers j hj), fun hdead => ?_, fun hlive hhops => ?_,
      fun hlive hhops => ⟨fun hp => ?_, fun hp => ?_, fun q hp hq => ⟨fun hc => ⟨?_, ?_⟩, fun hc => ?_⟩⟩⟩
    · rw [hunit, applyAnswer_dead hs0 hi hdead]
      rfl
    · rw [htaught hlive, learnedEntry_relayed hhops]
    · rw [htaught hlive, learnedEntry_unknown hhops hp]
      rfl
    · rw [htaught hlive, learnedEntry_agreeing hhops hp]
      rfl
    · rw [htaught hlive, learnedEntry_moving hhops hp hq hc]
      rfl
    · exact flagSet_of_kept hflags (applyAnswer_phaseMoved hs0 hi hlive
        (congrArg Prod.snd (learnedEntry_moving hhops hp hq hc)))
    · rw [htaught hlive, learnedEntry_conflicting hhops hp hq hc]
      rfl
  · refine ⟨hunits.trans (applyAnswer_unheld_units hs0 hfree),
      fun h => hdiscovery.trans (applyAnswer_unlisted hs0 hfree h), fun hzero hones hnew => ?_⟩
    have hr := (reservedAddress_iff ans.address).2 ⟨hzero, hones⟩
    refine ⟨fun hroom => ?_, fun hfull => ?_⟩
    · obtain ⟨hlist, hflag⟩ := applyAnswer_lists hs0 hfree hr hnew hroom
      exact ⟨hdiscovery.trans hlist, flagSet_of_kept hflags hflag⟩
    · obtain ⟨hlist, hflag⟩ := applyAnswer_drops hs0 hfree hr hnew hfull
      exact ⟨hdiscovery.trans hlist, flagSet_of_kept hflags hflag⟩

/-! ### The silence item (R124) -/

section

variable {s : State} {i : Nat} {a : Address}

/-- A live entry that still holds the address counts the item, and an ACTIVE one may become SILENT by it. -/
theorem applySilence_counted (hs : s.tableOk) (hlive : isLive (unitAt s i) = true)
    (ha : (unitAt s i).address = some a) :
    unitAt (applySilence i a s) i =
      { unitAt s i with
        silence := min 255 ((unitAt s i).silence + 1)
        state := if (unitAt s i).state = .active ∧ s.profile.silence ≤ min 255 ((unitAt s i).silence + 1) then .silent
          else (unitAt s i).state } := by
  rw [applySilence, if_pos ⟨hlive, ha⟩]
  exact unitAt_putEntry_self hs i _

theorem applySilence_ignored (h : isLive (unitAt s i) = false ∨ (unitAt s i).address ≠ some a) :
    unitAt (applySilence i a s) i = unitAt s i := by
  have hnot : ¬(isLive (unitAt s i) = true ∧ (unitAt s i).address = some a) := fun ⟨hlive, ha⟩ =>
    h.elim (fun hdead => Bool.false_ne_true (hdead.symm.trans hlive)) fun hother => hother ha
  rw [applySilence, if_neg hnot]

/-- No other entry counts it. -/
theorem applySilence_others (i : Nat) (a : Address) (s : State) :
    (applySilence i a s).discovery = s.discovery ∧ ∀ j, j ≠ i → unitAt (applySilence i a s) j = unitAt s j := by
  unfold applySilence
  dsimp only
  split
  · exact ⟨rfl, fun j hj => unitAt_putEntry_of_ne s _ hj⟩
  · exact ⟨rfl, fun _ _ => rfl⟩

end

/-- Settles O48: the item counted or ignored, and then what choosing again leaves of it. -/
theorem silenceItemCountsTowardSilent : Obligations.SilenceItemCountsTowardSilent := by
  intro s before after i a hs hreports
  obtain ⟨t, -, hexec, -, -, ⟨-, -, -, -, hunits, hdiscovery, -⟩⟩ := exec_learningReport_of hreports
  have hs0 : State.tableOk { s with learningReports := before ++ after } := hs
  obtain ⟨hlist, hothers⟩ := applySilence_others i a { s with learningReports := before ++ after }
  have hunit : ∀ j, unitAt t j = unitAt (applySilence i a { s with learningReports := before ++ after }) j :=
    unitAt_congr hunits
  refine ⟨t, hexec, fun j hj => (hunit j).trans (hothers j hj), hdiscovery.trans hlist, fun hlive ha => ?_, fun h => ?_⟩
  · exact (hunit i).trans (applySilence_counted hs0 hlive ha)
  · exact (hunit i).trans (applySilence_ignored (s := { s with learningReports := before ++ after }) h)

end Sys2Proof.Machine

/-! ## The monitor at the boundary that ends a half-cycle (R130 to R137): O26

What the monitor makes of an ended half-cycle is said once for a quiet one and once for any other. `MonitorBecomes` then
carries the judged monitor, with the flags that go with it, through the lane's work at the same boundary, whichever of the
two comes first. -/

namespace Sys2Proof.Machine

open Sys2Proof.Claims

/-! ### The judgement (R130 to R137) -/

theorem isQuiet_iff (st : StartState) :
    isQuiet (some st) = true ↔ st.state = .idle ∨ st.state = .reserved ∨ st.state = .paused ∨ st.state = .stopped ∨
      st.state = .settling ∨ st.state = .listening ∧ st.gap = true := by
  obtain ⟨state, gap⟩ := st
  cases state <;> simp [isQuiet]

theorem measured_of_quiet {m : Lcm} (p : Profile) (ended : EndedHalf) (h : isQuiet m.start = true) :
    measured p ended m =
      let busy := busyCount ended.samples ended.w
      let d := dataWindows ended.w
      let floor := floorStep m.floor (noiseScore busy d)
      { m with
        floor, mode := nextMode p m.mode floor, latch := m.latch || decide (d / 2 < busy)
        verdict := if busy ≤ d / 8 then .clear else .notClear, verdictAt := some ended.time } := by
  simp only [measured, verdictOn, h, ↓reduceIte]

theorem measured_of_not_quiet {m : Lcm} (p : Profile) (ended : EndedHalf) (h : isQuiet m.start = false) :
    measured p ended m = { m with verdict := .none, verdictAt := some ended.time } := by
  simp only [measured, verdictOn, h, Bool.false_eq_true, ↓reduceIte]

/-! ### The boundary around it (R12, R135 to R137) -/

/-- The monitor of one phase has become another, and no other monitor has changed; a mode that changed and a latch that
came up have raised their flags (R135, R137). -/
structure MonitorBecomes (ph : Phase) (s : State) (m : Lcm) (t : State) : Prop where
  lcm : t.lcm = putPhase s.lcm ph m
  modeChange : (lcmOf s ph).mode ≠ m.mode → flagSet t .modeChange = true
  foreignCarrier : (lcmOf s ph).latch = false → m.latch = true → flagSet t .foreignCarrier = true

section

variable {ph : Phase} {s t : State} {m : Lcm}

theorem MonitorBecomes.of_lcm {s' : State} (h : MonitorBecomes ph s' m t) (hl : s'.lcm = s.lcm) :
    MonitorBecomes ph s m t := by
  have hm := lcmOf_of_lcm hl ph
  exact ⟨hl ▸ h.lcm, hm ▸ h.modeChange, hm ▸ h.foreignCarrier⟩

/-- The lane's work leaves the monitors alone and clears no flag. -/
theorem MonitorBecomes.trans_side {u : State} (h : MonitorBecomes ph s m t) (k : LaneSide t u) :
    MonitorBecomes ph s m u :=
  ⟨k.lcm.trans h.lcm, fun hm => flagSet_of_kept k.flags (h.modeChange hm),
    fun hl hm => flagSet_of_kept k.flags (h.foreignCarrier hl hm)⟩

theorem MonitorBecomes.lcmOf_self (h : MonitorBecomes ph s m t) : lcmOf t ph = m := by
  rw [lcmOf, h.lcm, atPhase_putPhase_self]

theorem MonitorBecomes.lcmOf_of_ne (h : MonitorBecomes ph s m t) {q : Phase} (hq : q ≠ ph) : lcmOf t q = lcmOf s q := by
  rw [lcmOf, h.lcm, atPhase_putPhase_of_ne _ _ hq, lcmOf]

theorem measure_becomes (ph : Phase) (ended : EndedHalf) (s : State) :
    MonitorBecomes ph s (measured s.profile ended (lcmOf s ph)) (measure ph ended s) where
  lcm := (measure_work ph ended s).lcm
  modeChange h := by
    rw [measure, raiseIf, if_pos (bne_iff_ne.2 h)]
    exact flagSet_raise_self _ _
  foreignCarrier hl hm := by
    rw [measure, flagSet_raiseIf_of_ne _ _ (by decide), raiseIf, hl, hm]
    exact flagSet_raise_self _ _

/-- The monitor may act after the lane: it finds itself and the settings as they were. -/
theorem MonitorBecomes.of_measure_after (ended : EndedHalf) (h : LaneSide s t) :
    MonitorBecomes ph s (measured s.profile ended (lcmOf s ph)) (measure ph ended t) := by
  have hmeasure := measure_becomes ph ended t
  rw [h.profile, lcmOf_of_lcm h.lcm] at hmeasure
  exact hmeasure.of_lcm h.lcm

/-- In either order the monitor judges by what it held before the boundary, and only the lane's report of its start state
comes after the two. -/
theorem takeBoundary_becomes (ph : Phase) (mf : Bool) (o : ReportOrder) (s : State) :
    ∃ t, takeBoundary ph mf o s = reportStart ph t ∧
      MonitorBecomes ph s (measured s.profile (endedHalf (ptuOf s ph)) (lcmOf s ph)) t := by
  refine ⟨_, rfl, MonitorBecomes.of_lcm (s' := setPtu s ph (nextHalf s.profile.w (ptuOf s ph))) ?_ (setPtu_lcm ..)⟩
  cases mf with
  | true => exact (measure_becomes ph _ _).trans_side (laneBoundary_side ..)
  | false => exact .of_measure_after _ (laneBoundary_side ..)

end

/-- Settles O26: the monitor as `measured` leaves it, read off for a quiet half-cycle and for any other. -/
theorem monitorJudgesEndedHalfCycle : Obligations.MonitorJudgesEndedHalfCycle := by
  intro ph mf o s h cyc st hready hst m d score floor quiet
  obtain ⟨r, hr, hbecomes⟩ := takeBoundary_becomes ph mf o s
  obtain ⟨gap, hgap⟩ := reportStart_lcm ph r
  rw [endedHalf_of_ready hready] at hbecomes
  have hquiet : isQuiet m.start = true ↔ quiet := by rw [hst, isQuiet_iff]
  have hexec := exec_halfCycleBoundary_due (mf := mf) (o := o) (boundaryDue_of_ready hready)
  rw [hr] at hexec
  refine ⟨_, hexec, fun q hq => ?_, ?_, fun hq => ?_, fun hq => ?_⟩
  · rw [transmit_lcmOf, reportStart, lcmOf_setLcm_of_ne _ _ hq, hbecomes.lcmOf_of_ne hq]
  · rw [transmit_lcmOf, transmit_laneOf, hgap]
    rfl
  · have hmonitor := hbecomes.lcmOf_self
    rw [measured_of_quiet _ _ (hquiet.2 hq)] at hbecomes hmonitor
    rw [transmit_lcmOf, transmit_flagSet, transmit_flagSet, hgap, hmonitor]
    have hlatch : (m.latch || decide (d / 2 < busy h)) = true ↔ m.latch = true ∨ d / 2 < busy h := by
      rw [Bool.or_eq_true, decide_eq_true_iff]
    refine ⟨rfl, rfl, fun hm => ?_, fun hm => ?_, hbecomes.modeChange, hlatch,
      fun hl hbusy => hbecomes.foreignCarrier hl (hlatch.2 (.inr hbusy))⟩
    all_goals
      show nextMode s.profile m.mode floor = _
      rw [hm]
      rfl
  · rw [transmit_lcmOf, hgap, hbecomes.lcmOf_self,
      measured_of_not_quiet _ _ (Bool.eq_false_iff.2 fun hq' => hq (hquiet.1 hq'))]
    exact ⟨rfl, rfl, rfl, rfl⟩

end Sys2Proof.Machine

/-! ## The uplink's queue and the NOTICE owed (R142, R148, R152, R162): O12

The queue, the lanes, the table and the grids change of the uplink notice-due alone, and mark it for a reportable flag
alone. The receiver, the intake and the transmitter are followed operation by operation. -/

namespace Sys2Proof.Machine

open Sys2Proof.Claims

/-! ### The invariant in two parts -/

/-- A NOTICE is owed only while some flag is set and unmasked (R162). -/
def noticeOk (s : State) : Prop := s.uli.noticeDue = true → reportable s ≠ 0

/-- The responses, the waiting slot and the frame being sent agree (R142, R148, R152). -/
def queueShape (u : Uli) : Prop :=
  u.responses.length ≤ 4 ∧ (u.slot ≠ none → u.responses.length = 4) ∧ sendingOldest u

theorem uplinkOk_iff (s : State) : s.uplinkOk ↔ queueShape s.uli ∧ noticeOk s := by
  simp only [State.uplinkOk, queueShape, noticeOk, and_assoc]

/-- The waiting slot is empty while the response queue has room (R148). -/
theorem State.uplinkOk.slot_none {s : State} (hs : s.uplinkOk) (hroom : s.uli.responses.length < 4) :
    s.uli.slot = none := by
  obtain ⟨-, hslot, -⟩ := hs
  by_contra h
  have := hslot h
  omega

/-- Of the uplink notice-due alone may have changed, and it is as it should be if it was so before. -/
structure NoticeKept (s t : State) : Prop where
  uli : t.uli = { s.uli with noticeDue := t.uli.noticeDue }
  notice : noticeOk s → noticeOk t

theorem NoticeKept.trans {a b c : State} (h : NoticeKept a b) (k : NoticeKept b c) : NoticeKept a c :=
  ⟨by rw [k.uli, h.uli], k.notice ∘ h.notice⟩

theorem noticeKept_of_eq {s t : State} (hu : t.uli = s.uli) (he : t.events = s.events) : NoticeKept s t :=
  ⟨by rw [hu], fun h hd => by
    unfold reportable
    rw [he]
    exact h (hu ▸ hd)⟩

theorem NoticeKept.refl (s : State) : NoticeKept s s := noticeKept_of_eq rfl rfl

/-- A change that leaves the uplink and the flags alone goes before. -/
theorem NoticeKept.after {s s' t : State} (k : NoticeKept s' t) (hu : s'.uli = s.uli) (he : s'.events = s.events) :
    NoticeKept s t := (noticeKept_of_eq hu he).trans k

/-- An event that has come is taken, and one that has not leaves the state alone (log 3). -/
theorem noticeKept_ite {c : Prop} [Decidable c] {s t : State} (h : NoticeKept s t) :
    NoticeKept s (if c then t else s) := by
  split
  · exact h
  · exact .refl s

/-- Notice-due apart, the invariant stands as it stood. -/
theorem NoticeKept.uplinkOk {s t : State} (h : NoticeKept s t) (hs : s.uplinkOk) : t.uplinkOk := by
  rw [uplinkOk_iff] at hs ⊢
  refine ⟨?_, h.notice hs.2⟩
  rw [h.uli]
  exact hs.1

/-- The queue and the lanes mark notice-due for a reportable flag alone, and clear no flag. -/
theorem LaneSide.notice {s t : State} (h : LaneSide s t) : NoticeKept s t :=
  ⟨h.uli, fun hs hd => (h.due hd).elim (fun hb => reportable_mono h.mask h.flags (hs hb)) id⟩

theorem LaneWork.notice {s t : State} (h : LaneWork s t) : NoticeKept s t := h.toLaneSide.notice

theorem tell_notice (asked : List Phase) (s : State) : NoticeKept s (tell asked s) := (tell_work asked s).notice

theorem commitRecords_notice (rs : List Record) (s : State) : NoticeKept s (commitRecords rs s) :=
  NoticeKept.after (s' := { s with records := rs }) (raiseIf_work _ _ _).notice rfl rfl

/-! ### The mains and the deliveries -/

theorem setPtu_notice (s : State) (ph : Phase) (u : Ptu) : NoticeKept s (setPtu s ph u) := noticeKept_of_eq rfl rfl

theorem laneFirstBoundary_notice (ph : Phase) (s : State) : NoticeKept s (laneFirstBoundary ph s) :=
  ((noticeKept_ite (settleLane_work ph s).notice).trans (tell_notice [ph] _)).trans (noticeKept_of_eq rfl rfl)

theorem crossingLocking_notice (ph : Phase) (s : State) : NoticeKept s (crossingLocking ph s) := by
  unfold crossingLocking
  dsimp only
  split
  · exact ((setPtu_notice s ph _).trans (raise_work _ _).notice).trans (laneFirstBoundary_notice ph _)
  · exact setPtu_notice s ph _

theorem crossing_notice (ph : Phase) (s : State) : ∃ r, exec (.crossing ph) s = .next (transmit r) ∧ NoticeKept s r := by
  refine ⟨_, rfl, ?_⟩
  split
  · exact crossingLocking_notice ph s
  · exact (setPtu_notice s ph _).trans (tell_notice _ _)
  · exact (setPtu_notice s ph _).trans (tell_notice _ _)
  · exact (setPtu_notice s ph (crossLost s.now (ptuOf s ph))).trans (laneSeen_work ph _).notice

theorem phaseLost_notice (ph : Phase) (time : Nat) (s : State) : NoticeKept s (phaseLost ph time s) :=
  ((setPtu_notice s ph _).trans (raise_work .phaseLost _).notice).trans
    (NoticeKept.after ((laneLoss_work ph time _).trans (tell_work _ _)).notice rfl rfl)

theorem takeMiss_notice (ph : Phase) (s : State) : NoticeKept s (takeMiss ph s) := by
  unfold takeMiss
  dsimp only
  have hraised := fun c => (setPtu_notice s ph (takeMissTest (ptuOf s ph))).trans (raiseIf_work c .gridCoast _).notice
  split
  · exact setPtu_notice s ph _
  · split
    · exact (hraised _).trans (phaseLost_notice ph _ _)
    · exact (hraised _).trans (tell_notice _ _)

theorem measure_notice (ph : Phase) (ended : EndedHalf) (s : State) : NoticeKept s (measure ph ended s) :=
  (measure_work ph ended s).notice.after rfl rfl

theorem takeBoundary_notice (ph : Phase) (mf : Bool) (o : ReportOrder) (s : State) :
    NoticeKept s (takeBoundary ph mf o s) := by
  have hstart := fun t => noticeKept_of_eq (s := t) (t := reportStart ph t) rfl rfl
  cases mf with
  | true =>
    exact (((setPtu_notice s ph _).trans (measure_notice ph _ _)).trans (laneBoundary_side ..).notice).trans (hstart _)
  | false =>
    exact (((setPtu_notice s ph _).trans (laneBoundary_side ..).notice).trans (measure_notice ph _ _)).trans (hstart _)

theorem takeWindow_notice (ph : Phase) (s : State) : NoticeKept s (takeWindow ph s) := by
  unfold takeWindow
  dsimp only
  split
  · exact .refl s
  · unfold driveWindow
    dsimp only
    split <;> exact noticeKept_of_eq rfl rfl

theorem clockEvent_notice (s : State) : NoticeKept s (clockEvent s) := by
  have happlied : NoticeKept s (secondApplied s) := (commitRecords_notice _ s).trans (noticeKept_of_eq rfl rfl)
  rw [clockEvent_eq]
  split
  · exact happlied
  · exact happlied.trans (tell_notice _ _)

theorem secondTick_notice (s : State) : NoticeKept s (secondTick s) := (clockEvent_notice _).after rfl rfl

theorem tick_notice (s : State) : ∃ r, exec .referenceTick s = .next (transmit r) ∧ NoticeKept s r := by
  refine ⟨_, rfl, ?_⟩
  split
  · exact secondTick_notice s
  · exact noticeKept_of_eq rfl rfl

theorem passNotBefore_notice (r : Record) (unit : Nat) (s : State) : NoticeKept s (passNotBefore r unit s) :=
  (commitRecords_notice _ s).trans (tell_notice _ _)

theorem abortRequestTaken_notice (q : AbortRequest) (s : State) : NoticeKept s (abortRequestTaken q s) :=
  NoticeKept.after (s' := { s with abortRequests := s.abortRequests.erase q })
    ((takeAbortRequest_work q _).trans (tell_work _ _)).notice rfl rfl

/-! ### Requests, owner by owner -/

theorem serveSubmit_notice (f : SubmitFields) (s : State) : NoticeKept s (serveSubmit f s).1 := by
  unfold serveSubmit
  split
  · exact .refl s
  · have hadmitted : ∀ r, NoticeKept s (admitted r s) := fun r =>
      (commitRecords_notice (s.records ++ [admittedRecord s r]) s).trans (noticeKept_of_eq rfl rfl)
    show NoticeKept s (admitNew _ s)
    rw [admitNew_eq]
    split
    · exact (hadmitted _).trans (tell_notice _ _)
    · exact hadmitted _

theorem serveCancel_notice (id : BitVec 32) (s : State) : NoticeKept s (serveCancel id s).1 := by
  unfold serveCancel
  have hput : ∀ r, NoticeKept s (tell allPhases (putRecord r s)) := fun r =>
    (commitRecords_notice _ s).trans (tell_notice _ _)
  split
  · exact .refl s
  · split
    · exact hput _
    · exact hput _
    · exact hput _
    · exact .refl s
    · exact .refl s

theorem serveAdjust_notice (id : BitVec 32) (priority options : Byte) (s : State) :
    NoticeKept s (serveAdjust id priority options s).1 := by
  unfold serveAdjust
  split
  · exact .refl s
  · split
    · exact .refl s
    · dsimp only
      split
      · exact (commitRecords_notice _ s).trans (tell_notice _ _)
      · exact commitRecords_notice _ s

theorem serveCollect_notice (id : BitVec 32) (cls : Byte) (start : BitVec 16) (options : Byte) (s : State) :
    NoticeKept s (serveCollect id cls start options s).1 := by
  unfold serveCollect
  split
  · exact .refl s
  · split
    · exact .refl s
    · split
      · exact .refl s
      · split
        · exact .refl s
        · exact noticeKept_ite (noticeKept_of_eq rfl rfl)

theorem serveRestart_notice (s : State) : NoticeKept s (serveRestart s).1 := by
  rw [serveRestart_eq]
  exact (tell_notice allPhases (restarted s)).after rfl rfl

theorem serveUnitWrite_notice (f : UnitWriteFields) (s : State) : NoticeKept s (serveUnitWrite f s).1 := by
  unfold serveUnitWrite
  split
  · exact .refl s
  · exact .refl s
  · exact .refl s
  · exact .refl s
  · exact .refl s
  · exact noticeKept_of_eq rfl rfl

theorem serveDiscoveryRead_notice (option : Byte) (s : State) : NoticeKept s (serveDiscoveryRead option s).1 := by
  unfold serveDiscoveryRead
  split
  · exact .refl s
  · exact noticeKept_ite (noticeKept_of_eq rfl rfl)

theorem serveProfileWrite_notice (mask : BitVec 16) (values : List Byte) (s : State) :
    NoticeKept s (serveProfileWrite mask values s).1 := by
  unfold serveProfileWrite
  split
  · exact .refl s
  · dsimp only
    split
    · exact .refl s
    · exact (tell_notice _ _).after rfl rfl

theorem serveClockSet_notice (seconds : BitVec 32) (s : State) : NoticeKept s (serveClockSet seconds s).1 := by
  unfold serveClockSet
  split
  · exact .refl s
  · exact (clockEvent_notice _).after rfl rfl

theorem serveLaneControl_notice (mask action : Byte) (s : State) : NoticeKept s (serveLaneControl mask action s).1 := by
  unfold serveLaneControl
  have hdone : ∀ (act : State → Phase → State), (∀ s ph, LaneWork s (act s ph)) → ∀ asked,
      NoticeKept s (tell asked ((maskLanes mask).foldl act s)) := fun act ha asked =>
    ((LaneWork.foldl act ha _ s).trans (tell_work _ _)).notice
  split
  · exact .refl s
  · dsimp only
    split
    · exact hdone _ stopLane_work _
    · split
      · exact hdone _ pauseLane_work _
      · split
        · exact hdone _ resumeLane_work _
        · exact .refl s

/-- STATUS clears the flags and owes no NOTICE (R157). -/
theorem serveStatus_notice (option : Byte) (s : State) : NoticeKept s (serveStatus option s).1 := by
  unfold serveStatus
  split
  · exact .refl s
  · exact ⟨rfl, fun _ hd => nomatch hd⟩

/-- MASK WRITE owes a NOTICE just where the new mask leaves a set flag unmasked (R158, R162). -/
theorem serveMaskWrite_notice (mask : BitVec 16) (s : State) : NoticeKept s (serveMaskWrite mask s).1 := by
  unfold serveMaskWrite
  split
  · exact .refl s
  · exact ⟨rfl, fun _ hd => (bne_iff_ne (a := s.events.flags &&& mask.extractLsb' 0 12)).1 hd⟩

theorem serve_notice (rq : Request) (s : State) : NoticeKept s (serve rq s).1 := by
  cases rq with
  | submit f => exact serveSubmit_notice f s
  | cancel id => exact serveCancel_notice id s
  | adjust id priority options => exact serveAdjust_notice id priority options s
  | collect id cls start options => exact serveCollect_notice id cls start options s
  | restart => exact serveRestart_notice s
  | unitWrite f => exact serveUnitWrite_notice f s
  | unitRead form start count address =>
    have h : (serve (.unitRead form start count address) s).1 = s := serveUnitRead_state form start count address s
    rw [h]
    exact .refl s
  | discoveryRead option => exact serveDiscoveryRead_notice option s
  | profileWrite mask values => exact serveProfileWrite_notice mask values s
  | profileRead => exact .refl s
  | clockSet seconds => exact serveClockSet_notice seconds s
  | laneControl mask action => exact serveLaneControl_notice mask action s
  | status option => exact serveStatus_notice option s
  | maskWrite mask => exact serveMaskWrite_notice mask s

/-! ### The transmitter and the response queue (R150, R151) -/

/-- Once the transmitter has chosen it has nothing more to choose. -/
@[simp] theorem transmit_transmit (s : State) : transmit (transmit s) = transmit s := by
  by_cases htx : s.uli.tx = .free
  · cases hr : s.uli.responses with
    | cons f fs =>
      rw [transmit_response htx hr]
      exact transmit_busy nofun
    | nil =>
      cases hd : s.uli.noticeDue with
      | true =>
        rw [transmit_notice htx hr hd]
        exact transmit_busy nofun
      | false => rw [transmit_idle hr hd, transmit_idle hr hd]
  · rw [transmit_busy htx, transmit_busy htx]

theorem transmit_uplinkOk {s : State} (hs : s.uplinkOk) : (transmit s).uplinkOk := by
  obtain ⟨hlength, hslot, hsending, hnotice⟩ := hs
  refine ⟨?_, ?_, transmit_sendingOldest hsending, fun hd => ?_⟩
  · rw [transmit_frame]
    exact hlength
  · rw [transmit_frame]
    exact hslot
  · unfold reportable
    rw [transmit_events]
    exact hnotice (transmit_due hd)

/-- The state with a response at the newest end of the queue (R150), the transmitter not yet asked. -/
def queued (f : Frame) (s : State) : State := { s with uli := { s.uli with responses := s.uli.responses ++ [f] } }

/-- After a response has entered the queue the transmitter chooses, or a NOTICE that was owed already starts first
(log 10). -/
theorem respond_cases (f : Frame) (s : State) : ∃ d,
    respond f s = transmit { queued f s with draws := d } ∨
      (s.uli.noticeDue = true ∧ respond f s = startNotice { queued f s with draws := d }) := by
  by_cases htx : s.uli.tx = .free
  · by_cases hd : (s.uli.noticeDue && s.uli.responses.isEmpty) = true
    · refine ⟨s.draws + 1, ?_⟩
      by_cases hfirst : Config.noticeFirst s.draws = true
      · refine .inr ⟨(Bool.and_eq_true_iff.1 hd).1, ?_⟩
        simp only [respond, queued, htx, hd, hfirst, ↓reduceIte]
      · refine .inl ?_
        simp only [respond, queued, htx, hd, hfirst, Bool.false_eq_true, ↓reduceIte]
    · refine ⟨s.draws, .inl ?_⟩
      simp only [respond, queued, htx, hd, Bool.false_eq_true, ↓reduceIte]
  · refine ⟨s.draws, .inl ?_⟩
    rw [respond_busy htx, transmit_busy (s := { queued f s with draws := s.draws }) htx]
    rfl

/-- A response marks no NOTICE due. -/
theorem respond_due {f : Frame} {s : State} (h : (respond f s).uli.noticeDue = true) : s.uli.noticeDue = true := by
  obtain ⟨d, hr | ⟨hd, -⟩⟩ := respond_cases f s
  · rw [hr] at h
    exact transmit_due (s := { queued f s with draws := d }) h
  · exact hd

/-- A response that finds room keeps the invariant: the oldest response stays the oldest. -/
theorem respond_uplinkOk {f : Frame} {s : State} (hs : s.uplinkOk) (hroom : s.uli.responses.length < 4) :
    (respond f s).uplinkOk := by
  have hnone := hs.slot_none hroom
  obtain ⟨-, -, hsending, hnotice⟩ := hs
  have hqueued : ∀ d, ({ queued f s with draws := d } : State).uplinkOk := fun d => by
    refine ⟨?_, fun h => absurd hnone h, fun g n hg => ?_, hnotice⟩
    · show (s.uli.responses ++ [f]).length ≤ 4
      rw [List.length_append, List.length_singleton]
      omega
    · show (s.uli.responses ++ [f]).head? = some g
      rw [List.head?_append, hsending g n hg]
      rfl
  obtain ⟨d, hr | ⟨-, hr⟩⟩ := respond_cases f s
  · rw [hr]
    exact transmit_uplinkOk (hqueued d)
  · obtain ⟨hlength, hslot, -, -⟩ := hqueued d
    rw [hr]
    exact ⟨hlength, hslot, nofun, nofun⟩

/-! ### Intake (R148, R149) -/

theorem perform_uplinkOk {tag : Byte} {rq : Request} {s : State} (hs : s.uplinkOk)
    (hroom : s.uli.responses.length < 4) : (perform tag rq s).uplinkOk := by
  refine respond_uplinkOk ((serve_notice rq _).uplinkOk (transmit_uplinkOk hs)) ?_
  rw [(serve_notice rq _).uli, transmit_frame]
  exact hroom

theorem takeFrame_uplinkOk {f : Frame} {s : State} (hs : s.uplinkOk) (hroom : s.uli.responses.length < 4) :
    (takeFrame f s).uplinkOk := by
  have hsent : (transmit s).uli.responses.length < 4 := by
    rw [transmit_frame]
    exact hroom
  unfold takeFrame
  split
  · exact perform_uplinkOk hs hroom
  · exact respond_uplinkOk (transmit_uplinkOk hs) hsent
  · exact respond_uplinkOk (transmit_uplinkOk hs) hsent

/-- A frame goes into the slot only where the queue is full. -/
theorem holdFrame_uplinkOk {f : Frame} {s : State} (hs : s.uplinkOk) (hfull : 4 ≤ s.uli.responses.length) :
    (holdFrame f s).uplinkOk := by
  unfold holdFrame
  split
  · obtain ⟨hlength, -, hsending, hnotice⟩ := hs
    exact ⟨hlength, fun _ => Nat.le_antisymm hlength hfull, hsending, hnotice⟩
  · exact transmit_uplinkOk ((raise_work _ s).notice.uplinkOk hs)

theorem hasRoom_iff (s : State) : hasRoom s = true ↔ s.uli.responses.length < 4 := decide_eq_true_iff

theorem intakeFrame_uplinkOk {f : Frame} {s : State} (hs : s.uplinkOk) : (intakeFrame f s).uplinkOk := by
  unfold intakeFrame
  split
  · exact takeFrame_uplinkOk hs ((hasRoom_iff s).1 ‹_›)
  · exact holdFrame_uplinkOk hs (Nat.not_lt.1 fun h => ‹¬_› ((hasRoom_iff s).2 h))

theorem intakeRequest_uplinkOk {tag : Byte} {rq : Request} {s : State} (hs : s.uplinkOk) :
    (intakeRequest tag rq s).uplinkOk := by
  unfold intakeRequest
  split
  · exact perform_uplinkOk hs ((hasRoom_iff s).1 ‹_›)
  · exact holdFrame_uplinkOk hs (Nat.not_lt.1 fun h => ‹¬_› ((hasRoom_iff s).2 h))

/-- The state with the waiting slot empty. -/
def slotEmptied (s : State) : State := { s with uli := { s.uli with slot := none } }

/-- The slot's frame is taken as soon as there is room, so it is enough that the invariant holds but for the slot. -/
theorem takeSlot_uplinkOk {s : State} (hs : (slotEmptied s).uplinkOk) : (takeSlot s).uplinkOk := by
  obtain ⟨hlength, -, hsending, hnotice⟩ := id hs
  unfold takeSlot
  split
  · rename_i hslot
    exact ⟨hlength, fun h => absurd hslot h, hsending, hnotice⟩
  · split
    · exact takeFrame_uplinkOk hs ((hasRoom_iff s).1 ‹_›)
    · have hfull : ¬s.uli.responses.length < 4 := fun h => ‹¬_› ((hasRoom_iff s).2 h)
      exact ⟨hlength, fun _ => Nat.le_antisymm hlength (Nat.not_lt.1 hfull), hsending, hnotice⟩

theorem State.uplinkOk.slotEmptied {s : State} (hs : s.uplinkOk) : (slotEmptied s).uplinkOk := by
  obtain ⟨hlength, -, hsending, hnotice⟩ := hs
  exact ⟨hlength, fun h => absurd rfl h, hsending, hnotice⟩

/-! ### The receiver and the end of a frame (R144 to R147, R152) -/

theorem huntAgain_uplinkOk {s : State} (hs : s.uplinkOk) : (huntAgain s).uplinkOk := hs

theorem receiving_uplinkOk {s : State} (st : RxState) (p : PartialFrame) (hs : s.uplinkOk) :
    (receiving st p s).uplinkOk := hs

theorem discardFrame_uplinkOk {s : State} (hs : s.uplinkOk) : (discardFrame s).uplinkOk :=
  transmit_uplinkOk ((raise_work _ _).notice.uplinkOk (huntAgain_uplinkOk hs))

theorem checkFrame_uplinkOk {length : Byte} {body : List Byte} {crc1 crc2 : Byte} {s : State} (hs : s.uplinkOk) :
    (checkFrame length body crc1 crc2 s).uplinkOk := by
  unfold checkFrame
  split
  · exact intakeFrame_uplinkOk (huntAgain_uplinkOk hs)
  · exact discardFrame_uplinkOk hs

theorem takeByte_uplinkOk {b : Byte} {s : State} (hs : s.uplinkOk) : (takeByte b s).uplinkOk := by
  unfold takeByte
  split
  · split
    · exact receiving_uplinkOk _ _ hs
    · exact hs
  · split
    · exact receiving_uplinkOk _ _ hs
    · exact discardFrame_uplinkOk hs
  · dsimp only
    split
    · exact receiving_uplinkOk _ _ hs
    · exact receiving_uplinkOk _ _ hs
  · split
    · exact receiving_uplinkOk _ _ hs
    · exact checkFrame_uplinkOk hs
  · exact huntAgain_uplinkOk hs
  · exact huntAgain_uplinkOk hs
  · exact huntAgain_uplinkOk hs

theorem takeFault_uplinkOk {s : State} (hs : s.uplinkOk) : (takeFault s).uplinkOk := by
  unfold takeFault
  split
  · exact hs
  · exact discardFrame_uplinkOk hs
  · exact discardFrame_uplinkOk hs
  · exact discardFrame_uplinkOk hs

/-- A response that leaves the queue makes room, and the slot's frame is taken in the same step (log 7). -/
theorem frameSent_uplinkOk {s : State} (hs : s.uplinkOk) : (frameSent s).uplinkOk := by
  obtain ⟨hlength, hslot, -, hnotice⟩ := id hs
  unfold frameSent
  split
  · exact hs
  · exact transmit_uplinkOk ⟨hlength, hslot, nofun, hnotice⟩
  · refine transmit_uplinkOk (takeSlot_uplinkOk ⟨?_, fun h => absurd rfl h, nofun, hnotice⟩)
    show s.uli.responses.tail.length ≤ 4
    rw [List.length_tail]
    omega

/-! ### Every command -/

/-- The invariant after a command that leaves of the uplink all but notice-due and the transmitter's choice. -/
theorem uplinkOk_of_notice {c : Instr} {s r : State} (hs : s.uplinkOk) (hc : exec c s = .next (transmit r))
    (h : NoticeKept s r) : ∃ t, exec c s = .next t ∧ t.uplinkOk := ⟨_, hc, transmit_uplinkOk (h.uplinkOk hs)⟩

/-- The same for the commands on the uplink's wires. -/
theorem exec_wires_uplinkOk {c : Instr} {s : State} (hs : s.uplinkOk) (hc : KeptByUplink.takes c = true)
    (hrq : requestOf c = none) : ∃ t, exec c s = .next t ∧ t.uplinkOk := by
  cases c with
  | receivedByte byte fault =>
    refine ⟨_, rfl, transmit_uplinkOk ?_⟩
    split
    · exact takeFault_uplinkOk hs
    · exact takeByte_uplinkOk hs
  | interByteTimeout =>
    refine ⟨_, rfl, transmit_uplinkOk ?_⟩
    split
    · exact discardFrame_uplinkOk hs
    · exact hs
  | transmitterFree =>
    refine ⟨_, rfl, transmit_uplinkOk ?_⟩
    split
    · exact frameSent_uplinkOk hs
    · exact hs
  | waitingSlotTaken => exact ⟨_, rfl, transmit_uplinkOk (takeSlot_uplinkOk hs.slotEmptied)⟩
  | badKind kind tag content => exact ⟨_, rfl, transmit_uplinkOk (intakeFrame_uplinkOk hs)⟩
  | _ => simp [KeptByUplink.takes, hrq] at hc

theorem exec_uplinkOk (c : Instr) (s : State) (hs : s.uplinkOk) : ∃ t, exec c s = .next t ∧ t.uplinkOk := by
  by_cases hup : KeptByUplink.takes c = true
  · cases hrq : requestOf c with
    | some p => exact ⟨_, exec_of_requestOf hrq s, transmit_uplinkOk (intakeRequest_uplinkOk hs)⟩
    | none => exact exec_wires_uplinkOk hs hup hrq
  cases c with
  | deviceReset fsel baud => exact ⟨_, rfl, Nat.zero_le _, fun h => absurd rfl h, nofun, fun _ => (by decide : (1 : BitVec 12) &&& 1 ≠ 0)⟩
  | crossing ph =>
    obtain ⟨r, hexec, hkept⟩ := crossing_notice ph s
    exact uplinkOk_of_notice hs hexec hkept
  | missTest ph => exact uplinkOk_of_notice hs rfl (noticeKept_ite (takeMiss_notice ph s))
  | halfCycleBoundary ph mf o => exact uplinkOk_of_notice hs rfl (noticeKept_ite (takeBoundary_notice ph mf o s))
  | windowBoundary ph => exact uplinkOk_of_notice hs rfl (noticeKept_ite (takeWindow_notice ph s))
  | windowSample ph rxd cd lq => exact uplinkOk_of_notice hs rfl (noticeKept_ite (setPtu_notice s ph _))
  | secondEvent => exact uplinkOk_of_notice hs rfl (noticeKept_ite (secondTick_notice s))
  | referenceTick =>
    obtain ⟨r, hexec, hkept⟩ := tick_notice s
    exact uplinkOk_of_notice hs hexec hkept
  | notBeforeTimePasses id unit =>
    refine uplinkOk_of_notice hs rfl ?_
    split
    · exact .refl s
    · exact noticeKept_ite (passNotBefore_notice _ unit s)
  | endReport which => exact uplinkOk_of_notice hs rfl (takeQueueReport_work which s).toLaneSide.notice
  | learningReport which => exact uplinkOk_of_notice hs rfl (takeTableReport_side which s).notice
  | abortRequest lane =>
    refine uplinkOk_of_notice hs rfl ?_
    split
    · exact .refl s
    · exact abortRequestTaken_notice _ s
  | _ => exact absurd rfl hup

/-- Settles O12: every command keeps the invariant, so every step does. -/
theorem noticeOwedOnlyForReportableFlag : Obligations.NoticeOwedOnlyForReportableFlag := fun _ _ hs h =>
  step_keeps (P := State.uplinkOk) (fun _ _ => id) exec_uplinkOk hs h

end Sys2Proof.Machine

/-! ## The frames of the wire and of requests (R144, R149, R173, R175): O57

A field written as bytes reads as itself again, so that each form of content does. -/

namespace Sys2Proof.Machine

open Sys2Proof.Claims

/-! ### Fields and bytes -/

theorem word2_field2 (x : BitVec 16) : word2 (x.extractLsb' 8 8) (x.extractLsb' 0 8) = x := by
  unfold word2
  ext i hi
  simp only [BitVec.getElem_append, BitVec.getElem_extractLsb']
  split
  · simp [BitVec.getLsbD_eq_getElem hi]
  · rw [show 8 + (i - 8) = i by omega, BitVec.getLsbD_eq_getElem hi]

theorem word4_field4 (x : BitVec 32) :
    word4 (x.extractLsb' 24 8) (x.extractLsb' 16 8) (x.extractLsb' 8 8) (x.extractLsb' 0 8) = x := by
  unfold word4
  ext i hi
  simp only [BitVec.getElem_append, BitVec.getElem_extractLsb']
  grind

theorem pairs16_flatMap : ∀ xs : List (BitVec 16), pairs16 (xs.flatMap field2) = xs
  | [] => rfl
  | x :: xs => by
    rw [List.flatMap_cons]
    show word2 _ _ :: pairs16 (xs.flatMap field2) = _
    rw [word2_field2, pairs16_flatMap xs]

/-! ### Each request's content read back -/

theorem readSubmit_content {f : SubmitFields} (h : f.payload.length ≤ 214) :
    readSubmit (requestContent (.submit f)) = some (.submit f) := by
  have hlength : f.payload.length = (BitVec.ofNat 8 f.payload.length).toNat := (byteOf_toNat (by omega)).symm
  show (if f.payload.length = (BitVec.ofNat 8 f.payload.length).toNat then some (Request.submit
    { f with id := word4 _ _ _ _, target := word4 _ _ _ _, release := word4 _ _ _ _, deadline := word4 _ _ _ _ })
    else none) = _
  rw [if_pos hlength]
  simp only [word4_field4]

theorem readUnitWrite_content {f : UnitWriteFields} (h : 12 + 2 * f.route.length + f.groups.length ≤ 238) :
    readUnitWrite (requestContent (.unitWrite f)) = some (.unitWrite f) := by
  have hroutes : (BitVec.ofNat 8 f.route.length).toNat = f.route.length := byteOf_toNat (by omega)
  have hgroups : (BitVec.ofNat 8 f.groups.length).toNat = f.groups.length := byteOf_toNat (by omega)
  have hflat : (f.route.flatMap field2).length = 2 * f.route.length := Laws.length_flatMap_field2 f.route
  show (if (f.route.flatMap field2 ++ f.groups).length =
      2 * (BitVec.ofNat 8 f.route.length).toNat + (BitVec.ofNat 8 f.groups.length).toNat then some (Request.unitWrite
    { index := word2 _ _, state := f.state, address := word4 _ _ _ _, phase := f.phase, successor := word2 _ _
      route := pairs16 ((f.route.flatMap field2 ++ f.groups).take (2 * (BitVec.ofNat 8 f.route.length).toNat))
      groups := (f.route.flatMap field2 ++ f.groups).drop (2 * (BitVec.ofNat 8 f.route.length).toNat) }) else none) = _
  rw [hroutes, hgroups, if_pos (by rw [List.length_append, hflat]), ← hflat, List.take_left, List.drop_left,
    pairs16_flatMap, word2_field2, word2_field2, word4_field4]

theorem readProfileWrite_content {mask : BitVec 16} {values : List Byte} (h : values.length = namedSettings mask) :
    readProfileWrite (requestContent (.profileWrite mask values)) = some (.profileWrite mask values) := by
  show (if values.length = namedSettings (word2 _ _) then some (Request.profileWrite (word2 _ _) values) else none) = _
  rw [word2_field2, if_pos h]

theorem parse_unitRead (tag form count : Byte) (start : BitVec 16) (address : Address) :
    parseFrame (requestFrame tag (.unitRead form start count address)) = .request (.unitRead form start count address) := by
  show orBadLength (some (Request.unitRead form (word2 _ _) count (word4 _ _ _ _))) = _
  rw [word2_field2, word4_field4]
  rfl

theorem parse_laneControl (tag mask action : Byte) :
    parseFrame (requestFrame tag (.laneControl mask action)) = .request (.laneControl mask action) := rfl

/-- A well-formed command's request is read back from its frame, kind by kind. -/
theorem parse_requestFrame {c : Instr} {tag : Byte} {rq : Request} (hw : c.wellFormed = true)
    (hc : requestOf c = some (tag, rq)) : parseFrame (requestFrame tag rq) = .request rq := by
  cases c <;> cases hc
  case submit f =>
    have hfits : f.payload.length ≤ 214 := by simpa [Instr.wellFormed, SubmitFields.fits] using hw
    show orBadLength (readSubmit (requestContent (.submit f))) = _
    rw [readSubmit_content hfits]
    rfl
  case unitWrite f =>
    have hfits : 12 + 2 * f.route.length + f.groups.length ≤ 238 := by
      simpa [Instr.wellFormed, UnitWriteFields.fits] using hw
    show orBadLength (readUnitWrite (requestContent (.unitWrite f))) = _
    rw [readUnitWrite_content hfits]
    rfl
  case profileWrite mask values =>
    have hfits : values.length = namedSettings mask := by simpa [Instr.wellFormed] using hw
    show orBadLength (readProfileWrite (requestContent (.profileWrite mask values))) = _
    rw [readProfileWrite_content hfits]
    rfl
  case unitReadByIndex start count => exact parse_unitRead tag 0 count start 0
  case unitReadByAddress address => exact parse_unitRead tag 1 0 0 address
  case cancel id =>
    show orBadLength (some (Request.cancel (word4 _ _ _ _))) = _
    rw [word4_field4]
    rfl
  case adjust id priority options =>
    show orBadLength (some (Request.adjust (word4 _ _ _ _) priority options)) = _
    rw [word4_field4]
    rfl
  case collect id cls start options =>
    show orBadLength (some (Request.collect (word4 _ _ _ _) cls (word2 _ _) options)) = _
    rw [word4_field4, word2_field2]
    rfl
  case clockSet seconds =>
    show orBadLength (some (Request.clockSet (word4 _ _ _ _))) = _
    rw [word4_field4]
    rfl
  case maskWrite mask =>
    show Parsed.request (.maskWrite (word2 _ _)) = _
    rw [word2_field2]
  all_goals rfl

/-- Settles O57: each kind is told apart by its byte, and its content read field by field. -/
theorem requestFramesReadBack : Obligations.RequestFramesReadBack :=
  ⟨fun _ _ _ => parse_requestFrame, parse_unitRead, parse_laneControl⟩

end Sys2Proof.Machine

/-! ## The receiver byte by byte, and frames lost (R144 to R147): O52, O53 -/

namespace Sys2Proof.Machine

open Sys2Proof.Claims

/-! ### One byte (R144, R146) -/

theorem exec_receivedByte (b : Byte) (s : State) : exec (.receivedByte b false) s = .next (transmit (takeByte b s)) := rfl

theorem exec_framingFault (b : Byte) (s : State) : exec (.receivedByte b true) s = .next (transmit (takeFault s)) := rfl

theorem takeByte_start {s : State} (hrx : s.uli.rx = .hunting) :
    takeByte 0x5A s = receiving .length { length := none, body := [], crc := [], lastAt := s.now } s := by
  simp only [takeByte, hrx, ↓reduceIte]

theorem takeByte_noise {s : State} {b : Byte} (hrx : s.uli.rx = .hunting) (hb : b ≠ 0x5A) : takeByte b s = s := by
  simp only [takeByte, hrx, hb, ↓reduceIte]

theorem takeFault_hunting {s : State} (hrx : s.uli.rx = .hunting) : takeFault s = s := by
  simp only [takeFault, hrx]

theorem takeFault_receiving {s : State} (hrx : s.uli.rx ≠ .hunting) : takeFault s = discardFrame s := by
  unfold takeFault
  split
  · exact absurd ‹s.uli.rx = .hunting› hrx
  all_goals rfl

section

variable {s : State} {p : PartialFrame} (hp : s.uli.partialFrame = some p)

include hp

theorem takeByte_length {b : Byte} (hrx : s.uli.rx = .length) (hb : 2 ≤ b.toNat ∧ b.toNat ≤ 240) :
    takeByte b s = receiving .body { p with length := some b, lastAt := s.now } s := by
  simp only [takeByte, hrx, hp, hb, and_self, ↓reduceIte]

theorem takeByte_badLength {b : Byte} (hrx : s.uli.rx = .length) (hb : b.toNat < 2 ∨ 240 < b.toNat) :
    takeByte b s = discardFrame s := by
  have hout : ¬(2 ≤ b.toNat ∧ b.toNat ≤ 240) := by omega
  simp only [takeByte, hrx, hp, hout, ↓reduceIte]

theorem takeByte_bodyEnds {b len : Byte} (hrx : s.uli.rx = .body) (hlen : p.length = some len)
    (h : p.body.length + 1 = len.toNat) :
    takeByte b s = receiving .crc { p with body := p.body ++ [b], lastAt := s.now } s := by
  simp only [takeByte, hrx, hp, hlen, Option.getD_some, List.length_append, List.length_singleton, h, ↓reduceIte]

theorem takeByte_body {b len : Byte} (hrx : s.uli.rx = .body) (hlen : p.length = some len)
    (h : p.body.length + 1 ≠ len.toNat) :
    takeByte b s = receiving .body { p with body := p.body ++ [b], lastAt := s.now } s := by
  simp only [takeByte, hrx, hp, hlen, Option.getD_some, List.length_append, List.length_singleton, h, ↓reduceIte]

theorem takeByte_crc1 {b : Byte} (hrx : s.uli.rx = .crc) (hcrc : p.crc = []) :
    takeByte b s = receiving .crc { p with crc := [b], lastAt := s.now } s := by
  simp only [takeByte, hrx, hp, hcrc]

theorem takeByte_crc2 {b c1 len : Byte} (hrx : s.uli.rx = .crc) (hcrc : p.crc = [c1]) (hlen : p.length = some len) :
    takeByte b s = checkFrame len p.body c1 b s := by
  simp only [takeByte, hrx, hp, hcrc, hlen, Option.getD_some]

theorem timeoutDue_iff (hrx : s.uli.rx ≠ .hunting) : timeoutDue s = true ↔ p.lastAt + 2048 < s.now := by
  unfold timeoutDue
  split
  · exact absurd ‹s.uli.rx = .hunting› hrx
  · rename_i h _
    rw [hp] at h
    cases h
  · rename_i h _
    rw [hp] at h
    cases h
    rw [decide_eq_true_iff]
    omega

end

/-! ### O52 -/

/-- A byte that the receiver takes into the frame in reception changes the receiver alone. -/
theorem receivedByte_takes {b : Byte} {s : State} {st : RxState} {p : PartialFrame}
    (h : takeByte b s = receiving st p s) :
    ∃ u, exec (.receivedByte b false) s = .next { s with uli := u } ∧
      uplinkKept { s.uli with rx := st, partialFrame := some p } u := by
  rw [exec_receivedByte, h, transmit_rest]
  exact ⟨_, rfl, transmit_uplinkKept (receiving st p s)⟩

/-- Settles O52: state by state of the receiver. -/
theorem receiverCountsBytes : Obligations.ReceiverCountsBytes := by
  intro b s takes
  refine ⟨fun hrx hb => ?_, fun hrx hb => ?_, fun hrx => ?_, fun p hp => ⟨fun hrx hlo hhi => ?_,
    fun len hrx hlen => ⟨fun h => ?_, fun h => ?_⟩, fun hrx hcrc => ?_⟩⟩
  · subst hb
    exact receivedByte_takes (takeByte_start hrx)
  · exact becomes_of_transmit (by rw [exec_receivedByte, takeByte_noise hrx hb]) rfl
  · exact becomes_of_transmit (by rw [exec_framingFault, takeFault_hunting hrx]) rfl
  · exact receivedByte_takes (takeByte_length hp hrx ⟨hlo, hhi⟩)
  · exact receivedByte_takes (takeByte_bodyEnds hp hrx hlen h)
  · exact receivedByte_takes (takeByte_body hp hrx hlen h)
  · exact receivedByte_takes (takeByte_crc1 hp hrx hcrc)

/-! ### O53 -/

/-- The transmitter's choice after a change of the flags and the uplink alone. -/
theorem transmit_eventsAndUplink {s r : State} (h : r = { s with events := r.events, uli := r.uli }) :
    transmit r = { s with events := (transmit r).events, uli := (transmit r).uli } := by
  rw [transmit_events]
  generalize hu : (transmit r).uli = u
  rw [transmit_rest r, hu]
  conv_lhs => rw [h]

/-- A flag raised beside a change of the uplink, and then the transmitter's choice. -/
theorem raised_then_transmit (f : Flag) (s : State) (u : Uli) :
    let t := transmit (raise f { s with uli := u })
    flagSet t f = true ∧ t = { s with events := t.events, uli := t.uli } ∧ flagsKept s.events t.events ∧
      t.events.mask = s.events.mask ∧ uplinkFlagged u t.uli := by
  have hwork := raise_work f { s with uli := u }
  refine ⟨by rw [transmit_flagSet, flagSet_raise_self], transmit_eventsAndUplink (raise_frame ..), ?_, ?_,
    uplinkFlagged_transmit hwork.uli⟩
  · rw [transmit_events]
    exact hwork.flags
  · rw [transmit_events]
    exact hwork.mask

theorem exec_discards {c : Instr} {s : State} (h : exec c s = .next (transmit (discardFrame s))) :
    ∃ t, exec c s = .next t ∧ flagSet t .uplinkError = true ∧
      t = { s with events := t.events, uli := t.uli } ∧ flagsKept s.events t.events ∧ t.events.mask = s.events.mask ∧
      uplinkFlagged { s.uli with rx := .hunting, partialFrame := none } t.uli := by
  rw [discardFrame, transmit_transmit] at h
  exact ⟨_, h, raised_then_transmit .uplinkError s _⟩

theorem exec_timeout_due {s : State} (h : timeoutDue s = true) :
    exec .interByteTimeout s = .next (transmit (discardFrame s)) := by
  simp only [exec, execInterByteTimeout, h, ↓reduceIte]

theorem exec_timeout_idle {s : State} (h : timeoutDue s ≠ true) : exec .interByteTimeout s = .next (transmit s) := by
  simp only [exec, execInterByteTimeout, h, Bool.false_eq_true, ↓reduceIte]

/-- A frame whose CRC fails is discarded (R147). -/
theorem checkFrame_bad {len c1 c2 : Byte} {body : List Byte} {s : State} (h : word2 c1 c2 ≠ crcOfBytes (len :: body)) :
    checkFrame len body c1 c2 s = discardFrame s := by
  simp only [checkFrame, h.symm, ↓reduceIte]

/-- Settles O53: each of the four ways ends in the same discard. -/
theorem damagedFrameIsDiscarded : Obligations.DamagedFrameIsDiscarded := by
  intro c s p hp hrx
  refine ⟨fun h => exec_discards ?_, ?_⟩
  · rcases h with ⟨b, rfl⟩ | ⟨b, rfl, hlength, hb⟩ | ⟨b, c1, len, rfl, hstate, hcrc, hlen, hbad⟩ | ⟨rfl, hlate⟩
    · rw [exec_framingFault, takeFault_receiving hrx]
    · rw [exec_receivedByte, takeByte_badLength hp hlength hb]
    · rw [exec_receivedByte, takeByte_crc2 hp hstate hcrc hlen, checkFrame_bad hbad]
    · exact exec_timeout_due ((timeoutDue_iff hp hrx).2 hlate)
  · rintro rfl hearly
    exact becomes_of_transmit (exec_timeout_idle fun hdue => absurd ((timeoutDue_iff hp hrx).1 hdue) (Nat.not_lt.2 hearly)) rfl

end Sys2Proof.Machine

/-! ## Frames kept, taken and sent (R148 to R153): O54, O55 -/

namespace Sys2Proof.Machine

open Sys2Proof.Claims

/-! ### A frame taken (R149, R150) -/

/-- A frame taken is answered with its tag, at the newest end of the queue. -/
theorem takeFrame_answers (g : Frame) (s : State) :
    ∃ answer, answer.tag = g.tag ∧ responseQueued s.uli (transmit (takeFrame g s)).uli answer := by
  unfold takeFrame
  split
  · refine ⟨_, ?_, responseQueued_respond _ (serve_notice _ _).uli⟩
    rfl
  · refine ⟨_, ?_, responseQueued_respond _ rfl⟩
    rfl
  · refine ⟨_, ?_, responseQueued_respond _ rfl⟩
    rfl

theorem takeFrame_requestFrame {c : Instr} {tag : Byte} {rq : Request} (hw : c.wellFormed = true)
    (hc : requestOf c = some (tag, rq)) (s : State) : takeFrame (requestFrame tag rq) s = perform tag rq s := by
  simp only [takeFrame, parse_requestFrame hw hc]
  rfl

theorem intakeFrame_room {g : Frame} {s : State} (h : s.uli.responses.length < 4) : intakeFrame g s = takeFrame g s :=
  if_pos ((hasRoom_iff s).2 h)

theorem intakeFrame_full {g : Frame} {s : State} (h : 4 ≤ s.uli.responses.length) : intakeFrame g s = holdFrame g s :=
  if_neg fun hroom => Nat.not_lt.2 h ((hasRoom_iff s).1 hroom)

theorem intakeRequest_full {tag : Byte} {rq : Request} {s : State} (h : 4 ≤ s.uli.responses.length) :
    intakeRequest tag rq s = holdFrame (requestFrame tag rq) s :=
  if_neg fun hroom => Nat.not_lt.2 h ((hasRoom_iff s).1 hroom)

/-- Where there is room, the command that a frame stands for is the frame taken (log 6). -/
theorem exec_frameRuns {g : Frame} {c : Instr} {s : State} (hg : frameRuns g c) (hroom : s.uli.responses.length < 4) :
    exec c s = .next (transmit (takeFrame g s)) := by
  rcases hg with ⟨hw, tag, rq, hc, rfl⟩ | ⟨rfl, -⟩
  · rw [exec_of_requestOf hc, intakeRequest_room hroom, takeFrame_requestFrame hw hc]
  · show Host.Outcome.next (transmit (intakeFrame g s)) = _
    rw [intakeFrame_room hroom]

/-! ### The waiting slot (R148): O55 -/

theorem holdFrame_empty {g : Frame} {s : State} (h : s.uli.slot = none) :
    holdFrame g s = { s with uli := { s.uli with slot := some g } } := by
  simp only [holdFrame, h]

theorem holdFrame_taken {g g' : Frame} {s : State} (h : s.uli.slot = some g') :
    holdFrame g s = transmit (raise .uplinkError s) := by
  simp only [holdFrame, h]

theorem takeSlot_none {s : State} (h : s.uli.slot = none) : takeSlot s = s := by
  simp only [takeSlot, h]

theorem takeSlot_full {s : State} (h : 4 ≤ s.uli.responses.length) : takeSlot s = s := by
  unfold takeSlot
  split
  · rfl
  · exact if_neg fun hroom => Nat.not_lt.2 h ((hasRoom_iff s).1 hroom)

theorem takeSlot_room {g : Frame} {s : State} (h : s.uli.slot = some g) (hroom : s.uli.responses.length < 4) :
    takeSlot s = takeFrame g (slotEmptied s) := by
  simp only [takeSlot, h, (hasRoom_iff s).2 hroom, ↓reduceIte]
  rfl

/-- A command that takes the waiting frame `g` from a state does what the frame's own command does there with the slot
empty, and adds one response with the frame's tag. -/
theorem takes_waiting {c : Instr} {s r : State} {g : Frame} (hroom : r.uli.responses.length < 4)
    (h : exec c s = .next (transmit (takeFrame g (slotEmptied r)))) :
    (∃ t answer, exec c s = .next t ∧
      t.uli.slot = none ∧ t.uli.responses = r.uli.responses ++ [answer] ∧ answer.tag = g.tag) ∧
      ∀ k, frameRuns g k → exec c s = exec k (slotEmptied r) := by
  obtain ⟨answer, htag, huli, -⟩ := takeFrame_answers g (slotEmptied r)
  refine ⟨⟨_, answer, h, ?_, ?_, htag⟩, fun k hk => ?_⟩
  · rw [huli]
    rfl
  · rw [huli]
    rfl
  · rw [h, exec_frameRuns (s := slotEmptied r) hk hroom]

/-- Settles O55: a full queue holds or loses the frame, and the slot's frame is taken as soon as there is room. -/
theorem fullQueueHoldsOneFrame : Obligations.FullQueueHoldsOneFrame := by
  refine ⟨fun c s tag rq hc hfull => ⟨fun hslot => ?_, fun g hslot => ?_⟩, fun s => ⟨fun h => ?_, fun g hslot hroom => ?_⟩⟩
  · have hexec := exec_of_requestOf hc s
    rw [intakeRequest_full hfull, holdFrame_empty hslot, transmit_rest] at hexec
    exact ⟨_, hexec, transmit_uplinkKept { s with uli := { s.uli with slot := some (requestFrame tag rq) } }⟩
  · have hexec := exec_of_requestOf hc s
    rw [intakeRequest_full hfull, holdFrame_taken hslot, transmit_transmit] at hexec
    obtain ⟨hset, hrest, -, -, hkept⟩ := raised_then_transmit .uplinkError s s.uli
    exact ⟨_, hexec, hset, hrest, hkept⟩
  · refine becomes_of_transmit (r := s) ?_ rfl
    show Host.Outcome.next (transmit (takeSlot s)) = _
    rw [h.elim takeSlot_none takeSlot_full]
  · refine takes_waiting hroom ?_
    rw [← takeSlot_room hslot hroom]
    rfl

/-! ### The last stop bit of a frame (R143, R151 to R153): O54 -/

theorem wireBytes_length (f : Frame) : (wireBytes f).length = f.content.length + 6 := by
  simp only [wireBytes, List.length_cons, List.length_append, Laws.length_field2]

theorem frameBits_length (f : Frame) : (frameBits f).length = (f.content.length + 6) * 10 := by
  have hbits : ∀ b ∈ wireBytes f, (wireBits b).length = 10 := fun _ _ => rfl
  rw [frameBits, List.length_flatMap, List.map_congr_left hbits, List.map_const', List.sum_replicate, wireBytes_length]
  rfl

/-- The last stop bit has been sent once the bits' time at the line rate has passed (log 23). -/
theorem frameDone_iff {s : State} {f : Frame} {since : Nat} (htx : frameInProgress s.uli.tx = some (f, since)) :
    frameDone s = true ↔ (f.content.length + 6) * 10 * 1024000 ≤ (s.now - since) * lineRate s.uli.baud := by
  simp only [frameDone, htx, decide_eq_true_iff, frameBits_length, bitTimes]
  exact Nat.le_div_iff_mul_le (by decide)

theorem exec_transmitterFree_done {s : State} (h : frameDone s = true) :
    exec .transmitterFree s = .next (transmit (frameSent s)) := by
  simp only [exec, execTransmitterFree, h, ↓reduceIte]

theorem exec_transmitterFree_early {s : State} (h : ¬frameDone s = true) :
    exec .transmitterFree s = .next (transmit s) := by
  simp only [exec, execTransmitterFree, h, Bool.false_eq_true, ↓reduceIte]

/-- The transmitter free, with the responses that are then left. -/
def freed (queue : List Frame) (s : State) : State :=
  { s with uli := { s.uli with tx := .free, responses := queue } }

theorem frameSent_notice {s : State} {f : Frame} {since : Nat} (h : s.uli.tx = .notice f since) :
    frameSent s = transmit (freed s.uli.responses s) := by
  simp only [frameSent, h]
  rfl

theorem frameSent_response {s : State} {f : Frame} {since : Nat} (h : s.uli.tx = .response f since) :
    frameSent s = transmit (takeSlot (freed s.uli.responses.tail s)) := by
  simp only [frameSent, h]
  rfl

/-- What a transmitter that has become free makes of the uplink (R151, R153): the oldest response starts, or else a NOTICE
that is owed, or nothing. -/
def startsNext (s : State) (queue : List Frame) (u : Uli) : Prop :=
  u = { s.uli with responses := queue, tx := u.tx, noticeDue := u.noticeDue } ∧
    (∀ g rest, queue = g :: rest → u.tx = .response g s.now ∧ u.noticeDue = s.uli.noticeDue) ∧
    (queue = [] → s.uli.noticeDue = true → u.noticeDue = false ∧
      u.tx = .notice { kind := 0xC0, tag := 0, content := bytes2 (reportable s).toNat } s.now) ∧
    (queue = [] → s.uli.noticeDue = false → u.tx = .free ∧ u.noticeDue = false)

theorem transmit_freed_startsNext (queue : List Frame) (s : State) :
    startsNext s queue (transmit (freed queue s)).uli := by
  refine ⟨by rw [transmit_frame]; rfl, fun g rest hq => ?_, fun hq hd => ?_, fun hq hd => ?_⟩
  · rw [transmit_response (s := freed queue s) rfl hq]
    exact ⟨rfl, rfl⟩
  · rw [transmit_notice (s := freed queue s) rfl hq hd]
    exact ⟨rfl, rfl⟩
  · rw [transmit_idle (s := freed queue s) hq hd]
    exact ⟨rfl, hd⟩

/-- A frame that is done and leaves nothing to take but the transmitter's choice. -/
theorem exec_freed {s : State} {queue : List Frame} (hdone : frameDone s = true)
    (h : frameSent s = transmit (freed queue s)) :
    ∃ u, exec .transmitterFree s = .next { s with uli := u } ∧ startsNext s queue u := by
  rw [exec_transmitterFree_done hdone, h, transmit_transmit, transmit_rest]
  exact ⟨_, rfl, transmit_freed_startsNext queue s⟩

/-- Settles O54: before the last stop bit, at that of a NOTICE, and at that of a response with the slot empty or taken. -/
theorem transmitterFreeStartsNext : Obligations.TransmitterFreeStartsNext := by
  intro s f since bits elapsed next
  refine ⟨fun htx hearly => ?_, fun htx hlate => ?_, fun htx hlate => ⟨fun hslot => ?_, fun g hslot hroom => ?_⟩⟩
  · have hprogress : frameInProgress s.uli.tx = some (f, since) := by rcases htx with h | h <;> rw [h] <;> rfl
    have hbusy : s.uli.tx ≠ .free := fun h => by rw [h] at hprogress; cases hprogress
    rw [exec_transmitterFree_early fun hdone => Nat.not_lt.2 ((frameDone_iff hprogress).1 hdone) hearly, transmit_busy hbusy]
  · exact exec_freed ((frameDone_iff (by rw [htx]; rfl)).2 hlate) (frameSent_notice htx)
  · refine exec_freed ((frameDone_iff (by rw [htx]; rfl)).2 hlate) ?_
    rw [frameSent_response htx, takeSlot_none (s := freed s.uli.responses.tail s) hslot]
  · refine takes_waiting (r := freed s.uli.responses.tail s) hroom ?_
    rw [exec_transmitterFree_done ((frameDone_iff (by rw [htx]; rfl)).2 hlate), frameSent_response htx, transmit_transmit,
      takeSlot_room (s := freed s.uli.responses.tail s) hslot hroom]

end Sys2Proof.Machine

/-! ## Whole frames received byte by byte (R144, R147 to R149): O51, O58 -/

namespace Sys2Proof.Machine

open Sys2Proof.Claims

/-! ### The transmitter's choice beside the receiver and the slot -/

/-- What the receiver holds and what waits in the slot is no matter of the transmitter. -/
theorem transmit_beside (s : State) (rx : RxState) (p : Option PartialFrame) (g : Option Frame) :
    transmit { s with uli := { s.uli with rx, partialFrame := p, slot := g } } =
      { transmit s with uli := { (transmit s).uli with rx, partialFrame := p, slot := g } } := by
  by_cases htx : s.uli.tx = .free
  · cases hr : s.uli.responses with
    | cons f fs =>
      rw [transmit_response (s := { s with uli := { s.uli with rx, partialFrame := p, slot := g } }) htx hr,
        transmit_response htx hr]
      rfl
    | nil =>
      cases hd : s.uli.noticeDue with
      | true =>
        rw [transmit_notice (s := { s with uli := { s.uli with rx, partialFrame := p, slot := g } }) htx hr hd,
          transmit_notice htx hr hd]
        rfl
      | false =>
        rw [transmit_idle (s := { s with uli := { s.uli with rx, partialFrame := p, slot := g } }) hr hd, transmit_idle hr hd]
  · rw [transmit_busy (s := { s with uli := { s.uli with rx, partialFrame := p, slot := g } }) htx, transmit_busy htx]

theorem transmit_receiving (st : RxState) (p : PartialFrame) (s : State) :
    transmit (receiving st p s) = receiving st p (transmit s) := by
  have h := transmit_beside s st (some p) s.uli.slot
  rw [show s.uli.slot = (transmit s).uli.slot by rw [transmit_frame]] at h
  exact (congrArg transmit (by rw [receiving, transmit_frame])).trans h

theorem huntAgain_hunting {s : State} (hrx : s.uli.rx = .hunting) (hp : s.uli.partialFrame = none) : huntAgain s = s := by
  rw [huntAgain, ← hrx, ← hp]

/-- A flag raised changes nothing of which response starts. -/
theorem transmit_raise_transmit {s : State} (f : Flag) (h : s.uli.responses ≠ []) :
    transmit (raise f (transmit s)) = transmit (raise f s) := by
  by_cases htx : s.uli.tx = .free
  · obtain ⟨g, gs, hr⟩ := List.exists_cons_of_ne_nil h
    have huli := (raise_work f s).uli
    have hraise : raise f (startResponse g s) = startResponse g (raise f s) := by
      by_cases hset : flagSet s f = true
      · rw [raise, raise, if_pos hset, if_pos (show flagSet (startResponse g s) f = true from hset)]
      · rw [raise, raise, if_neg hset, if_neg (show ¬flagSet (startResponse g s) f = true from hset)]
        rfl
    rw [transmit_response htx hr, hraise, transmit_busy (s := startResponse g (raise f s)) nofun,
      transmit_response (s := raise f s) (by rw [huli]; exact htx) (by rw [huli]; exact hr)]
  · rw [transmit_busy htx]

/-- Whether the transmitter has chosen before a frame's intake makes no difference to what comes of it. -/
theorem intakeFrame_transmit (g : Frame) (s : State) :
    transmit (intakeFrame g (transmit s)) = transmit (intakeFrame g s) := by
  have hresponses : (transmit s).uli.responses = s.uli.responses := by rw [transmit_frame]
  have hslot : (transmit s).uli.slot = s.uli.slot := by rw [transmit_frame]
  rcases Nat.lt_or_ge s.uli.responses.length 4 with hroom | hfull
  · rw [intakeFrame_room hroom, intakeFrame_room (hresponses ▸ hroom)]
    simp only [takeFrame, perform, transmit_transmit]
  · rw [intakeFrame_full hfull, intakeFrame_full (hresponses ▸ hfull)]
    cases hg : s.uli.slot with
    | none =>
      rw [holdFrame_empty hg, holdFrame_empty (hslot.trans hg)]
      have hs := transmit_beside s s.uli.rx s.uli.partialFrame (some g)
      have ht := transmit_beside (transmit s) (transmit s).uli.rx (transmit s).uli.partialFrame (some g)
      rw [transmit_transmit] at ht
      rw [ht]
      refine Eq.trans ?_ hs.symm
      rw [show (transmit s).uli.rx = s.uli.rx by rw [transmit_frame],
        show (transmit s).uli.partialFrame = s.uli.partialFrame by rw [transmit_frame]]
    | some g' =>
      have hne : s.uli.responses ≠ [] := fun h => by
        rw [h] at hfull
        cases hfull
      rw [holdFrame_taken hg, holdFrame_taken (hslot.trans hg), transmit_transmit, transmit_transmit,
        transmit_raise_transmit _ hne]

/-! ### A frame's bytes one by one -/

theorem receive_cons (b : Byte) (bs : List Byte) (s : State) :
    receive (b :: bs) s = receive bs (transmit (takeByte b s)) := rfl

/-- The frame in reception after its length byte, with the body and CRC bytes received by `time`. -/
def partFrame (len : Byte) (body crc : List Byte) (time : Nat) : PartialFrame :=
  { length := some len, body, crc, lastAt := time }

/-- The rest of a body, received where the transmitter has chosen. -/
theorem receive_body {len : Byte} {more : List Byte} {s : State} (hs : transmit s = s) :
    ∀ (rest body : List Byte), rest ≠ [] → body.length + rest.length = len.toNat →
      receive (rest ++ more) (receiving .body (partFrame len body [] s.now) s) =
        receive more (receiving .crc (partFrame len (body ++ rest) [] s.now) s)
  | [], _, hne, _ => absurd rfl hne
  | [b], body, _, hlen => by
    rw [List.singleton_append, receive_cons, takeByte_bodyEnds (p := partFrame len body [] s.now) rfl rfl rfl hlen]
    show receive more (transmit (receiving .crc (partFrame len (body ++ [b]) [] s.now) s)) = _
    rw [transmit_receiving, hs]
  | b :: b' :: rest, body, _, hlen => by
    rw [List.length_cons] at hlen
    rw [List.cons_append, receive_cons, takeByte_body (p := partFrame len body [] s.now) rfl rfl rfl]
    swap
    · show body.length + 1 ≠ len.toNat
      rw [List.length_cons] at hlen
      omega
    show receive _ (transmit (receiving .body (partFrame len (body ++ [b]) [] s.now) s)) = _
    rw [transmit_receiving, hs, receive_body hs (b' :: rest) (body ++ [b]) (List.cons_ne_nil _ _), List.append_assoc,
      List.singleton_append]
    rw [List.length_append, List.length_singleton]
    omega

/-- A frame whose CRC is right goes to intake (R147). -/
theorem checkFrame_good {len c1 c2 : Byte} {body : List Byte} {s : State} (h : crcOfBytes (len :: body) = word2 c1 c2) :
    checkFrame len body c1 c2 s =
      intakeFrame { kind := body.getD 0 0, tag := body.getD 1 0, content := body.drop 2 } (huntAgain s) := if_pos h

/-- The CRC bytes of a body, the last of which completes the frame (R147). -/
theorem receive_crc {len : Byte} {kind tag : Byte} {content : List Byte} {s : State} (hs : transmit s = s)
    (hrx : s.uli.rx = .hunting) (hp : s.uli.partialFrame = none) :
    receive (field2 (crcOfBytes (len :: kind :: tag :: content)))
        (receiving .crc (partFrame len (kind :: tag :: content) [] s.now) s) =
      .next (transmit (intakeFrame { kind, tag, content } s)) := by
  rw [field2, receive_cons, takeByte_crc1 (p := partFrame len (kind :: tag :: content) [] s.now) rfl rfl rfl]
  show receive _ (transmit (receiving .crc (partFrame len (kind :: tag :: content) [_] s.now) s)) = _
  rw [transmit_receiving, hs, receive_cons,
    takeByte_crc2 (p := partFrame len (kind :: tag :: content) [_] s.now) rfl rfl rfl rfl]
  show Host.Outcome.next (transmit (checkFrame len (kind :: tag :: content) _ _ _)) = _
  rw [checkFrame_good (word2_field2 _).symm]
  show Host.Outcome.next (transmit (intakeFrame { kind, tag, content } (huntAgain s))) = _
  rw [huntAgain_hunting hrx hp]

/-- The bytes of a frame, received by a hunting receiver, take the frame to its intake. -/
theorem receive_wireBytes {f : Frame} {s : State} (hfits : f.content.length ≤ 238) (hrx : s.uli.rx = .hunting)
    (hp : s.uli.partialFrame = none) : receive (wireBytes f) s = .next (transmit (intakeFrame f s)) := by
  have hlen : (byteOf (f.content.length + 2)).toNat = f.content.length + 2 := byteOf_toNat (by omega)
  rw [← intakeFrame_transmit]
  show receive (0x5A :: byteOf (f.content.length + 2) :: (f.kind :: f.tag :: f.content ++ field2 _)) s = _
  rw [receive_cons, takeByte_start hrx, transmit_receiving, receive_cons, ← transmit_now s,
    takeByte_length (p := { length := none, body := [], crc := [], lastAt := (transmit s).now }) rfl rfl (by omega)]
  show receive _ (transmit (receiving .body (partFrame (byteOf (f.content.length + 2)) [] [] (transmit s).now) (transmit s))) = _
  rw [transmit_receiving, transmit_transmit, receive_body (transmit_transmit s) _ _ (List.cons_ne_nil _ _), List.nil_append,
    receive_crc (transmit_transmit s)]
  · rw [transmit_frame]
    exact hrx
  · rw [transmit_frame]
    exact hp
  · rw [hlen]
    simp only [List.length_nil, List.length_cons]
    omega

/-! ### O58 -/

/-- Every well-formed request's content fits its frame's length byte (R144, R173). -/
theorem requestContent_length_le {c : Instr} {tag : Byte} {rq : Request} (hw : c.wellFormed = true)
    (hc : requestOf c = some (tag, rq)) : (requestContent rq).length ≤ 238 := by
  cases c <;> cases hc
  case submit f => exact Laws.FrameFits.submit tag f hw _ _ rfl
  case unitWrite f => exact Laws.FrameFits.unitWrite tag f hw _ _ rfl
  case profileWrite mask values => exact Laws.FrameFits.profileWrite tag mask values hw _ _ rfl
  all_goals exact Laws.frameFits_of_short rfl rfl hw _ _ rfl

theorem intakeFrame_requestFrame {c : Instr} {tag : Byte} {rq : Request} (hw : c.wellFormed = true)
    (hc : requestOf c = some (tag, rq)) (s : State) : intakeFrame (requestFrame tag rq) s = intakeRequest tag rq s := by
  rw [intakeFrame, intakeRequest, takeFrame_requestFrame hw hc]

/-- Settles O58: the bytes take the frame to its intake, where the command starts. -/
theorem receivedFrameBytesRunTheRequest : Obligations.ReceivedFrameBytesRunTheRequest := by
  intro c tag rq s hw hc hrx hp
  rw [receive_wireBytes (requestContent_length_le hw hc) hrx hp, intakeFrame_requestFrame hw hc, exec_of_requestOf hc]

/-! ### Frames that no request reads (R149): O51 -/

theorem parseFrame_unknown {kind tag : Byte} {content : List Byte} (h : kind ∉ requestKinds) :
    parseFrame { kind, tag, content } = .badKind := by
  simp only [requestKinds, List.mem_cons, List.not_mem_nil, or_false, not_or] at h
  simp only [parseFrame, h, ↓reduceIte]

theorem readSubmit_length {content : List Byte} {rq : Request} (h : readSubmit content = some rq) :
    lengthFits 0x01 content := by
  unfold readSubmit at h
  split at h
  · split at h
    · rename_i len payload hlen
      refine ⟨Nat.le_add_left 24 payload.length, ?_⟩
      show payload.length + 24 = 24 + len.toNat
      omega
    · cases h
  · cases h

theorem readUnitWrite_length {content : List Byte} {rq : Request} (h : readUnitWrite content = some rq) :
    lengthFits 0x10 content := by
  unfold readUnitWrite at h
  split at h
  · split at h
    · rename_i routes groups rest hlen
      refine ⟨Nat.le_add_left 12 rest.length, ?_⟩
      show rest.length + 12 = 12 + 2 * routes.toNat + groups.toNat
      omega
    · cases h
  · cases h

theorem readProfileWrite_length {content : List Byte} {rq : Request} (h : readProfileWrite content = some rq) :
    lengthFits 0x20 content := by
  unfold readProfileWrite at h
  split at h
  · split at h
    · rename_i m0 m1 values hlen
      refine ⟨Nat.le_add_left 2 values.length, ?_⟩
      show values.length + 2 = 2 + namedSettings (word2 m0 m1)
      omega
    · cases h
  · cases h

theorem readCancel_length {content : List Byte} {rq : Request} (h : readCancel content = some rq) : content.length = 4 := by
  unfold readCancel at h
  split at h
  · rfl
  · cases h

theorem readAdjust_length {content : List Byte} {rq : Request} (h : readAdjust content = some rq) : content.length = 6 := by
  unfold readAdjust at h
  split at h
  · rfl
  · cases h

theorem readCollect_length {content : List Byte} {rq : Request} (h : readCollect content = some rq) :
    content.length = 8 := by
  unfold readCollect at h
  split at h
  · rfl
  · cases h

theorem readUnitRead_length {content : List Byte} {rq : Request} (h : readUnitRead content = some rq) :
    content.length = 8 := by
  unfold readUnitRead at h
  split at h
  · rfl
  · cases h

theorem readClockSet_length {content : List Byte} {rq : Request} (h : readClockSet content = some rq) :
    content.length = 4 := by
  unfold readClockSet at h
  split at h
  · rfl
  · cases h

theorem readNothing_length {content : List Byte} {r rq : Request} (h : readNothing r content = some rq) :
    content.length = 0 := by
  unfold readNothing at h
  split at h
  · rfl
  · cases h

theorem readByte_length {content : List Byte} {r : Byte → Request} {rq : Request} (h : readByte r content = some rq) :
    content.length = 1 := by
  unfold readByte at h
  split at h
  · rfl
  · cases h

theorem readTwo_length {content : List Byte} {r : Byte → Byte → Request} {rq : Request}
    (h : readTwo r content = some rq) : content.length = 2 := by
  unfold readTwo at h
  split at h
  · rfl
  · cases h

theorem orBadLength_none {o : Option Request} (h : ∀ rq, o ≠ some rq) : orBadLength o = .badLength := by
  rw [Option.eq_none_iff_forall_ne_some.2 h]
  rfl

/-- A known kind whose content has the wrong length: what each form reads has the length that its kind has. -/
theorem parseFrame_badLength {kind tag : Byte} {content : List Byte} (hk : kind ∈ requestKinds)
    (h : ¬lengthFits kind content) : parseFrame { kind, tag, content } = .badLength := by
  simp only [requestKinds, List.mem_cons, List.not_mem_nil, or_false] at hk
  rcases hk with rfl | rfl | rfl | rfl | rfl | rfl | rfl | rfl | rfl | rfl | rfl | rfl | rfl | rfl
  · exact orBadLength_none fun _ hr => h (readSubmit_length hr)
  · exact orBadLength_none fun _ hr => h (readCancel_length hr)
  · exact orBadLength_none fun _ hr => h (readAdjust_length hr)
  · exact orBadLength_none fun _ hr => h (readCollect_length hr)
  · exact orBadLength_none fun _ hr => h (readNothing_length hr)
  · exact orBadLength_none fun _ hr => h (readUnitWrite_length hr)
  · exact orBadLength_none fun _ hr => h (readUnitRead_length hr)
  · exact orBadLength_none fun _ hr => h (readByte_length hr)
  · exact orBadLength_none fun _ hr => h (readProfileWrite_length hr)
  · exact orBadLength_none fun _ hr => h (readNothing_length hr)
  · exact orBadLength_none fun _ hr => h (readClockSet_length hr)
  · exact orBadLength_none fun _ hr => h (readTwo_length hr)
  · exact orBadLength_none fun _ hr => h (readByte_length hr)
  · exact orBadLength_none fun _ hr => h (readTwo_length hr)

theorem takeFrame_unknown {kind tag : Byte} {content : List Byte} (h : kind ∉ requestKinds) (s : State) :
    takeFrame { kind, tag, content } s = respond { kind := 0xFF, tag, content := [0x01, kind] } (transmit s) := by
  simp only [takeFrame, parseFrame_unknown h]
  rfl

theorem takeFrame_badLength {kind tag : Byte} {content : List Byte} (hk : kind ∈ requestKinds)
    (h : ¬lengthFits kind content) (s : State) :
    takeFrame { kind, tag, content } s = respond { kind := kind + 0x80, tag, content := [0x02] } (transmit s) := by
  simp only [takeFrame, parseFrame_badLength hk h]
  rfl

/-- A frame that its first two checks refuse is answered, and nothing else is done. -/
theorem intakeFrame_refused {g answer : Frame} {s : State} (hroom : s.uli.responses.length < 4)
    (h : takeFrame g s = respond answer (transmit s)) :
    ∃ u d, transmit (intakeFrame g s) = { s with uli := u, draws := d } ∧ responseQueued s.uli u answer := by
  rw [intakeFrame_room hroom, h, answered_rest]
  exact ⟨_, _, rfl, responseQueued_respond answer rfl⟩

/-- Settles O51: no kind fits, or no form of the kind reads the content. -/
theorem unknownKindAnsweredBadKind : Obligations.UnknownKindAnsweredBadKind := by
  refine ⟨fun kind tag content s hroom hk => ?_, fun kind tag content s hroom hk hfits hlength hrx hp => ?_⟩
  · obtain ⟨u, d, hnext, hqueued⟩ := intakeFrame_refused hroom (takeFrame_unknown hk s)
    exact ⟨u, d, congrArg Host.Outcome.next hnext, hqueued⟩
  · obtain ⟨u, d, hnext, hqueued⟩ := intakeFrame_refused hroom (takeFrame_badLength hk hlength s)
    rw [receive_wireBytes hfits hrx hp]
    exact ⟨u, d, congrArg Host.Outcome.next hnext, hqueued⟩

end Sys2Proof.Machine

/-! ## STATUS and MASK WRITE (R157, R158, R162, R174): O50 -/

namespace Sys2Proof.Machine

open Sys2Proof.Claims

/-! ### The snapshot byte by byte (R174) -/

/-- Each lane's block stands at eleven bytes times its place. -/
theorem statusBytes_laneBlock (s : State) (ph : Phase) {j : Nat} (h : j < 11) :
    (statusBytes s).getD (11 * laneRank ph + j) 0 = (laneBlock s ph).getD j 0 := by
  cases ph <;> interval_cases j <;> rfl

theorem boolByte_toNat (b : Bool) : (boolByte b).toNat = if b = true then 1 else 0 := by cases b <;> rfl

theorem modeByte_toNat (m : Mode) : (modeByte m).toNat = if m = .robust then 1 else 0 := by cases m <;> rfl

theorem snapshotBytes_statusBytes {s : State} (h : snapshotFits s) : snapshotBytes s (statusBytes s) := by
  obtain ⟨hrecords, hseconds, hsub, hlanes⟩ := h
  refine ⟨rfl, fun ph => ?_, byteOf_toNat hrecords, boolByte_toNat _, word_bytes4 (by omega), word_bytes4 (by omega),
    word_bytes2 (by have := s.events.flags.isLt; omega), word_bytes2 (by have := s.events.mask.isLt; omega)⟩
  obtain ⟨hp, hmisses, hfloor, hdeferral, hwinner, hexchange⟩ := hlanes ph
  have hbyte : ∀ j, j < 11 →
      ((statusBytes s).getD (11 * laneRank ph + j) 0).toNat = ((laneBlock s ph).getD j 0).toNat :=
    fun j hj => congrArg BitVec.toNat (statusBytes_laneBlock s ph hj)
  refine ⟨(hbyte 0 (by decide)).trans ?_, (hbyte 1 (by decide)).trans ?_, ?_, (hbyte 4 (by decide)).trans (byteOf_toNat hmisses),
    (hbyte 5 (by decide)).trans ?_, (hbyte 6 (by decide)).trans ?_, (hbyte 7 (by decide)).trans (modeByte_toNat _),
    (hbyte 8 (by decide)).trans (byteOf_toNat hfloor), (hbyte 9 (by decide)).trans (boolByte_toNat _),
    (hbyte 10 (by decide)).trans (byteOf_toNat hdeferral)⟩
  · show (laneStateByte (laneOf s ph).state).toNat = _
    cases (laneOf s ph).state <;> rfl
  · show (timingByte (ptuOf s ph).timing).toNat = _
    cases (ptuOf s ph).timing <;> rfl
  · refine (congrArg₂ (fun a b => a * 256 + b) (hbyte 2 (by decide)) (hbyte 3 (by decide))).trans ?_
    exact word_bytes2 hp
  · show (byteOf (pendingPriority (laneOf s ph))).toNat = _
    unfold pendingPriority
    cases hw : (laneOf s ph).winner with
    | none => rfl
    | some i => exact byteOf_toNat (hwinner i hw)
  · show (byteOf (currentPriority (laneOf s ph))).toNat = _
    unfold currentPriority
    cases hx : (laneOf s ph).exchange with
    | none => rfl
    | some x => exact byteOf_toNat (hexchange x hx)

/-! ### A request served at once -/

/-- A request that finds room is served after the transmitter's choice, and its response enters the queue (R148 to R150). -/
theorem exec_served {c : Instr} {s : State} {r : Uli → State} {kind tag : Byte} {rq : Request} {content : List Byte}
    (hc : requestOf c = some (tag, rq)) (hk : requestKind rq + 0x80 = kind) (hroom : s.uli.responses.length < 4)
    (hserve : ∀ u, serve rq { s with uli := u } = (r u, content)) :
    exec c s = .next (transmit (respond { kind, tag, content } (r (transmit s).uli))) := by
  have hs := hserve (transmit s).uli
  rw [← transmit_rest s] at hs
  rw [exec_of_requestOf hc, intakeRequest_room hroom, perform, hs, hk]

/-- The same as `transmit_respond_rest`, with the counter read off the state after both. -/
theorem transmit_respond_same (f : Frame) (r : State) :
    transmit (respond f r) =
      { r with uli := (transmit (respond f r)).uli, draws := (transmit (respond f r)).draws } := by
  have hdraws : (transmit (respond f r)).draws = (respond f r).draws := by rw [transmit_frame]
  rw [hdraws]
  exact transmit_respond_rest f r

/-- No NOTICE becomes due by a response and the transmitter's choice. -/
theorem transmit_respond_due {f : Frame} {r : State} (h : r.uli.noticeDue = false) :
    (transmit (respond f r)).uli.noticeDue = false :=
  Bool.eq_false_iff.2 fun hd => Bool.eq_false_iff.1 h (respond_due (transmit_due hd))

/-- A busy transmitter leaves a response waiting and notice-due as it is. -/
theorem transmit_respond_busy {f : Frame} {r : State} (h : r.uli.tx ≠ .free) : transmit (respond f r) = queued f r := by
  rw [respond_busy h]
  exact transmit_busy h

/-! ### STATUS (R157) -/

/-- The state that a STATUS leaves, for the uplink as it finds it. -/
def statusTaken (option : Byte) (s : State) (u : Uli) : State :=
  { s with
    events := { s.events with flags := 0 }
    lcm := if option = 1 then perPhase (fun ph => { lcmOf s ph with latch := false }) else s.lcm
    uli := { u with noticeDue := false } }

theorem serveStatus_taken {option : Byte} (h : option.toNat ≤ 1) (s : State) (u : Uli) :
    serve (.status option) { s with uli := u } = (statusTaken option s u, 0x00 :: statusBytes s) := by
  refine (if_neg (Nat.not_lt.2 h)).trans ?_
  by_cases h1 : option = 1
  · subst h1
    rfl
  · simp only [clearAfterStatus, statusTaken, h1, beq_eq_false_iff_ne.2 h1, Bool.false_eq_true, ↓reduceIte]
    rfl

theorem status_answers {tag option : Byte} {s : State} (hroom : s.uli.responses.length < 4) (h : option.toNat ≤ 1) :
    ∃ t, exec (.status tag option) s = .next t ∧ t.uli.noticeDue = false ∧
      responseQueued s.uli t.uli { kind := 0xB2, tag, content := 0x00 :: statusBytes s } ∧
      t = { s with
        events := { s.events with flags := 0 }
        lcm := if option = 1 then perPhase (fun ph => { lcmOf s ph with latch := false }) else s.lcm
        uli := t.uli, draws := t.draws } :=
  ⟨_, exec_served rfl rfl hroom (serveStatus_taken h s), transmit_respond_due rfl, responseQueued_respond _ rfl,
    transmit_respond_same _ (statusTaken option s (transmit s).uli)⟩

/-! ### MASK WRITE (R158, R162) -/

/-- The bits of a mask from a place on are all 0 just where the mask is below that place's power of two. -/
theorem extractHigh_eq_zero_iff (mask : BitVec 16) {k : Nat} (hk : k ≤ 16) :
    mask.extractLsb' k (16 - k) = 0 ↔ mask.toNat < 2 ^ k := by
  have hsmall : mask.toNat / 2 ^ k < 2 ^ (16 - k) := by
    refine Nat.div_lt_of_lt_mul ?_
    rw [← Nat.pow_add, Nat.add_sub_cancel' hk]
    exact mask.isLt
  rw [← BitVec.toNat_inj, BitVec.extractLsb'_toNat, Nat.shiftRight_eq_div_pow, Nat.mod_eq_of_lt hsmall]
  exact Nat.div_eq_zero_iff_lt (Nat.two_pow_pos k)

/-- Every place of the flag word is some flag's (R172). -/
theorem exists_flagBit {i : Nat} (h : i < 12) : ∃ f, flagBit f = i := by
  have hmem : i ∈ flagOrder.map flagBit := by
    rw [show flagOrder.map flagBit = List.range 12 from rfl]
    exact List.mem_range.2 h
  obtain ⟨f, -, hf⟩ := List.mem_map.1 hmem
  exact ⟨f, hf⟩

theorem flagWord_ne_zero_iff (w : BitVec 12) : w ≠ 0 ↔ ∃ f, w.getLsbD (flagBit f) = true := by
  refine ⟨fun h => ?_, fun ⟨f, hf⟩ h => ?_⟩
  · by_contra hnone
    refine h (BitVec.eq_of_getLsbD_eq fun i hi => ?_)
    obtain ⟨f, rfl⟩ := exists_flagBit hi
    simpa using fun hf => hnone ⟨f, hf⟩
  · simp [h] at hf

/-- The state that a MASK WRITE leaves, for the uplink as it finds it. -/
def maskWritten (mask : BitVec 16) (s : State) (u : Uli) : State :=
  { s with
    events := { s.events with mask := mask.setWidth 12 }
    uli := { u with noticeDue := s.events.flags &&& mask.setWidth 12 != 0 } }

theorem serveMaskWrite_badField {mask : BitVec 16} (h : 4095 < mask.toNat) (s : State) :
    serve (.maskWrite mask) s = refuse .badField s :=
  if_pos fun h0 => Nat.not_lt.2 h ((extractHigh_eq_zero_iff mask (k := 12) (by decide)).1 h0)

theorem serveMaskWrite_written {mask : BitVec 16} (h : mask.toNat ≤ 4095) (s : State) (u : Uli) :
    serve (.maskWrite mask) { s with uli := u } = (maskWritten mask s u, 0x00 :: bytes2 mask.toNat) := by
  have hlow : mask.extractLsb' 0 12 = mask.setWidth 12 := by rw [BitVec.setWidth_eq_extractLsb' (by decide)]
  have hbytes : flagBytes (mask.setWidth 12) = bytes2 mask.toNat := by
    rw [flagBytes, BitVec.toNat_setWidth, Nat.mod_eq_of_lt (by omega)]
  refine (if_neg fun hne => hne ((extractHigh_eq_zero_iff mask (k := 12) (by decide)).2 (by omega))).trans ?_
  rw [hlow, ← hbytes]
  rfl

theorem maskWrite_answers {tag : Byte} {mask : BitVec 16} {s : State} (hroom : s.uli.responses.length < 4)
    (h : mask.toNat ≤ 4095) :
    ∃ t, exec (.maskWrite tag mask) s = .next t ∧
      responseQueued s.uli t.uli { kind := 0xB3, tag, content := 0x00 :: bytes2 mask.toNat } ∧
      t = { s with events := { s.events with mask := mask.setWidth 12 }, uli := t.uli, draws := t.draws } ∧
      (s.uli.tx ≠ .free → (t.uli.noticeDue = true ↔ ∃ f, flagSet s f = true ∧ unmasked t f = true)) := by
  refine ⟨_, exec_served rfl rfl hroom (serveMaskWrite_written h s), responseQueued_respond _ rfl,
    transmit_respond_same _ (maskWritten mask s (transmit s).uli), fun hbusy => ?_⟩
  rw [transmit_respond_busy]
  swap
  · show (transmit s).uli.tx ≠ .free
    rwa [transmit_busy hbusy]
  show (s.events.flags &&& mask.setWidth 12 != 0) = true ↔ ∃ f, s.events.flags.getLsbD (flagBit f) = true ∧
    (mask.setWidth 12).getLsbD (flagBit f) = true
  simp only [bne_iff_ne, flagWord_ne_zero_iff, BitVec.getLsbD_and, Bool.and_eq_true]

/-- Settles O50: the snapshot byte by byte, and each request by the state that its owner leaves. -/
theorem statusAndMaskSettleNotices : Obligations.StatusAndMaskSettleNotices :=
  ⟨fun _ => snapshotBytes_statusBytes, fun _ _ hroom =>
    ⟨fun _ => ⟨fun h => answers_of_serve rfl rfl hroom fun _ => if_pos h, status_answers hroom⟩,
      fun _ => ⟨fun h => answers_of_serve rfl rfl hroom fun _ => serveMaskWrite_badField h _, maskWrite_answers hroom⟩⟩⟩

end Sys2Proof.Machine

/-! ## PROFILE WRITE (R154 to R156, R173): O49 -/

namespace Sys2Proof.Machine

open Sys2Proof.Claims

/-! ### One setting, and all that a mask names (R155 steps 1 and 3) -/

/-- The nine settings in mask order (R173). -/
def settings (p : Profile) : List Nat :=
  [p.w, p.urgent, p.coast, p.silence, p.retry, p.deferral, p.robustEnter, p.robustLeave, p.boost]

theorem settingAt_eq (p : Profile) (k : Nat) : settingAt p k = (settings p).getD k 0 := rfl

/-- The setting at a place clamped into its range (R154). -/
def clampedSetting (k v : Nat) : Nat := max (settingRange k).1 (min (settingRange k).2 v)

theorem settings_putSetting (p : Profile) {k : Nat} (hk : k < 9) (v : Nat) :
    settings (putSetting p k v) = (settings p).set k (clampedSetting k v) := by
  interval_cases k <;> simp [settings, putSetting, clampedSetting, settingRange, clamp]

theorem settingAt_putSetting_self (p : Profile) {k : Nat} (hk : k < 9) (v : Nat) :
    settingAt (putSetting p k v) k = clampedSetting k v := by
  rw [settingAt_eq, settings_putSetting p hk, List.getD_eq_getElem?_getD, List.getElem?_set_self (by exact hk)]
  rfl

theorem settingAt_putSetting_of_ne (p : Profile) {k j : Nat} (hk : k < 9) (v : Nat) (h : k ≠ j) :
    settingAt (putSetting p k v) j = settingAt p j := by
  rw [settingAt_eq, settings_putSetting p hk, List.getD_eq_getElem?_getD, List.getElem?_set_ne h]
  rfl

/-- The places below `n` that a mask names take their values, the others keep their settings. -/
def writeBelow (p : Profile) (mask : BitVec 16) (values : List Byte) (n : Nat) : Profile :=
  (((List.range n).filter mask.getLsbD).zip values).foldl (fun q kv => putSetting q kv.1 kv.2.toNat) p

theorem writtenProfile_eq (p : Profile) (mask : BitVec 16) (values : List Byte) :
    writtenProfile p mask values = leaveBelowEnter (writeBelow p mask values 9) := rfl

/-- The values follow the places one by one, as far as there are values. -/
theorem zip_concat {α β : Type} (a : α) : ∀ (as : List α) (bs : List β),
    (as ++ [a]).zip bs = as.zip bs ++ (bs[as.length]?.map fun b => (a, b)).toList
  | [], [] => rfl
  | [], b :: bs => by simp
  | _ :: _, [] => rfl
  | a' :: as, b :: bs => by simp [zip_concat a as bs]

theorem writeBelow_succ_some {p : Profile} {mask : BitVec 16} {values : List Byte} {n v : Nat}
    (h : valueNamed mask values n = some v) :
    writeBelow p mask values (n + 1) = putSetting (writeBelow p mask values n) n v := by
  unfold valueNamed at h
  split at h
  · rename_i hbit
    obtain ⟨b, hb, rfl⟩ := Option.map_eq_some_iff.1 h
    have hplace : [n].filter mask.getLsbD = [n] := List.filter_cons_of_pos hbit
    rw [writeBelow, List.range_succ, List.filter_append, hplace, zip_concat, hb, List.foldl_append]
    rfl
  · cases h

theorem writeBelow_succ_none {p : Profile} {mask : BitVec 16} {values : List Byte} {n : Nat}
    (h : valueNamed mask values n = none) : writeBelow p mask values (n + 1) = writeBelow p mask values n := by
  unfold valueNamed at h
  rw [writeBelow, List.range_succ, List.filter_append]
  split at h
  · rename_i hbit
    have hplace : [n].filter mask.getLsbD = [n] := List.filter_cons_of_pos hbit
    rw [hplace, zip_concat, Option.map_eq_none_iff.1 h, Option.map_none, Option.toList_none, List.append_nil]
    rfl
  · rename_i hbit
    have hplace : [n].filter mask.getLsbD = [] := List.filter_cons_of_neg hbit
    rw [hplace, List.append_nil]
    rfl

theorem settingWritten_some {p : Profile} {mask : BitVec 16} {values : List Byte} {k v : Nat}
    (h : valueNamed mask values k = some v) : settingWritten p mask values k = clampedSetting k v := by
  rw [settingWritten, h]
  rfl

theorem settingWritten_none {p : Profile} {mask : BitVec 16} {values : List Byte} {k : Nat}
    (h : valueNamed mask values k = none) : settingWritten p mask values k = settingAt p k := by
  rw [settingWritten, h]

theorem settingAt_writeBelow (p : Profile) (mask : BitVec 16) (values : List Byte) (j : Nat) : ∀ {n : Nat}, n ≤ 9 →
    settingAt (writeBelow p mask values n) j = if j < n then settingWritten p mask values j else settingAt p j
  | 0, _ => rfl
  | n + 1, hn => by
    have ih := settingAt_writeBelow p mask values j (Nat.le_of_succ_le hn)
    cases hv : valueNamed mask values n with
    | none =>
      rw [writeBelow_succ_none hv, ih]
      by_cases hj : j = n
      · rw [hj, if_neg (Nat.lt_irrefl n), if_pos (Nat.lt_succ_self n), settingWritten_none hv]
      · simp only [show j < n + 1 ↔ j < n by omega]
    | some v =>
      rw [writeBelow_succ_some hv]
      by_cases hj : j = n
      · rw [hj, settingAt_putSetting_self _ hn, if_pos (Nat.lt_succ_self n), settingWritten_some hv]
      · rw [settingAt_putSetting_of_ne _ hn v (Ne.symm hj), ih]
        simp only [show j < n + 1 ↔ j < n by omega]

/-! ### Robust leave below robust enter (R155 step 4) -/

theorem settingAt_leaveBelowEnter (p : Profile) (k : Nat) :
    settingAt (leaveBelowEnter p) k =
      if k = 7 ∧ settingAt p 6 ≤ settingAt p 7 then settingAt p 6 - 1 else settingAt p k := by
  by_cases hle : p.robustEnter ≤ p.robustLeave
  · have hset : settings (leaveBelowEnter p) = (settings p).set 7 (p.robustEnter - 1) := by
      rw [leaveBelowEnter, if_pos hle]
      rfl
    have hsix : settingAt p 6 ≤ settingAt p 7 := hle
    rw [settingAt_eq, hset, List.getD_eq_getElem?_getD]
    by_cases hk : k = 7
    · rw [if_pos ⟨hk, hsix⟩, hk]
      rfl
    · rw [if_neg fun h => hk h.1, List.getElem?_set_ne (Ne.symm hk)]
      rfl
  · rw [leaveBelowEnter, if_neg hle, if_neg fun h => hle h.2]

/-- Every setting that a write stores (R155). -/
theorem settingAt_writtenProfile (p : Profile) (mask : BitVec 16) (values : List Byte) {k : Nat} (hk : k < 9) :
    settingAt (writtenProfile p mask values) k =
      if k = 7 ∧ settingWritten p mask values 6 ≤ settingWritten p mask values 7 then settingWritten p mask values 6 - 1
      else settingWritten p mask values k := by
  rw [writtenProfile_eq, settingAt_leaveBelowEnter]
  simp only [settingAt_writeBelow p mask values _ (le_refl 9), hk, show 6 < 9 by decide, show 7 < 9 by decide, ↓reduceIte]

theorem writtenProfile_w (p : Profile) (mask : BitVec 16) (values : List Byte) :
    (writtenProfile p mask values).w = settingWritten p mask values 0 :=
  (settingAt_writtenProfile p mask values (k := 0) (by decide)).trans (if_neg fun h => nomatch h.1)

/-! ### The request (R155, R156) -/

theorem laneEngaged_iff (st : LaneState) : (st == .reserved || isOccupied st) = true ↔
    st = .reserved ∨ st = .armed ∨ st = .sending ∨ st = .listening := by
  cases st <;> simp [isOccupied]

theorem anyLaneEngaged_iff (s : State) : anyLaneEngaged s = true ↔ ∃ ph, (laneOf s ph).state = .reserved ∨
    (laneOf s ph).state = .armed ∨ (laneOf s ph).state = .sending ∨ (laneOf s ph).state = .listening := by
  unfold anyLaneEngaged
  simp only [List.any_eq_true, laneEngaged_iff, mem_allPhases, true_and]

/-- The state with a write's settings stored, before the lanes whose usability it changed choose again. -/
def profileStored (mask : BitVec 16) (values : List Byte) (s : State) : State :=
  { s with profile := writtenProfile s.profile mask values }

/-- The state that a PROFILE WRITE leaves (R68, R155). -/
def profileWritten (mask : BitVec 16) (values : List Byte) (s : State) : State :=
  tell (usabilityChanged s (profileStored mask values s)) (profileStored mask values s)

theorem serveProfileWrite_badField {mask : BitVec 16} (h : 511 < mask.toNat) (values : List Byte) (s : State) :
    serve (.profileWrite mask values) s = refuse .badField s :=
  if_pos fun h0 => Nat.not_lt.2 h ((extractHigh_eq_zero_iff mask (k := 9) (by decide)).1 h0)

theorem serveProfileWrite_named {mask : BitVec 16} (h : mask.toNat ≤ 511) (values : List Byte) (s : State) :
    serve (.profileWrite mask values) s =
      if (writtenProfile s.profile mask values).w ≠ s.profile.w ∧ anyLaneEngaged s = true then refuse .wrongState s
      else (profileWritten mask values s, 0x00 :: profileBytes (writtenProfile s.profile mask values)) :=
  if_neg fun hne => hne ((extractHigh_eq_zero_iff mask (k := 9) (by decide)).2 (Nat.lt_succ_of_le h))

theorem profileBytes_eq (p : Profile) :
    profileBytes p = (List.range 9).map fun k => BitVec.ofNat 8 (settingAt p k) := rfl

theorem profileWritten_work (mask : BitVec 16) (values : List Byte) (s : State) :
    LaneWork (profileStored mask values s) (profileWritten mask values s) := tell_work _ _

/-- Settles O49: the mask checked, then the lanes, and then the settings stored place by place. -/
theorem profileWriteStoresClampedSettings : Obligations.ProfileWriteStoresClampedSettings := by
  intro tag mask values s hq hroom _ c engaged written
  refine ⟨fun h => answers_of_serve rfl rfl hroom fun _ => serveProfileWrite_badField h values _, fun h =>
    ⟨fun hw hengaged => ?_, fun hfree => ?_⟩⟩
  · refine answers_of_serve rfl rfl hroom fun u => ?_
    rw [serveProfileWrite_named h, if_pos]
    · rfl
    · exact ⟨by rwa [writtenProfile_w], (anyLaneEngaged_iff _).2 hengaged⟩
  · have hserve : ∀ u, serve (.profileWrite mask values) { s with uli := u } = (profileWritten mask values { s with uli := u },
        0x00 :: profileBytes (writtenProfile s.profile mask values)) := fun u => by
      rw [serveProfileWrite_named h, if_neg]
      rw [writtenProfile_w, anyLaneEngaged_iff]
      exact hfree
    have hwork := fun u => profileWritten_work mask values { s with uli := u }
    obtain ⟨u, v, d, hexec, hqueued⟩ := exec_answered (c := c) (kind := 0xA0) rfl rfl hroom hserve fun u => (hwork u).uli
    have hprofile : (profileWritten mask values { s with uli := u }).profile = writtenProfile s.profile mask values :=
      (hwork u).profile
    rw [profileBytes_eq, ← hprofile] at hqueued
    refine ⟨_, hexec, fun k hk => ?_, hqueued, (hwork u).now, (hwork u).ptu, (hwork u).clock, (hwork u).units,
      (hwork u).lcm, (hwork u).inFlight, ((hwork u).records hq.serialsApart).imp fun _ _ hr => hr.continues⟩
    exact (congrArg (settingAt · k) hprofile).trans (settingAt_writtenProfile s.profile mask values hk)

end Sys2Proof.Machine

/-! ## Flags cleared by STATUS and a device reset alone (R159, R160, R162): O2

The queue, the lanes, the table and the grids raise flags and clear none, and only a MASK WRITE replaces the mask.
On the uplink a frame that is lost raises UPLINK_ERROR, and a request that is taken does to the event unit what its owner
does. -/

namespace Sys2Proof.Machine

open Sys2Proof.Claims

/-! ### The relation -/

/-- The commands that wait and the mask are as they were, and every flag that was set is set. -/
structure EventsKept (s t : State) : Prop where
  pending : t.pending = s.pending
  flags : flagsKept s.events t.events
  mask : t.events.mask = s.events.mask

theorem EventsKept.trans {a b c : State} (h : EventsKept a b) (k : EventsKept b c) : EventsKept a c :=
  ⟨k.pending.trans h.pending, flagsKept_trans h.flags k.flags, k.mask.trans h.mask⟩

theorem eventsKept_of_eq {s t : State} (hp : t.pending = s.pending) (he : t.events = s.events) : EventsKept s t :=
  ⟨hp, he ▸ flagsKept_refl _, congrArg Events.mask he⟩

theorem EventsKept.refl (s : State) : EventsKept s s := eventsKept_of_eq rfl rfl

/-- A change that leaves the commands that wait and the event unit alone goes before. -/
theorem EventsKept.after {s s' t : State} (k : EventsKept s' t) (hp : s'.pending = s.pending)
    (he : s'.events = s.events) : EventsKept s t := (eventsKept_of_eq hp he).trans k

/-- An event that has come is taken, and one that has not leaves the state alone (log 3). -/
theorem eventsKept_ite {c : Prop} [Decidable c] {s t : State} (h : EventsKept s t) :
    EventsKept s (if c then t else s) := by
  split
  · exact h
  · exact .refl s

/-- The queue and the lanes clear no flag and leave the mask alone. -/
theorem LaneSide.eventsKept {s t : State} (h : LaneSide s t) : EventsKept s t := ⟨h.pending, h.flags, h.mask⟩

theorem LaneWork.eventsKept {s t : State} (h : LaneWork s t) : EventsKept s t := h.toLaneSide.eventsKept

theorem tell_eventsKept (asked : List Phase) (s : State) : EventsKept s (tell asked s) := (tell_work asked s).eventsKept

/-- Records put back raise RECORD_DONE at most (R50). -/
theorem commitRecords_eventsKept (rs : List Record) (s : State) : EventsKept s (commitRecords rs s) :=
  EventsKept.after (s' := { s with records := rs }) (raiseIf_work _ _ _).eventsKept rfl rfl

theorem transmit_eventsKept (s : State) : EventsKept s (transmit s) :=
  eventsKept_of_eq (transmit_pending s) (transmit_events s)

theorem respond_eventsKept (f : Frame) (s : State) : EventsKept s (respond f s) := by
  rw [respond_frame]
  exact eventsKept_of_eq rfl rfl

/-! ### The mains and the clock -/

theorem setPtu_eventsKept (s : State) (ph : Phase) (u : Ptu) : EventsKept s (setPtu s ph u) := eventsKept_of_eq rfl rfl

theorem reportStart_eventsKept (ph : Phase) (s : State) : EventsKept s (reportStart ph s) := eventsKept_of_eq rfl rfl

theorem laneFirstBoundary_eventsKept (ph : Phase) (s : State) : EventsKept s (laneFirstBoundary ph s) :=
  ((eventsKept_ite (settleLane_work ph s).eventsKept).trans (tell_eventsKept [ph] _)).trans (reportStart_eventsKept ph _)

/-- A phase that locks raises PHASE_LOCKED (R5). -/
theorem crossingLocking_eventsKept (ph : Phase) (s : State) : EventsKept s (crossingLocking ph s) := by
  unfold crossingLocking
  dsimp only
  split
  · exact ((setPtu_eventsKept s ph _).trans (raise_work _ _).eventsKept).trans (laneFirstBoundary_eventsKept ph _)
  · exact setPtu_eventsKept s ph _

theorem crossing_eventsKept (ph : Phase) (s : State) : ∃ t, exec (.crossing ph) s = .next t ∧ EventsKept s t := by
  refine ⟨_, rfl, EventsKept.trans ?_ (transmit_eventsKept _)⟩
  split
  · exact crossingLocking_eventsKept ph s
  · exact (setPtu_eventsKept s ph _).trans (tell_eventsKept _ _)
  · exact (setPtu_eventsKept s ph _).trans (tell_eventsKept _ _)
  · exact (setPtu_eventsKept s ph (crossLost s.now (ptuOf s ph))).trans (laneSeen_work ph _).eventsKept

/-- A phase that is lost raises PHASE_LOST (R11). -/
theorem phaseLost_eventsKept (ph : Phase) (time : Nat) (s : State) : EventsKept s (phaseLost ph time s) :=
  ((setPtu_eventsKept s ph _).trans (raise_work .phaseLost _).eventsKept).trans
    (EventsKept.after ((laneLoss_work ph time _).trans (tell_work _ _)).eventsKept rfl rfl)

theorem takeMiss_eventsKept (ph : Phase) (s : State) : EventsKept s (takeMiss ph s) := by
  unfold takeMiss
  dsimp only
  have hcoast := fun c =>
    (setPtu_eventsKept s ph (takeMissTest (ptuOf s ph))).trans (raiseIf_work c .gridCoast _).eventsKept
  split
  · exact setPtu_eventsKept s ph _
  · split
    · exact (hcoast _).trans (phaseLost_eventsKept ph _ _)
    · exact (hcoast _).trans (tell_eventsKept _ _)

theorem measure_eventsKept (ph : Phase) (ended : EndedHalf) (s : State) : EventsKept s (measure ph ended s) :=
  (measure_work ph ended s).eventsKept.after rfl rfl

theorem takeBoundary_eventsKept (ph : Phase) (mf : Bool) (o : ReportOrder) (s : State) :
    EventsKept s (takeBoundary ph mf o s) := by
  refine EventsKept.trans ?_ (reportStart_eventsKept ph _)
  refine (setPtu_eventsKept s ph (nextHalf s.profile.w (ptuOf s ph))).trans ?_
  cases mf with
  | true => exact (measure_eventsKept ph _ _).trans (laneBoundary_side ..).eventsKept
  | false => exact (laneBoundary_side ..).eventsKept.trans (measure_eventsKept ph _ _)

theorem takeWindow_eventsKept (ph : Phase) (s : State) : EventsKept s (takeWindow ph s) := by
  unfold takeWindow
  dsimp only
  split
  · exact .refl s
  · unfold driveWindow
    dsimp only
    split <;> exact eventsKept_of_eq rfl rfl

theorem clockEvent_eventsKept (s : State) : EventsKept s (clockEvent s) := by
  have happlied : EventsKept s (secondApplied s) := (commitRecords_eventsKept _ s).trans (eventsKept_of_eq rfl rfl)
  rw [clockEvent_eq]
  split
  · exact happlied
  · exact happlied.trans (tell_eventsKept _ _)

theorem secondTick_eventsKept (s : State) : EventsKept s (secondTick s) := (clockEvent_eventsKept _).after rfl rfl

/-! ### Deliveries between the blocks -/

theorem passNotBefore_eventsKept (r : Record) (unit : Nat) (s : State) : EventsKept s (passNotBefore r unit s) :=
  (commitRecords_eventsKept _ s).trans (tell_eventsKept _ _)

theorem abortRequestTaken_eventsKept (q : AbortRequest) (s : State) : EventsKept s (abortRequestTaken q s) :=
  EventsKept.after (s' := { s with abortRequests := s.abortRequests.erase q })
    ((takeAbortRequest_work q _).trans (tell_work _ _)).eventsKept rfl rfl

/-- The commands that come neither over the uplink nor from RESETN raise flags at most. -/
theorem exec_beside_uplink {c : Instr} (hup : ¬KeptByUplink.takes c = true)
    (hreset : ∀ fsel baud, c ≠ .deviceReset fsel baud) (s : State) : ∃ t, exec c s = .next t ∧ EventsKept s t := by
  cases c with
  | deviceReset fsel baud => exact absurd rfl (hreset fsel baud)
  | crossing ph => exact crossing_eventsKept ph s
  | missTest ph => exact ⟨_, rfl, (eventsKept_ite (takeMiss_eventsKept ph s)).trans (transmit_eventsKept _)⟩
  | halfCycleBoundary ph mf o =>
    exact ⟨_, rfl, (eventsKept_ite (takeBoundary_eventsKept ph mf o s)).trans (transmit_eventsKept _)⟩
  | windowBoundary ph => exact ⟨_, rfl, (eventsKept_ite (takeWindow_eventsKept ph s)).trans (transmit_eventsKept _)⟩
  | windowSample ph rxd cd lq => exact ⟨_, rfl, (eventsKept_ite (setPtu_eventsKept s ph _)).trans (transmit_eventsKept _)⟩
  | secondEvent => exact ⟨_, rfl, (eventsKept_ite (secondTick_eventsKept s)).trans (transmit_eventsKept _)⟩
  | referenceTick =>
    refine ⟨_, rfl, EventsKept.trans ?_ (transmit_eventsKept _)⟩
    split
    · exact secondTick_eventsKept s
    · exact eventsKept_of_eq rfl rfl
  | notBeforeTimePasses id unit =>
    refine ⟨_, rfl, EventsKept.trans ?_ (transmit_eventsKept _)⟩
    split
    · exact .refl s
    · exact eventsKept_ite (passNotBefore_eventsKept _ unit s)
  | endReport which => exact ⟨_, rfl, (takeQueueReport_work which s).eventsKept.trans (transmit_eventsKept _)⟩
  | learningReport which => exact ⟨_, rfl, (takeTableReport_side which s).eventsKept.trans (transmit_eventsKept _)⟩
  | abortRequest lane =>
    refine ⟨_, rfl, EventsKept.trans ?_ (transmit_eventsKept _)⟩
    split
    · exact .refl s
    · exact abortRequestTaken_eventsKept _ s
  | _ => exact absurd rfl hup

/-! ### Requests, owner by owner -/

theorem serveSubmit_eventsKept (f : SubmitFields) (s : State) : EventsKept s (serveSubmit f s).1 := by
  unfold serveSubmit
  split
  · exact .refl s
  · have hadmitted : ∀ r, EventsKept s (admitted r s) := fun r =>
      (commitRecords_eventsKept (s.records ++ [admittedRecord s r]) s).trans (eventsKept_of_eq rfl rfl)
    show EventsKept s (admitNew _ s)
    rw [admitNew_eq]
    split
    · exact (hadmitted _).trans (tell_eventsKept _ _)
    · exact hadmitted _

theorem serveCancel_eventsKept (id : BitVec 32) (s : State) : EventsKept s (serveCancel id s).1 := by
  unfold serveCancel
  have hput : ∀ r, EventsKept s (tell allPhases (putRecord r s)) := fun r =>
    (commitRecords_eventsKept _ s).trans (tell_eventsKept _ _)
  split
  · exact .refl s
  · split
    · exact hput _
    · exact hput _
    · exact hput _
    · exact .refl s
    · exact .refl s

theorem serveAdjust_eventsKept (id : BitVec 32) (priority options : Byte) (s : State) :
    EventsKept s (serveAdjust id priority options s).1 := by
  unfold serveAdjust
  split
  · exact .refl s
  · split
    · exact .refl s
    · dsimp only
      split
      · exact (commitRecords_eventsKept _ s).trans (tell_eventsKept _ _)
      · exact commitRecords_eventsKept _ s

theorem serveCollect_eventsKept (id : BitVec 32) (cls : Byte) (start : BitVec 16) (options : Byte) (s : State) :
    EventsKept s (serveCollect id cls start options s).1 := by
  unfold serveCollect
  split
  · exact .refl s
  · split
    · exact .refl s
    · split
      · exact .refl s
      · split
        · exact .refl s
        · exact eventsKept_ite (eventsKept_of_eq rfl rfl)

theorem serveRestart_eventsKept (s : State) : EventsKept s (serveRestart s).1 := by
  rw [serveRestart_eq]
  exact (tell_eventsKept allPhases (restarted s)).after rfl rfl

theorem serveUnitWrite_eventsKept (f : UnitWriteFields) (s : State) : EventsKept s (serveUnitWrite f s).1 := by
  unfold serveUnitWrite
  split
  · exact .refl s
  · exact .refl s
  · exact .refl s
  · exact .refl s
  · exact .refl s
  · exact eventsKept_of_eq rfl rfl

theorem serveDiscoveryRead_eventsKept (option : Byte) (s : State) : EventsKept s (serveDiscoveryRead option s).1 := by
  unfold serveDiscoveryRead
  split
  · exact .refl s
  · exact eventsKept_ite (eventsKept_of_eq rfl rfl)

theorem serveProfileWrite_eventsKept (mask : BitVec 16) (values : List Byte) (s : State) :
    EventsKept s (serveProfileWrite mask values s).1 := by
  unfold serveProfileWrite
  split
  · exact .refl s
  · dsimp only
    split
    · exact .refl s
    · exact (tell_eventsKept _ _).after rfl rfl

theorem serveClockSet_eventsKept (seconds : BitVec 32) (s : State) : EventsKept s (serveClockSet seconds s).1 := by
  unfold serveClockSet
  split
  · exact .refl s
  · exact (clockEvent_eventsKept _).after rfl rfl

theorem serveLaneControl_eventsKept (mask action : Byte) (s : State) : EventsKept s (serveLaneControl mask action s).1 := by
  unfold serveLaneControl
  have hdone : ∀ (act : State → Phase → State), (∀ s ph, LaneWork s (act s ph)) → ∀ asked,
      EventsKept s (tell asked ((maskLanes mask).foldl act s)) := fun act ha asked =>
    ((LaneWork.foldl act ha _ s).trans (tell_work _ _)).eventsKept
  split
  · exact .refl s
  · dsimp only
    split
    · exact hdone _ stopLane_work _
    · split
      · exact hdone _ pauseLane_work _
      · split
        · exact hdone _ resumeLane_work _
        · exact .refl s

/-- STATUS clears the flags (R157), and leaves the commands that wait. -/
theorem serveStatus_pending (option : Byte) (s : State) : (serveStatus option s).1.pending = s.pending := by
  unfold serveStatus
  split <;> rfl

/-- MASK WRITE replaces the mask (R158), and leaves the commands that wait and the flags. -/
theorem serveMaskWrite_kept (mask : BitVec 16) (s : State) :
    (serveMaskWrite mask s).1.pending = s.pending ∧ (serveMaskWrite mask s).1.events.flags = s.events.flags := by
  unfold serveMaskWrite
  split <;> exact ⟨rfl, rfl⟩

/-- Every owner but those of STATUS and MASK WRITE raises flags at most. -/
theorem serve_eventsKept {rq : Request} (hstatus : ∀ option, rq ≠ .status option) (hmask : ∀ mask, rq ≠ .maskWrite mask)
    (s : State) : EventsKept s (serve rq s).1 := by
  cases rq with
  | submit f => exact serveSubmit_eventsKept f s
  | cancel id => exact serveCancel_eventsKept id s
  | adjust id priority options => exact serveAdjust_eventsKept id priority options s
  | collect id cls start options => exact serveCollect_eventsKept id cls start options s
  | restart => exact serveRestart_eventsKept s
  | unitWrite f => exact serveUnitWrite_eventsKept f s
  | unitRead form start count address =>
    have h : (serve (.unitRead form start count address) s).1 = s := serveUnitRead_state form start count address s
    rw [h]
    exact .refl s
  | discoveryRead option => exact serveDiscoveryRead_eventsKept option s
  | profileWrite mask values => exact serveProfileWrite_eventsKept mask values s
  | profileRead => exact .refl s
  | clockSet seconds => exact serveClockSet_eventsKept seconds s
  | laneControl mask action => exact serveLaneControl_eventsKept mask action s
  | status option => exact absurd rfl (hstatus option)
  | maskWrite mask => exact absurd rfl (hmask mask)

/-- No owner of a request touches the commands that wait. -/
theorem serve_pending (rq : Request) (s : State) : (serve rq s).1.pending = s.pending := by
  by_cases hstatus : ∃ option, rq = .status option
  · obtain ⟨option, rfl⟩ := hstatus
    exact serveStatus_pending option s
  by_cases hmask : ∃ mask, rq = .maskWrite mask
  · obtain ⟨mask, rfl⟩ := hmask
    exact (serveMaskWrite_kept mask s).1
  · push Not at hstatus hmask
    exact (serve_eventsKept hstatus hmask s).pending

theorem pendingKept_byUplink : KeptByUplink fun s t => t.pending = s.pending :=
  ⟨fun h k => k.trans h, fun _ _ _ _ => rfl, serve_pending⟩

/-! ### The uplink (R145 to R150) -/

/-- A frame that finds the response queue full raises UPLINK_ERROR at most (R148). -/
theorem holdFrame_eventsKept (f : Frame) (s : State) : EventsKept s (holdFrame f s) := by
  unfold holdFrame
  split
  · exact eventsKept_of_eq rfl rfl
  · exact (raise_work _ s).eventsKept.trans (transmit_eventsKept _)

theorem discardFrame_eventsKept (s : State) : EventsKept s (discardFrame s) :=
  EventsKept.after (s' := huntAgain s) ((raise_work _ _).eventsKept.trans (transmit_eventsKept _)) rfl rfl

/-- A request at intake does to the event unit what its owner does, or is held. -/
theorem intakeRequest_cases (tag : Byte) (rq : Request) (s : State) :
    EventsKept s (intakeRequest tag rq s) ∨ (intakeRequest tag rq s).events = (serve rq (transmit s)).1.events := by
  unfold intakeRequest
  split
  · obtain ⟨-, -, -, -, -, -, -, hevents, -⟩ := respond_fields
      { kind := requestKind rq + 0x80, tag, content := (serve rq (transmit s)).2 } (serve rq (transmit s)).1
    exact .inr hevents
  · exact .inl (holdFrame_eventsKept _ s)

/-- A frame of an unknown kind is answered or held, and no owner sees it (R149). -/
theorem intakeFrame_unknown_eventsKept {kind tag : Byte} {content : List Byte} (hk : kind ∉ requestKinds) (s : State) :
    EventsKept s (intakeFrame { kind, tag, content } s) := by
  unfold intakeFrame
  split
  · rw [takeFrame_unknown hk]
    exact (transmit_eventsKept s).trans (respond_eventsKept _ _)
  · exact holdFrame_eventsKept _ s

/-! ### Every command -/

/-- No command stops the block or touches the commands that wait (log 26 for the device reset). -/
theorem exec_pending (c : Instr) (s : State) : ∃ t, exec c s = .next t ∧ t.pending = s.pending := by
  by_cases hup : KeptByUplink.takes c = true
  · exact pendingKept_byUplink.exec hup s
  by_cases hreset : ∃ fsel baud, c = .deviceReset fsel baud
  · obtain ⟨fsel, baud, rfl⟩ := hreset
    exact ⟨_, rfl, rfl⟩
  · push Not at hreset
    obtain ⟨t, hexec, hkept⟩ := exec_beside_uplink hup hreset s
    exact ⟨t, hexec, hkept.pending⟩

theorem eq_status_of_requestOf {c : Instr} {tag option : Byte} (h : requestOf c = some (tag, .status option)) :
    c = .status tag option := by
  cases c <;> cases h
  rfl

theorem eq_maskWrite_of_requestOf {c : Instr} {tag : Byte} {mask : BitVec 16}
    (h : requestOf c = some (tag, .maskWrite mask)) : c = .maskWrite tag mask := by
  cases c <;> cases h
  rfl

/-- A MASK WRITE at intake leaves every set flag set. -/
theorem intake_maskWrite_flags (tag : Byte) (mask : BitVec 16) (s : State) :
    flagsKept s.events (intakeRequest tag (.maskWrite mask) s).events := by
  rcases intakeRequest_cases tag (.maskWrite mask) s with hkept | hevents
  · exact hkept.flags
  · have hflags : (serve (.maskWrite mask) (transmit s)).1.events.flags = s.events.flags := by
      rw [serve, (serveMaskWrite_kept mask _).2, transmit_events]
    rw [hevents, flagsKept, hflags, BitVec.and_self]

/-- Any other request at intake but a STATUS leaves the mask too. -/
theorem intakeRequest_eventsKept {tag : Byte} {rq : Request} (hstatus : ∀ option, rq ≠ .status option)
    (hmask : ∀ mask, rq ≠ .maskWrite mask) (s : State) : EventsKept s (intakeRequest tag rq s) := by
  rcases intakeRequest_cases tag rq s with hkept | hevents
  · exact hkept
  · have hserved := (transmit_eventsKept s).trans (serve_eventsKept hstatus hmask (transmit s))
    exact ⟨pendingKept_byUplink.intakeRequest tag rq s, hevents ▸ hserved.flags, hevents ▸ hserved.mask⟩

/-- A request's command clears no flag unless it is a STATUS, and leaves the mask unless it is a MASK WRITE. -/
theorem exec_request_eventsKept {c : Instr} {tag : Byte} {rq : Request} (hrq : requestOf c = some (tag, rq))
    (hstatus : ∀ tag option, c ≠ .status tag option) {s t : State} (hexec : exec c s = .next t) :
    flagsKept s.events t.events ∧ ((∀ tag mask, c ≠ .maskWrite tag mask) → t.events.mask = s.events.mask) := by
  have hnext := Host.Outcome.next.inj (hexec.symm.trans (exec_of_requestOf hrq s))
  rw [hnext, transmit_events]
  by_cases hmask : ∃ mask, rq = .maskWrite mask
  · obtain ⟨mask, rfl⟩ := hmask
    exact ⟨intake_maskWrite_flags tag mask s, fun h => absurd (eq_maskWrite_of_requestOf hrq) (h tag mask)⟩
  · have hno : ∀ option, rq ≠ .status option := fun option h => hstatus tag option (eq_status_of_requestOf (h ▸ hrq))
    have hkept := intakeRequest_eventsKept (tag := tag) hno (not_exists.1 hmask) s
    exact ⟨hkept.flags, fun _ => hkept.mask⟩

/-- A well-formed BAD_KIND command names none of the fourteen kinds (R149). -/
theorem not_mem_requestKinds {kind tag : Byte} {content : List Byte}
    (h : (Instr.badKind kind tag content).wellFormed = true) : kind ∉ requestKinds := by
  have hknown : requestKinds = knownKinds := rfl
  rw [hknown]
  simp only [Instr.wellFormed, Bool.and_eq_true, Bool.not_eq_true', List.contains_eq_mem, decide_eq_false_iff_not] at h
  exact h.1

/-- The commands on the uplink's wires that can take no frame a STATUS could be in raise UPLINK_ERROR at most. -/
theorem exec_wires_eventsKept {c : Instr} (hup : KeptByUplink.takes c = true) (hrq : requestOf c = none)
    (hw : c.wellFormed = true) (hbyte : ∀ byte fault, c ≠ .receivedByte byte fault) (hfree : c ≠ .transmitterFree)
    (hslot : c ≠ .waitingSlotTaken) (s : State) : ∃ t, exec c s = .next t ∧ EventsKept s t := by
  cases c with
  | receivedByte byte fault => exact absurd rfl (hbyte byte fault)
  | transmitterFree => exact absurd rfl hfree
  | waitingSlotTaken => exact absurd rfl hslot
  | interByteTimeout => exact ⟨_, rfl, (eventsKept_ite (discardFrame_eventsKept s)).trans (transmit_eventsKept _)⟩
  | badKind kind tag content =>
    exact ⟨_, rfl, (intakeFrame_unknown_eventsKept (not_mem_requestKinds hw) s).trans (transmit_eventsKept _)⟩
  | _ => simp [KeptByUplink.takes, hrq] at hup

/-- Settles O2: the requests by what their owners do, the wires and all other commands by what they can raise. -/
theorem flagsClearedByStatusAlone : Obligations.FlagsClearedByStatusAlone := by
  intro c s
  obtain ⟨t, hexec, hpending⟩ := exec_pending c s
  refine ⟨t, hexec, hpending, fun hw hreset hstatus hbyte hfree hslot => ?_⟩
  have of_kept : (∃ u, exec c s = .next u ∧ EventsKept s u) →
      flagsKept s.events t.events ∧ ((∀ tag m, c ≠ .maskWrite tag m) → t.events.mask = s.events.mask) := by
    rintro ⟨u, hu, hkept⟩
    obtain rfl := Host.Outcome.next.inj (hexec.symm.trans hu)
    exact ⟨hkept.flags, fun _ => hkept.mask⟩
  by_cases hup : KeptByUplink.takes c = true
  · cases hrq : requestOf c with
    | some p => exact exec_request_eventsKept hrq hstatus hexec
    | none => exact of_kept (exec_wires_eventsKept hup hrq hw hbyte hfree hslot s)
  · exact of_kept (exec_beside_uplink hup hreset s)

end Sys2Proof.Machine

/-! ## Raising a flag (R160): O56 -/

namespace Sys2Proof.Machine

theorem raise_of_set {f : Flag} {s : State} (h : flagSet s f = true) : raise f s = s := if_pos h

/-- Notice-due after a flag is raised: as it was, or due because a clear flag has come up unmasked. -/
theorem raise_noticeDue (f : Flag) (s : State) : (raise f s).uli.noticeDue = true ↔
    s.uli.noticeDue = true ∨ flagSet s f = false ∧ unmasked s f = true := by
  cases hset : flagSet s f with
  | true => simp [raise_of_set hset]
  | false => simp [raise, hset]

/-- Settles O56: the flag itself, the other flags, the mask, notice-due, and the rest of the state. -/
theorem raisingSetsFlagAndNotice : Obligations.RaisingSetsFlagAndNotice := by
  intro f s
  have hwork := raise_work f s
  refine ⟨flagSet_raise_self f s, fun g hg => flagSet_raise_of_ne s (Ne.symm hg), hwork.mask, raise_noticeDue f s,
    raise_of_set, ?_⟩
  rw [← hwork.uli]
  exact raise_frame f s

end Sys2Proof.Machine

/-! ## The machine as a whole: O1 -/

namespace Sys2Proof.Machine

/-- Settles O1: a queue with a command at its front, and an empty one. -/
theorem stepRunsFrontCommand : Obligations.StepRunsFrontCommand := by
  refine ⟨fun s c rest hfront => ?_, fun s hempty => ?_⟩
  · exact step_cons hfront
  · exact step_nil hempty

end Sys2Proof.Machine
